-- ==== Sys2Proof/Word.lean ====
section
/-! DEFINITION. The word types of the Kretil 4A and the sparse maps that hold its stores.
R3 (little-endian), R4 (bit 0 is the least significant bit). -/

namespace Sys2Proof

/-- A 64-bit register value, address or immediate. -/
abbrev Word := BitVec 64

/-- One byte. -/
abbrev Byte := BitVec 8

/-- A register number of six bits (R46). -/
abbrev Reg := BitVec 6

/-- A sparse map from numbers to `α`: a list of entries with strictly rising keys, none of
them equal to what an unlisted key reads as. -/
abbrev SMap (α : Type) := List (Nat × α)

/-- The value at key `k`; an unlisted key reads as `z`. -/
def smGet {α : Type} (z : α) : SMap α → Nat → α
  | [], _ => z
  | (j, v) :: m, k => if j = k then v else smGet z m k

/-- Writes `v` at key `k` and keeps the canonical form: a value equal to `z` leaves no entry. -/
def smSet {α : Type} [DecidableEq α] (z : α) : SMap α → Nat → α → SMap α
  | [], k, v => if v = z then [] else [(k, v)]
  | (j, w) :: m, k, v =>
    if k = j then (if v = z then smSet z m k v else (k, v) :: m)
    else if k < j ∧ v ≠ z then (k, v) :: (j, w) :: m
    else (j, w) :: smSet z m k v

/-- All keys of `m` are above `b`, strictly rising, and no entry reads as `z`. -/
def smWfFrom {α : Type} [DecidableEq α] (z : α) : Nat → SMap α → Bool
  | _, [] => true
  | b, (j, v) :: m => decide (b ≤ j) && decide (v ≠ z) && smWfFrom z (j + 1) m

/-- The canonical form of a sparse map. -/
def smWf {α : Type} [DecidableEq α] (z : α) (m : SMap α) : Bool := smWfFrom z 0 m

/-- Bits `hi..lo` of a number, as a number. -/
def bitsN (n hi lo : Nat) : Nat := (n >>> lo) % 2 ^ (hi + 1 - lo)

/-- The low `n` bits of `x`, sign-extended, as a 64-bit word (R9, `sext`). -/
def sextW (x n : Nat) : Word :=
  if n = 0 then 0
  else if x.testBit (n - 1) then BitVec.ofInt 64 ((x % 2 ^ n : Nat) - (2 ^ n : Nat) : Int)
  else BitVec.ofNat 64 (x % 2 ^ n)

/-- Replaces bits `hi..lo` of `w` by the low bits of `v`. -/
def putBits (w : Word) (hi lo v : Nat) : Word :=
  BitVec.ofNat 64 (w.toNat - bitsN w.toNat hi lo * 2 ^ lo + (v % 2 ^ (hi + 1 - lo)) * 2 ^ lo)

/-- A Boolean as the number 0 or 1. -/
def b2n (b : Bool) : Nat := if b then 1 else 0

end Sys2Proof
end

