-- ==== Sys2Proof/Syntax.lean ====
section
/-! DEFINITION. The instructions and events of the Kretil 4A: one constructor for each row of
spec/opcode_table.json. The rows with an encoding are instructions of Acpe (R33, R47, R48); the
rows without one are the indivisible steps of the other agents (file 95).

Operands are in normal form. A register number is six bits, whatever prefix supplied it (R46). The
two-operand form `OP d, s` has `a = d`. A last-use mark that R41 ignores is not kept. Immediates,
offsets and numbers are the sign-extended values of R39. -/

namespace Sys2Proof

/-- One source register and its last-use mark. -/
structure Src1 where
  a : Reg
  ua : Bool
  deriving DecidableEq, Repr

/-- Two source registers and their last-use marks. -/
structure Src2 where
  a : Reg
  b : Reg
  ua : Bool
  ub : Bool
  deriving DecidableEq, Repr

/-- Three source registers and their last-use marks. -/
structure Src3 where
  a : Reg
  b : Reg
  c : Reg
  ua : Bool
  ub : Bool
  uc : Bool
  deriving DecidableEq, Repr

/-- Destination and one source (R45). -/
structure Un where
  d : Reg
  a : Reg
  ua : Bool
  deriving DecidableEq, Repr

/-- Destination and two sources (R80). -/
structure Bin where
  d : Reg
  a : Reg
  b : Reg
  ua : Bool
  ub : Bool
  deriving DecidableEq, Repr

/-- Destination, source and immediate (R82). -/
structure Imm where
  d : Reg
  a : Reg
  imm : Word
  ua : Bool
  deriving DecidableEq, Repr

/-- MEM format: data register, base and byte offset (R53). A load never has `ud`. -/
structure Mem where
  d : Reg
  base : Reg
  off : Word
  ud : Bool
  ub : Bool
  deriving DecidableEq, Repr

/-- A base and an offset alone. -/
structure Line where
  base : Reg
  off : Word
  ub : Bool
  deriving DecidableEq, Repr

/-- MEM layout with the third register t of a P.R. -/
structure MemT where
  d : Reg
  base : Reg
  t : Reg
  off : Word
  ud : Bool
  ub : Bool
  ut : Bool
  deriving DecidableEq, Repr

/-- Vector registers d, a, b and the mask register of xo[2:0] (R51, R231). -/
structure VBin where
  d : Reg
  a : Reg
  b : Reg
  m : BitVec 3
  deriving DecidableEq, Repr

/-- Vector registers d, a and the mask register. -/
structure VUn where
  d : Reg
  a : Reg
  m : BitVec 3
  deriving DecidableEq, Repr

/-- Vector memory operand: v register, base, byte offset, mask (R237). -/
structure VMem where
  d : Reg
  base : Reg
  off : Word
  m : BitVec 3
  ub : Bool
  deriving DecidableEq, Repr

/-- Vector memory operand with a stride register or an index vector t (R237). -/
structure VMemT where
  d : Reg
  base : Reg
  t : Reg
  off : Word
  m : BitVec 3
  ub : Bool
  ut : Bool
  deriving DecidableEq, Repr

/-- The memory controls of a P.M: scope [4:2] and order [1:0] (R41). -/
structure Ctl where
  scope : BitVec 3
  order : BitVec 2
  deriving DecidableEq, Repr

/-- An atomic's operation xo[3:0] and its size bit xo[4], 1 for 32 bits (R51). -/
structure AtomOp where
  op : BitVec 4
  w32 : Bool
  deriving DecidableEq, Repr

/-- A barrier designator (R52). -/
inductive Desig where
  | none
  | wired (ch : BitVec 6)
  | word (i : BitVec 10)
  deriving DecidableEq, Repr

/-- A fabric packet (R340). `aux` holds what the kind adds: t of a write, the operation and size of an atomic,
the queue of a request, W1 of a token, the kind answered by a response; `mid` is the intermediate position of an
RT packet (R341). -/
structure Packet where
  kind : Nat
  cls : Nat
  vc : Nat
  gen : Nat
  seq : Nat
  src : Nat
  dst : Nat
  part : Nat
  score : Nat
  slot : Nat
  addr : Word
  data : List Word
  aux : Word
  mid : Option Nat
  /-- The position that a detour in the B dimension makes for (R339). -/
  via : Option Nat := none
  deriving DecidableEq, Repr

/-- A reduction packet: payload flit and bitmap flit together (R363). -/
structure RedPacket where
  stream : Nat
  ea : Word
  part : Nat
  words : List Word
  map : Nat
  sat : Bool
  e : Nat
  k : Nat
  fp32 : Bool
  combined : Bool
  mis : Bool
  /-- The operations whose contributions it holds, which are acknowledged at its delivery. -/
  who : List Packet
  /-- The header of its flits (R340): that of its contribution, or of the first that was combined (DESIGN CHOICE, log 86). -/
  head : Option Packet := none
  deriving DecidableEq, Repr

/-- One REDF entry as it is sent to its home slice (R327): the thread that commits it, its cluster, and the
launch and stamp of its segment. -/
structure RedfEntry where
  pa : Nat
  val : BitVec 32
  idx : BitVec 32
  rm : Nat
  tid : Nat
  part : Nat
  launch : Word
  inLaunch : Bool
  stamp : Nat
  deriving DecidableEq, Repr

/-- A host request's common fields (R412): channel, function, address, bytes of a WRITE or READ (bit 0 is the flag
SUP of a LAUNCH), the words of a WRITE, a MSG or a nonce. -/
structure HostReq where
  chan : Nat
  part : Nat
  addr : Word
  size : Nat
  data : List Word
  deriving DecidableEq, Repr

/-- The allotments that firmware writes into a partition block (R401, R406). -/
structure Allot where
  wbmask : Word
  pbmask : Word
  rlmask : Word
  stmask : Nat
  faba : Word
  pamin : Word
  pamax : Word
  clmask : Nat
  deriving DecidableEq, Repr

/-- A pod barrier's configuration (R365): the member devices, this device's stagger index, the local count LC, the
window W in steps of 50 ns, the allowance in clk, and the device at the root of the barrier tree. -/
structure PodCfg where
  members : List Nat
  index : Nat
  lc : Nat
  window : Nat
  allow : Nat
  root : Nat
  deriving DecidableEq, Repr

/-- The registers that a REGISTER_WRITE reaches (R112, R246, R257, R401). -/
inductive RegTarget where
  | sys (tid num : Nat)
  | engine (tid num : Nat)
  | cluster (cl off : Nat)
  | partition (part off : Nat)
  deriving DecidableEq, Repr

/-- Where MEMORY_SCRUB visits a word (R418): memory, the physical entry that holds a thread's register or, from number 56 on,
the head of its queue port, or an entry of its commit area. -/
inductive ScrubSite where
  | chip (pa : Nat)
  | spad (cl off : Nat)
  | tcm (core off : Nat)
  | reg (tid n : Nat) (isF : Bool)
  | area (tid n : Nat)
  deriving DecidableEq, Repr

/-- A store on its way over the mesh to another cluster's scratchpad (R104, R310). -/
structure SpadStore where
  tid : Nat
  cl : Nat
  off : Nat
  bytes : Nat
  val : Word
  deriving DecidableEq, Repr

/-- The arguments of an event: which thread, core, cluster and so on it concerns. Each event reads the
fields that its meaning names; the others are 0. `since` tells a timed event which wait it belongs to. -/
structure Ev where
  tid : Nat := 0
  core : Nat := 0
  cl : Nat := 0
  part : Nat := 0
  id : Nat := 0
  idx : Nat := 0
  ch : Nat := 0
  port : Nat := 0
  vc : Nat := 0
  stream : Nat := 0
  gen : Nat := 0
  list : Nat := 0
  fid : Nat := 0
  since : Nat := 0
  status : Nat := 0
  slot : Nat := 0
  n : Nat := 0
  off : Nat := 0
  pa : Nat := 0
  v : Word := 0
  w : Word := 0
  ok : Bool := false
  nums : List Nat := []
  links : List (Nat × Nat) := []
  pkt : Option Packet := none
  red : Option RedPacket := none
  redf : Option RedfEntry := none
  req : Option HostReq := none
  allot : Option Allot := none
  pod : Option PodCfg := none
  target : Option RegTarget := none
  site : Option ScrubSite := none
  spad : Option SpadStore := none
  deriving DecidableEq, Repr

/-- One step of the table of operations and events (spec/opcode_table.json). -/
inductive Instr where
  -- forms of SYSR, SYSW, EWR and ERD that have a row of their own
  | repdatWrite (o : Src1)
  | prfdatWrite (o : Src1)
  | vctlWrite (o : Src1)
  | fctlRead (d : Reg)
  | flagorWrite (o : Src1)
  | xstatWrite (o : Src1)
  | lotseedWrite (o : Src1)
  | ecauseWrite (o : Src1)
  | pinqWrite (o : Src1)
  | trctlWrite (o : Src1)
  | devidWrite (o : Src1)
  | slewWrite (o : Src1)
  | devstatWrite (o : Src1)
  | copyLaunch (d : Reg)
  | reListWrite (o : Src1)
  | reHdrWrite (o : Src1)
  | reBufRegister (o : Src1)
  | reFlush (o : Src1)
  -- page 0, major 0x0: integer register-register (R81)
  | add (o : Bin)
  | sub (o : Bin)
  | and (o : Bin)
  | or (o : Bin)
  | xor (o : Bin)
  | sll (o : Bin)
  | srl (o : Bin)
  | sra (o : Bin)
  | slt (o : Bin)
  | sltu (o : Bin)
  | mul (o : Bin)
  | mulh (o : Bin)
  | min (o : Bin)
  | max (o : Bin)
  | mov (o : Un)
  | mulhu (o : Bin)
  -- page 0, major 0x1: integer immediate (R82)
  | addi (o : Imm)
  | andi (o : Imm)
  | ori (o : Imm)
  | xori (o : Imm)
  | slli (o : Imm)
  | srli (o : Imm)
  | srai (o : Imm)
  | slti (o : Imm)
  | sltiu (o : Imm)
  | li (d : Reg) (imm : Word)
  | addpc (d : Reg) (imm : Word)
  | muli (o : Imm)
  | mini (o : Imm)
  | maxi (o : Imm)
  | cmpeqi (o : Imm)
  -- page 1, major 0x0 (R83-R87)
  | div (o : Bin)
  | divu (o : Bin)
  | rem (o : Bin)
  | remu (o : Bin)
  | minu (o : Bin)
  | maxu (o : Bin)
  | clz (o : Un)
  | ctz (o : Un)
  | popc (o : Un)
  | brev (o : Un)
  | bext (o : Bin)
  | bdep (o : Bin)
  | mapx (o : Bin)
  | unmapx (o : Bin)
  | sext (o : Un) (w : BitVec 6)
  | zext (o : Un) (w : BitVec 6)
  -- branches and jumps (R88-R94)
  | beqz (o : Src1) (off : Word)
  | bnez (o : Src1) (off : Word)
  | bltz (o : Src1) (off : Word)
  | bgez (o : Src1) (off : Word)
  | beq (o : Src2) (off : Word)
  | bne (o : Src2) (off : Word)
  | blt (o : Src2) (off : Word)
  | bge (o : Src2) (off : Word)
  | bltu (o : Src2) (off : Word)
  | bgeu (o : Src2) (off : Word)
  | j (off : Word)
  | jal (off : Word)
  | jr (o : Line)
  | jalr (o : Line)
  | loop (a : Reg) (len : Word)
  -- scalar memory (R101, R107-R110, R154)
  | lb (o : Mem)
  | lbu (o : Mem)
  | lh (o : Mem)
  | lhu (o : Mem)
  | lw (o : Mem)
  | lwu (o : Mem)
  | ld (o : Mem)
  | ldf (o : Mem)
  | lwf (o : Mem)
  | ldfe (o : Mem) (keep : Bool)
  | ldx (o : MemT)
  | pref (hint : BitVec 1) (o : Line)
  | sb (o : Mem)
  | sh (o : Mem)
  | sw (o : Mem)
  | sd (o : Mem)
  | sdf (o : Mem)
  | swf (o : Mem)
  | stfe (o : Mem)
  | stx (o : MemT)
  | feset (o : Line)
  | feclr (o : Line)
  | pin (o : Mem)
  | unpin (o : Mem)
  | clean (o : Line)
  | inval (o : Line)
  | flush (o : Line)
  -- system (R112-R120)
  | trap (code : BitVec 8)
  | sysr (d : Reg) (num : Word)
  | sysw (o : Src1) (num : Word)
  | tlbinv (o : Src1) (kind : BitVec 2) (scope : BitVec 3)
  | cacheop (o : Src1) (op : BitVec 2) (scope : BitVec 3)
  | bkpt (code : BitVec 8)
  | illegal (x : BitVec 8)
  -- fields (R143-R153)
  | fldef (o : Src2)
  | flperm (o : Src2)
  | flswap (o : Src2)
  | flxch (o : Src3)
  | flstat (o : Un)
  | flfree (o : Src1)
  | flmap (o : Bin)
  -- MAU (R191)
  | tldb (o : Mem)
  | mma (t : Reg) (o : Src1) (b : Reg) (n : BitVec 6) (g : Desig)
  | mmaz (t : Reg) (o : Src1) (b : Reg) (n : BitVec 6) (g : Desig)
  | tst (o : Mem)
  | twm (d t : Reg)
  | tclr (t : Reg)
  | axld (o : Mem) (k : BitVec 3) (cplx : Bool)
  | axapply (h : Reg) (slot : Reg) (l : Reg) (uh ul : Bool) (g : Desig)
  | axphase (o : Src3) (g : Desig)
  | axsum (o : Src3) (sq : Bool)
  | axscale (o : Src3)
  | axcopy (o : Src2)
  | talloc (o : Un)
  -- scalar float (R216)
  | fadd (o : Bin) (v : BitVec 2)
  | fsub (o : Bin) (v : BitVec 2)
  | fmul (o : Bin) (v : BitVec 2)
  | fdiv (o : Bin) (v : BitVec 2)
  | fmin (o : Bin) (v : BitVec 2)
  | fmax (o : Bin) (v : BitVec 2)
  | fsqrt (o : Un) (v : BitVec 2)
  | fabs (o : Un) (v : BitVec 2)
  | fneg (o : Un) (v : BitVec 2)
  | fma (o : Bin) (v : BitVec 2)
  | fms (o : Bin) (v : BitVec 2)
  | fnma (o : Bin) (v : BitVec 2)
  | fmvfs (o : Un)
  | fmvsf (o : Un)
  | fcmp (o : Bin) (v : BitVec 2) (c : BitVec 2)
  | fclass (o : Un) (v : BitVec 2)
  -- complex, conversion, packed, generator (R219)
  | cmac (o : Bin)
  | conj (o : Un)
  | cswap (o : Un)
  | fcvt (o : Un) (src dst : BitVec 3)
  | frnd (o : Un) (v : BitVec 2)
  | fcvti (o : Un)
  | fcvtf (o : Un)
  | padd (o : Bin) (v : BitVec 2)
  | psub (o : Bin) (v : BitVec 2)
  | pdot (o : Bin)
  | pmin (o : Bin) (v : BitVec 2)
  | pmax (o : Bin) (v : BitVec 2)
  | pshuf (o : Bin)
  | psat (o : Un) (v : BitVec 2)
  | frng (d : Reg) (v : BitVec 2)
  -- vector (R231-R239)
  | vadd (o : VBin)
  | vsub (o : VBin)
  | vmul (o : VBin)
  | vfma (o : VBin)
  | vmax (o : VBin)
  | vmin (o : VBin)
  | vdiv (o : VBin)
  | vsf (o : VUn) (f : BitVec 3)
  | vcmp (o : VBin) (c : BitVec 2)
  | vsel (o : VBin)
  | vbcst (o : VUn) (ua : Bool)
  | vred (o : VUn) (op : BitVec 2)
  | vcvt (o : VUn) (dst : BitVec 3)
  | vperm (o : VBin)
  | vrand (d : Reg) (m : BitVec 3)
  | vabs (o : VUn)
  | vld (o : VMem)
  | vlds (o : VMemT)
  | vldx (o : VMemT)
  | vst (o : VMem)
  | vsts (o : VMemT)
  | vstx (o : VMemT)
  | vcfg (o : Un)
  | scfg (o : Un)
  | sstat (d v : Reg)
  | repv (n : BitVec 4) (o : Src1) (stagger : Word) (m : BitVec 3)
  | vmsk (o : VUn) (ua : Bool)
  | vext (o : VBin) (ub : Bool)
  | vins (o : VBin) (ua ub : Bool)
  | vscan (o : VUn) (op : BitVec 2)
  -- cluster synchronisation (R249-R256)
  | barr (ch : BitVec 6)
  | barw (ch : BitVec 6)
  | barq (d : Reg) (ch : BitVec 6)
  | bmask (o : Src2)
  | tbinit (o : Mem)
  | tbexp (o : Mem)
  | tbarr (o : Line)
  | tbwait (o : Mem)
  | mrecv (d : Reg) (t : Option Reg)
  | msend (o : Src3)
  | ewr (o : Src1) (num : Word)
  | erd (d : Reg) (num : Word)
  -- scheduling (R288-R294)
  | launch (o : Src1)
  | spawn (o : Src1)
  | suspend (o : Src1)
  | wid (o : Un)
  | tsset (o : Src1)
  | tsget (d : Reg)
  | ticket (o : Bin)
  | forq (o : Un)
  | rngj (o : Src1)
  -- exchange (R300)
  | xphaseEnter (ch : BitVec 6)
  | xsend (o : Mem)
  | xsel (o : MemT)
  -- ordering and atomics (R321-R329)
  | fence (c : Ctl)
  | amo (o : MemT) (op : AtomOp) (c : Ctl)
  | cas (o : MemT) (c : Ctl)
  | redf (o : MemT) (c : Ctl)
  | rseq (o : Bin)
  -- remote and fabric (R344-R366)
  | rwr (o : MemT) (cls : BitVec 2)
  | rwrb (o : MemT) (cls : BitVec 2)
  | ramo (o : MemT) (op : AtomOp) (cls : BitVec 2) (c : Ctl)
  | rcas (o : MemT) (cls : BitVec 2) (c : Ctl)
  | renq (o : MemT) (cls : BitVec 2)
  | fencer (mask : BitVec 3)
  | rtsend (o : Src3)
  | smark (o : Src2)
  | rred (o : MemT) (cls : BitVec 2)
  | rpbar (o : Src1)
  | rpwait (o : Src1)
  -- derived tensors (R390)
  | dvreg (o : Src2)
  | dvdrop (o : Src1)
  | dvstat (o : Un)
  | dvref (o : Un)
  -- instructions without operands (R118, R211, R256, R291, R300, R321)
  | nop
  | pause
  | eret
  | wfi
  | halt
  | mwait
  | waitm
  | yield
  | commit
  | xphaseLeave
  -- the steps of the other agents: their arguments stand in the state (`Ev`)
  -- events: bring-up and cores
  | powerUp
  | marchTimeout
  | readyClockRaise
  | coreRestart
  | carveInterval
  | carveMoveDone
  | registerFill
  | queueStallTimeout
  | vuPopStallTimeout
  | vuInstructionStart
  | vuInstructionComplete
  | mauCommandStart
  | tileRowFinal
  | mauCommandComplete
  | flxchCopyPhase
  | flxchPartnerTimeout
  | ldfeSuspendTimeout
  | barrierArrivalCounted
  | barrierRelease
  | barrierWaitSpill
  | mailboxDelivery
  | mailboxPortDrain
  | wfiTimeout
  | pauseExpiry
  | copyCommandStart
  | copyCommandComplete
  -- events: scheduler
  | unitCreate
  | lotteryDraw
  | gangStart
  | domainMinimumUpdate
  | preemptMessage
  | resumeMessage
  | launchComplete
  | endlWrite
  | digestRequestWrite
  | digestComplete
  -- events: exchange, memory order
  | xsendTransmit
  | xselCapture
  | phaseForcedEnd
  | segmentCommitComplete
  | redfEntryArrival
  | redfEntryRetry
  | reduceStallTimeout
  -- events: fabric
  | remoteOpArrival
  | remoteAckArrival
  | remoteResponseArrival
  | requestRecordArrival
  | packetNakResend
  | packetForward
  | multicastForward
  | linkFlitReceive
  | linkModeSet
  | routingTableInstall
  | routingTableSwitch
  | routingGenerationRetire
  | routerPowerDown
  | routerWake
  | streamEntryWrite
  | markerArrival
  | reductionPacketArrival
  | reduceLimitExpiry
  | endpointReductionArrival
  | endpointIncompleteTimeout
  | closedRecordExpiry
  | podDeviceArrival
  | podRootComplete
  | podRelease
  | routeRecordSend
  | tokenArrival
  | flushSummary
  -- events: cache slices, power
  | staleNoticeArrival
  | staleNoticeAck
  | recomputeComplete
  | l1MissReturn
  | memoryScrub
  | governorWindow
  | mauRampArm
  -- events: host and partitions
  | hostWrite
  | hostRead
  | hostLaunch
  | hostSpawn
  | hostMsg
  | hostFence
  | hostAttestation
  | captureStream
  | partitionCreate
  | partitionSuspend
  | partitionRestore
  | partitionEnd
  | clusterHandover
  | registerWrite
  -- events added at the end of the table
  | scratchpadAccessArrival
  | tlbAcknowledgement
  | cacheLineOperationPerformed
  | eventQueueRegistration
  | podBarrierConfiguration
  | linkKeyReplacement
  deriving DecidableEq, Repr

end Sys2Proof
end

