-- ==== Sys2Proof/Decode.lean ====
section
/-! DEFINITION. The decoder of Acpe (R34 to R57) and, after it, an encoder written from the same
tables. `decodeChain` is total: it answers the instruction, or the fault that R55 raises first with
the parcel and the index that R56 names. -/

namespace Sys2Proof

/-- What R55 raises: the cause code of R397, the parcel and its index (R56). -/
structure DecErr where
  cause : Nat
  parcel : Nat
  idx : Nat
  deriving DecidableEq, Repr

/-- The parcels of one instruction as the loop of R55 collects them. `hi` is the concatenation of the
P.I payloads (R39); the `…At` fields are parcel indices. -/
structure Chain where
  n : Nat
  ki : Nat
  hi : Nat
  iAt : Nat
  pr : Option Nat
  rAt : Nat
  pm : Option Nat
  mAt : Nat
  po : Option Nat
  oAt : Nat
  base : Nat
  deriving DecidableEq, Repr

/-- No parcel seen yet. -/
def Chain.empty : Chain :=
  { n := 0, ki := 0, hi := 0, iAt := 0, pr := none, rAt := 0, pm := none, mAt := 0, po := none,
    oAt := 0, base := 0 }

/-- The next state of the loop of R55. -/
inductive ParseRes where
  | more (c : Chain)
  | done (c : Chain)
  | bad (e : DecErr)
  deriving DecidableEq, Repr

/-- A parcel with [15:12] = 0b1111 is a prefix (R34). -/
def isPrefix (p : Nat) : Bool := p / 4096 % 16 == 15

/-- One round of the loop of R55. -/
def Chain.push (c : Chain) (p : Nat) : ParseRes :=
  if isPrefix p = false then .done { c with base := p }
  else if c.n = 4 then .bad ⟨2, p, 4⟩
  else
    match p / 1024 % 4 with
    | 0 => .more { c with n := c.n + 1, hi := c.hi * 1024 + p % 1024, ki := c.ki + 1,
                          iAt := if c.ki = 0 then c.n else c.iAt }
    | 1 => if c.pr.isSome then .bad ⟨2, p, c.n⟩
           else .more { c with n := c.n + 1, pr := some (p % 1024), rAt := c.n }
    | 2 => if c.pm.isSome then .bad ⟨2, p, c.n⟩
           else .more { c with n := c.n + 1, pm := some (p % 1024), mAt := c.n }
    | _ => if c.po.isSome then .bad ⟨2, p, c.n⟩
           else .more { c with n := c.n + 1, po := some (p % 1024), oAt := c.n }

/-- The loop of R55 over parcels already at hand; `none` where they end inside the chain. -/
def Chain.parse : Chain → List Nat → Option ParseRes
  | _, [] => none
  | c, p :: ps =>
    match c.push p with
    | .more c' => c'.parse ps
    | r => some r

namespace Chain

variable (c : Chain)

/-- The payload of the P.R, 0 without one. -/
def prv : Nat := c.pr.getD 0
/-- The payload of the P.M, 0 without one (R27). -/
def pmv : Nat := c.pm.getD 0
/-- The payload of the P.O, 0 without one (R42). -/
def pov : Nat := c.po.getD 0
/-- P.R xd (R40). -/
def xd : Nat := c.prv / 256 % 4
/-- P.R xs (R40). -/
def xs : Nat := c.prv / 64 % 4
/-- P.R t (R40). -/
def tn : Nat := c.prv % 64
/-- The opcode page (R42). -/
def page : Nat := c.pov / 64 % 16
/-- The extra operand bits (R42). -/
def xo : Nat := c.pov % 64
/-- The major opcode. -/
def major : Nat := c.base / 4096 % 16
/-- The fn field: [11:8], or cc of BZ, or link of J (R43). -/
def fn : Nat :=
  if c.major = 4 then c.base / 1024 % 4
  else if c.major = 6 ∧ c.page = 0 then c.base / 2048 % 2
  else c.base / 256 % 16
/-- Base [7:4]. -/
def lowD : Nat := c.base / 16 % 16
/-- Base [3:0]. -/
def lowS : Nat := c.base % 16
/-- Register d, six bits (R46). -/
def d : Reg := BitVec.ofNat 6 (c.xd * 16 + c.lowD)
/-- Register s, six bits (R46). -/
def s : Reg := BitVec.ofNat 6 (c.xs * 16 + c.lowS)
/-- Register t (R40). -/
def t : Reg := BitVec.ofNat 6 c.tn
/-- Register s of BZ, base [9:6] (R46). -/
def bz : Reg := BitVec.ofNat 6 (c.xs * 16 + c.base / 64 % 16)
/-- Last use A, B, C (R41). -/
def ua : Bool := c.pmv.testBit 9
def ub : Bool := c.pmv.testBit 8
def uc : Bool := c.pmv.testBit 7
/-- Variant or class (R41). -/
def v : Nat := c.pmv / 32 % 4
def scope : Nat := c.pmv / 4 % 8
def order : Nat := c.pmv % 4
/-- The immediate of R39 over `w` base bits. -/
def imm (w : Nat) : Word := sextW (c.hi * 2 ^ w + c.base % 2 ^ w) (10 * c.ki + w)
/-- Is a P.R present? -/
def r : Bool := c.pr.isSome

/-- Two-operand or three-operand form (R80): without P.R d := d op s, with P.R d := s op t. -/
def bin : Bin :=
  if c.r then ⟨c.d, c.s, c.t, c.ua, c.ub⟩ else ⟨c.d, c.d, c.s, false, c.ua⟩
/-- Single source (R45). -/
def one : Reg := if c.r then c.t else c.s
def un : Un := ⟨c.d, c.one, c.ua⟩
def src : Src1 := ⟨c.one, c.ua⟩
/-- RI form (R82): the source is d without P.R and t with P.R. -/
def ri : Imm := if c.r then ⟨c.d, c.t, c.imm 4, c.ua⟩ else ⟨c.d, c.d, c.imm 4, false⟩
/-- MEM load (R53): d is a destination, so A marks the base. -/
def load : Mem := ⟨c.d, c.s, c.imm 0, false, c.ua⟩
/-- MEM store (R53): A marks the data, B the base. -/
def store : Mem := ⟨c.d, c.s, c.imm 0, c.ua, c.ub⟩
def line : Line := ⟨c.s, c.imm 0, c.ua⟩
def loadT : MemT := ⟨c.d, c.s, c.t, c.imm 0, false, c.ua, c.ub⟩
def storeT : MemT := ⟨c.d, c.s, c.t, c.imm 0, c.ua, c.ub, c.uc⟩
def vbin : VBin :=
  if c.r then ⟨c.d, c.s, c.t, BitVec.ofNat 3 c.xo⟩ else ⟨c.d, c.d, c.s, BitVec.ofNat 3 c.xo⟩
def vun : VUn := ⟨c.d, c.one, BitVec.ofNat 3 c.xo⟩
def vload : VMem := ⟨c.d, c.s, c.imm 0, BitVec.ofNat 3 c.xo, c.ua⟩
def vstore : VMem := ⟨c.d, c.s, c.imm 0, BitVec.ofNat 3 c.xo, c.ub⟩
def vloadT : VMemT := ⟨c.d, c.s, c.t, c.imm 0, BitVec.ofNat 3 c.xo, c.ua, c.ub⟩
def vstoreT : VMemT := ⟨c.d, c.s, c.t, c.imm 0, BitVec.ofNat 3 c.xo, c.ub, c.uc⟩
def ctl : Ctl := ⟨BitVec.ofNat 3 c.scope, BitVec.ofNat 2 c.order⟩
/-- The operation and size of an atomic, xo[3:0] and xo[4] (R51). -/
def atom : AtomOp := ⟨BitVec.ofNat 4 c.xo, c.xo.testBit 4⟩
/-- SYS forms with one register in [7:4] (R54). -/
def sysSrc : Src1 := ⟨c.d, c.ua⟩
def var : BitVec 2 := BitVec.ofNat 2 c.v
def subOp : Nat := c.xo / 8 % 8

/-- The designator of a value (R52): bits above [11] zero, kind not 11, wired index at most 63. -/
def desigOf (w : Word) : Option Desig :=
  let n := w.toNat
  if n ≥ 4096 then none
  else match n / 1024 with
    | 0 => some .none
    | 1 => if n % 1024 > 63 then none else some (.wired (BitVec.ofNat 6 n))
    | 2 => some (.word (BitVec.ofNat 10 n))
    | _ => none

/-- The designator formed from P.I parcels alone; without any there is no barrier operand. -/
def desig : Option Desig := desigOf (c.imm 0)

/-- The wired channel of BARR, BARW and BARQ: only kind 01 is accepted (R251). -/
def channel : Option (BitVec 6) :=
  match desigOf (c.imm 4) with
  | some (.wired ch) => some ch
  | _ => none

end Chain

/-- What a register field of the base parcel or the t of a P.R names (R46). `zero`: must be zero.
`data`: no register, its upper bits must be zero. -/
inductive RFile where
  | sreg | freg | vreg | mreg | tile | zero | data
  deriving DecidableEq, Repr

/-- The first register number outside a file (R46). -/
def RFile.limit : RFile → Nat
  | .sreg | .freg | .data => 64
  | .vreg => 32
  | .mreg => 8
  | .tile => 48
  | .zero => 1

/-- The row of R50, R51 and of the instruction's own table. `vs` lists the accepted P.M variants and
`xoOk` says whether the chain's xo is accepted. -/
structure Shape where
  pi : Bool
  pr : Bool
  pm : Bool
  needI : Bool
  needR : Bool
  single : Bool
  d : RFile
  s : RFile
  t : RFile
  vs : List Nat
  cls : Bool
  scope : Bool
  order : Bool
  needOrder : Bool
  xoOk : Bool
  /-- P.R xs must be zero although the s field names a register (R249). -/
  xs0 : Bool := false
  deriving DecidableEq, Repr

/-- Register-register with a third register. -/
def Shape.rr (c : Chain) (d s t : RFile) : Shape :=
  { pi := false, pr := true, pm := true, needI := false, needR := false, single := false,
    d := d, s := s, t := t, vs := [0], cls := false, scope := false, order := false,
    needOrder := false, xoOk := c.xo == 0 }

/-- Register-register with one source under R45. -/
def Shape.one (c : Chain) (d s : RFile) : Shape :=
  { Shape.rr c d s s with single := true }

/-- MEM layout, no third register (R53). -/
def Shape.mem (c : Chain) (d : RFile) : Shape := { Shape.rr c d .sreg .zero with pi := true }

/-- MEM layout with a required third register. -/
def Shape.memT (c : Chain) (d t : RFile) : Shape :=
  { Shape.rr c d .sreg t with pi := true, needR := true }

/-- A SYS parcel (R54): no P.I, and a P.R only where [7:4] names a register. -/
def Shape.sys (c : Chain) (d s : RFile) (pr pm : Bool) : Shape :=
  { Shape.rr c d s .zero with pr := pr, pm := pm }

/-- Require P.R. -/
def Shape.withR (x : Shape) : Shape := { x with needR := true }
/-- Accept these P.M variants. -/
def Shape.withV (x : Shape) (vs : List Nat) : Shape := { x with vs := vs }
/-- Accept an xo under this condition. -/
def Shape.withXo (x : Shape) (ok : Bool) : Shape := { x with xoOk := ok }
/-- Accept P.I. -/
def Shape.withI (x : Shape) : Shape := { x with pi := true }
/-- The P.M variant is a routing class (R50). -/
def Shape.withClass (x : Shape) : Shape := { x with cls := true, vs := [0, 1, 2, 3] }
/-- Accept P.M scope and order. -/
def Shape.withSO (x : Shape) : Shape := { x with scope := true, order := true }

/-- xo of the vector majors: mask alone (R51). -/
def Chain.xoMask (c : Chain) : Bool := decide (c.xo < 8)

/-- The assigned system-register numbers (R113). -/
def sysNumbers : List Nat :=
  [0x001, 0x002, 0x003, 0x004, 0x005, 0x008, 0x009, 0x00A, 0x010, 0x011, 0x012, 0x013, 0x014, 0x018,
   0x020, 0x021, 0x100, 0x101, 0x102, 0x103, 0x104, 0x105, 0x106, 0x107, 0x108, 0x109, 0x10A,
   0x200, 0x201, 0x202, 0x203, 0x204, 0x205, 0x206, 0x207, 0x208]

/-- SYSR: the number must be assigned (R54). FCTL has a row of its own. -/
def buildSysr (c : Chain) : Option Instr :=
  let n := (c.imm 4).toNat
  if n ∉ sysNumbers then none
  else if n = 0x010 then some (.fctlRead c.d)
  else some (.sysr c.d (c.imm 4))

/-- SYSW: the number must be assigned (R54). Registers with a row of their own go there. -/
def buildSysw (c : Chain) : Option Instr :=
  let n := (c.imm 4).toNat
  if n ∉ sysNumbers then none
  else some (match n with
    | 0x204 => .repdatWrite c.sysSrc
    | 0x202 => .prfdatWrite c.sysSrc
    | 0x011 => .vctlWrite c.sysSrc
    | 0x104 => .flagorWrite c.sysSrc
    | 0x018 => .xstatWrite c.sysSrc
    | 0x105 => .lotseedWrite c.sysSrc
    | 0x101 => .ecauseWrite c.sysSrc
    | 0x021 => .pinqWrite c.sysSrc
    | 0x108 => .trctlWrite c.sysSrc
    | 0x004 => .devidWrite c.sysSrc
    | 0x206 => .slewWrite c.sysSrc
    | 0x208 => .devstatWrite c.sysSrc
    | _ => .sysw c.sysSrc (c.imm 4))

/-- EWR (R259, R332, R357): ce.launch and re.stat cannot be written; 0 to 6 and 256 to 259 can. -/
def buildEwr (c : Chain) : Option Instr :=
  match (c.imm 4).toNat with
  | 256 => some (.reListWrite c.sysSrc)
  | 257 => some (.reHdrWrite c.sysSrc)
  | 258 => some (.reBufRegister c.sysSrc)
  | 259 => some (.reFlush c.sysSrc)
  | n => if n ≤ 6 then some (.ewr c.sysSrc (c.imm 4)) else none

/-- ERD (R259, R332). -/
def buildErd (c : Chain) : Option Instr :=
  let n := (c.imm 4).toNat
  if n = 7 then some (.copyLaunch c.d)
  else if n ≤ 6 ∨ (256 ≤ n ∧ n ≤ 260) then some (.erd c.d (c.imm 4))
  else none

/-- The conversions of R172 as (source, destination) format codes. -/
def isConversion (a b : Nat) : Bool :=
  match a with
  | 0 => b == 1 || b == 3 || b == 4 || b == 5 || b == 6
  | 1 => b == 3 || b == 4 || b == 5 || b == 6 || b == 0
  | 6 => b == 3 || b == 4 || b == 5 || b == 0 || b == 1
  | 3 => b == 5 || b == 0 || b == 1 || b == 6 || b == 4
  | 4 => b == 5 || b == 0 || b == 1 || b == 6 || b == 3
  | 5 => b == 0 || b == 1 || b == 6
  | 2 => b == 7
  | 7 => b == 2
  | _ => false

/-- A row: its shape and, where the fields of the base parcel follow the rules, its instruction. -/
abbrev Row := Option (Shape × Option Instr)

/-- Page 0, major 0x0 (R47, R81). -/
def row0 (c : Chain) : Row :=
  let b (i : Bin → Instr) : Row := some (.rr c .sreg .sreg .sreg, some (i c.bin))
  match c.fn with
  | 0x0 => b .add | 0x1 => b .sub | 0x2 => b .and | 0x3 => b .or
  | 0x4 => b .xor | 0x5 => b .sll | 0x6 => b .srl | 0x7 => b .sra
  | 0x8 => b .slt | 0x9 => b .sltu | 0xA => b .mul | 0xB => b .mulh
  | 0xC => b .min | 0xD => b .max | 0xF => b .mulhu
  | 0xE => some (.one c .sreg .sreg, some (.mov c.un))
  | _ => none

/-- Page 0, major 0x1 (R47, R82). -/
def row1 (c : Chain) : Row :=
  let b (i : Imm → Instr) : Row := some ((Shape.rr c .sreg .data .sreg).withI, some (i c.ri))
  match c.fn with
  | 0x0 => b .addi | 0x1 => b .andi | 0x2 => b .ori | 0x3 => b .xori
  | 0x4 => b .slli | 0x5 => b .srli | 0x6 => b .srai | 0x7 => b .slti
  | 0x8 => b .sltiu | 0xB => b .muli | 0xC => b .mini | 0xD => b .maxi | 0xE => b .cmpeqi
  | 0x9 => some ((Shape.rr c .sreg .data .zero).withI, some (.li c.d (c.imm 4)))
  | 0xA => some ((Shape.rr c .sreg .data .zero).withI, some (.addpc c.d (c.imm 4)))
  | _ => none

/-- Page 0, major 0x2 (R47, R101). The hint of a PREF is d with its P.R xd: a hint from 2 on makes the base the parcel of
R56 (DESIGN CHOICE, log 105). -/
def row2 (c : Chain) : Row :=
  let b (i : Mem → Instr) : Row := some (.mem c .sreg, some (i c.load))
  match c.fn with
  | 0x0 => b .lb | 0x1 => b .lbu | 0x2 => b .lh | 0x3 => b .lhu
  | 0x4 => b .lw | 0x5 => b .lwu | 0x6 => b .ld
  | 0x7 => some (.mem c .freg, some (.ldf c.load))
  | 0x8 => some (.mem c .freg, some (.lwf c.load))
  | 0x9 => some ((Shape.mem c .sreg).withV [0, 1], some (.ldfe c.load (c.v == 1)))
  | 0xA => some (.memT c .freg .sreg, some (.ldx c.loadT))
  | 0xB => some (.mem c .sreg, if c.d.toNat ≤ 1 then some (.pref (BitVec.ofNat 1 c.d.toNat) c.line)
                            else none)
  | _ => none

/-- Page 0, major 0x3 (R47, R101). -/
def row3 (c : Chain) : Row :=
  let b (i : Mem → Instr) : Row := some (.mem c .sreg, some (i c.store))
  let l (i : Line → Instr) : Row := some (.mem c .zero, some (i c.line))
  match c.fn with
  | 0x0 => b .sb | 0x1 => b .sh | 0x2 => b .sw | 0x3 => b .sd
  | 0x4 => some (.mem c .freg, some (.sdf c.store))
  | 0x5 => some (.mem c .freg, some (.swf c.store))
  | 0x6 => b .stfe
  | 0x7 => some (.memT c .freg .sreg, some (.stx c.storeT))
  | 0x8 => l .feset | 0x9 => l .feclr
  | 0xA => some (.mem c .sreg, some (.pin c.load))
  | 0xB => some (.mem c .sreg, some (.unpin c.load))
  | 0xC => l .clean | 0xD => l .inval | 0xE => l .flush
  | _ => none

/-- Page 0, majors 0x4 to 0x6 (R47, R88 to R90). -/
def row456 (c : Chain) : Row :=
  let z (i : Src1 → Word → Instr) : Row :=
    some ((Shape.rr c .data .sreg .zero).withI, some (i ⟨c.bz, c.ua⟩ (c.imm 6)))
  let b (i : Src2 → Word → Instr) : Row :=
    some ({ (Shape.rr c .sreg .sreg .zero).withI with needI := true },
      some (i ⟨c.d, c.s, c.ua, c.ub⟩ (c.imm 0)))
  let j (i : Word → Instr) : Row :=
    some ({ (Shape.rr c .data .data .zero).withI with pr := false, pm := false },
      some (i (c.imm 11)))
  match c.major, c.fn with
  | 4, 0 => z .beqz | 4, 1 => z .bnez | 4, 2 => z .bltz | 4, 3 => z .bgez
  | 5, 0 => b .beq | 5, 1 => b .bne | 5, 2 => b .blt | 5, 3 => b .bge
  | 5, 4 => b .bltu | 5, 5 => b .bgeu
  | 6, 0 => j .j | 6, 1 => j .jal
  | _, _ => none

/-- Page 0, major 0x7 (R216). -/
def row7 (c : Chain) : Row :=
  let b (i : Bin → BitVec 2 → Instr) (vs : List Nat) : Row :=
    some ((Shape.rr c .freg .freg .freg).withV vs, some (i c.bin c.var))
  let u (i : Un → BitVec 2 → Instr) (vs : List Nat) : Row :=
    some ((Shape.one c .freg .freg).withV vs, some (i c.un c.var))
  let m (i : Bin → BitVec 2 → Instr) : Row :=
    some (((Shape.rr c .freg .freg .freg).withV [0, 1, 2, 3]).withR, some (i c.bin c.var))
  let all := [0, 1, 2, 3]
  let real := [0, 2, 3]
  match c.fn with
  | 0x0 => b .fadd all | 0x1 => b .fsub all | 0x2 => b .fmul all | 0x3 => b .fdiv all
  | 0x4 => b .fmin real | 0x5 => b .fmax real
  | 0x6 => u .fsqrt real | 0x7 => u .fabs real | 0x8 => u .fneg all
  | 0x9 => m .fma | 0xA => m .fms | 0xB => m .fnma
  | 0xC => some (.one c .sreg .freg, some (.fmvfs c.un))
  | 0xD => some (.one c .freg .sreg, some (.fmvsf c.un))
  | 0xE => some ((((Shape.rr c .sreg .freg .freg).withV
      (if c.xo % 4 = 1 ∨ c.xo % 4 = 2 then real else all)).withR).withXo (decide (c.xo < 4)),
      some (.fcmp c.bin c.var (BitVec.ofNat 2 c.xo)))
  | 0xF => some ((Shape.one c .sreg .freg).withV all, some (.fclass c.un c.var))
  | _ => none

/-- Page 0, major 0x8 (R219). -/
def row8 (c : Chain) : Row :=
  let lanes := [0, 1, 2]
  let p (i : Bin → BitVec 2 → Instr) : Row :=
    some ((Shape.rr c .sreg .sreg .sreg).withV lanes, some (i c.bin c.var))
  match c.fn with
  | 0x0 => some ((Shape.rr c .freg .freg .freg).withR, some (.cmac c.bin))
  | 0x1 => some (.one c .freg .freg, some (.conj c.un))
  | 0x2 => some (.one c .freg .freg, some (.cswap c.un))
  | 0x3 => some ((Shape.one c .freg .freg).withXo (isConversion (c.xo / 8) (c.xo % 8)),
      some (.fcvt c.un (BitVec.ofNat 3 (c.xo / 8)) (BitVec.ofNat 3 c.xo)))
  | 0x4 => some ((Shape.one c .freg .freg).withV [0, 1, 2, 3], some (.frnd c.un c.var))
  | 0x5 => some (.one c .sreg .freg, some (.fcvti c.un))
  | 0x6 => some (.one c .freg .sreg, some (.fcvtf c.un))
  | 0x7 => p .padd | 0x8 => p .psub
  | 0x9 => some ((Shape.rr c .sreg .sreg .sreg).withR, some (.pdot c.bin))
  | 0xA => p .pmin | 0xB => p .pmax
  | 0xC => some (.rr c .sreg .sreg .sreg, some (.pshuf c.bin))
  | 0xD => some ((Shape.one c .sreg .sreg).withV lanes, some (.psat c.un c.var))
  | 0xE => some ((Shape.rr c .freg .zero .zero).withV [0, 1, 2, 3], some (.frng c.d c.var))
  | _ => none

/-- Page 0, major 0x9 (R231). -/
def row9 (c : Chain) : Row :=
  let b (i : VBin → Instr) : Row := some ((Shape.rr c .vreg .vreg .vreg).withXo c.xoMask, some (i c.vbin))
  let mk := BitVec.ofNat 3 c.xo
  match c.fn with
  | 0x0 => b .vadd | 0x1 => b .vsub | 0x2 => b .vmul
  | 0x3 => some (((Shape.rr c .vreg .vreg .vreg).withXo c.xoMask).withR, some (.vfma c.vbin))
  | 0x4 => b .vmax | 0x5 => b .vmin | 0x6 => b .vdiv
  | 0x7 => some ((Shape.one c .vreg .vreg).withXo true, some (.vsf c.vun (BitVec.ofNat 3 c.subOp)))
  | 0x8 => some (((Shape.rr c .mreg .vreg .vreg).withXo (decide (c.subOp < 4))).withR,
      some (.vcmp c.vbin (BitVec.ofNat 2 c.subOp)))
  | 0x9 => some (((Shape.rr c .vreg .vreg .vreg).withXo (c.xoMask && decide (0 < c.xo))).withR,
      some (.vsel c.vbin))
  | 0xA => some ((Shape.one c .vreg .sreg).withXo c.xoMask, some (.vbcst c.vun c.ua))
  | 0xB => some ((Shape.one c .sreg .vreg).withXo (decide (c.subOp < 3)),
      some (.vred c.vun (BitVec.ofNat 2 c.subOp)))
  | 0xC => some ((Shape.one c .vreg .vreg).withXo true, some (.vcvt c.vun (BitVec.ofNat 3 c.subOp)))
  | 0xD => b .vperm
  | 0xE => some ((Shape.rr c .vreg .zero .zero).withXo c.xoMask, some (.vrand c.d mk))
  | 0xF => some ((Shape.one c .vreg .vreg).withXo c.xoMask, some (.vabs c.vun))
  | _ => none

/-- Page 0, major 0xA (R237, R239). -/
def rowA (c : Chain) : Row :=
  let mk := BitVec.ofNat 3 c.xo
  match c.fn with
  | 0x0 => some ((Shape.mem c .vreg).withXo c.xoMask, some (.vld c.vload))
  | 0x1 => some ((Shape.memT c .vreg .sreg).withXo c.xoMask, some (.vlds c.vloadT))
  | 0x2 => some ((Shape.memT c .vreg .vreg).withXo c.xoMask, some (.vldx c.vloadT))
  | 0x3 => some ((Shape.mem c .vreg).withXo c.xoMask, some (.vst c.vstore))
  | 0x4 => some ((Shape.memT c .vreg .sreg).withXo c.xoMask, some (.vsts c.vstoreT))
  | 0x5 => some ((Shape.memT c .vreg .vreg).withXo c.xoMask, some (.vstx c.vstoreT))
  | 0x6 => some (.one c .sreg .sreg, some (.vcfg c.un))
  | 0x7 => some (.one c .vreg .sreg, some (.scfg c.un))
  | 0x8 => some (.one c .sreg .vreg, some (.sstat c.d c.one))
  | 0x9 => some (((Shape.one c .data .sreg).withI).withXo c.xoMask,
      some (.repv (BitVec.ofNat 4 c.lowD) c.src (c.imm 0) mk))
  | 0xA => some ((Shape.one c .mreg .sreg).withXo c.xoMask, some (.vmsk c.vun c.ua))
  | 0xB => some (((Shape.rr c .sreg .vreg .sreg).withXo c.xoMask).withR, some (.vext c.vbin c.ub))
  | 0xC => some (((Shape.rr c .vreg .sreg .sreg).withXo c.xoMask).withR, some (.vins c.vbin c.ua c.ub))
  | 0xD => some ((Shape.one c .vreg .vreg).withXo (decide (c.subOp < 3)),
      some (.vscan c.vun (BitVec.ofNat 2 c.subOp)))
  | _ => none

/-- Page 0, major 0xB (R191). -/
def rowB (c : Chain) : Row :=
  let mma (i : Reg → Src1 → Reg → BitVec 6 → Desig → Instr) : Row :=
    some ((((Shape.rr c .tile .sreg .tile).withR).withI).withXo (decide (c.xo < 48)),
      c.desig.map fun g => i c.d ⟨c.s, c.ua⟩ c.t (BitVec.ofNat 6 c.xo) g)
  let o3 : Src3 := ⟨c.d, c.s, c.t, c.ua, c.ub, c.uc⟩
  match c.fn with
  | 0x0 => some (.mem c .tile, some (.tldb c.load))
  | 0x1 => mma .mma
  | 0x2 => mma .mmaz
  | 0x3 => some (.mem c .tile, some (.tst { c.load with ub := c.ub }))
  | 0x4 => some (.rr c .sreg .tile .zero, some (.twm c.d c.s))
  | 0x5 => some (.rr c .tile .zero .zero, some (.tclr c.d))
  | 0x6 => some ((Shape.mem c .mreg).withXo (decide (1 ≤ c.xo % 8 ∧ c.xo % 8 ≤ 4 ∧ c.xo < 16)),
      some (.axld c.load (BitVec.ofNat 3 c.xo) (c.xo.testBit 3)))
  | 0x7 => some (((Shape.rr c .sreg .mreg .sreg).withR).withI,
      c.desig.map fun g => .axapply c.d c.s c.t c.ua c.uc g)
  | 0x8 => some (((Shape.rr c .sreg .sreg .freg).withR).withI, c.desig.map fun g => .axphase o3 g)
  | 0x9 => some (((Shape.rr c .sreg .sreg .sreg).withR).withXo (decide (c.xo < 2)),
      some (.axsum o3 (c.xo == 1)))
  | 0xA => some ((Shape.rr c .sreg .sreg .freg).withR, some (.axscale o3))
  | 0xB => some (.rr c .sreg .sreg .zero, some (.axcopy ⟨c.d, c.s, c.ua, c.ub⟩))
  | 0xC => some (.rr c .zero .zero .zero, some .mwait)
  | 0xD => some (.rr c .sreg .sreg .zero, some (.talloc ⟨c.d, c.s, c.ua⟩))
  | _ => none

/-- Page 0, major 0xC (R251, R254, R256, R290 to R292, R321, R353). DESIGN CHOICE (log 71): the spec does not say what MRECV
does with a non-zero base s field, which neither R50 nor R256 lists; it raises ILLEGAL_OP. -/
def rowC (c : Chain) : Row :=
  let ch := (Shape.rr c .zero .data .zero).withI
  match c.fn with
  | 0x0 => some (ch, c.channel.map .barr)
  | 0x1 => some (ch, c.channel.map .barw)
  | 0x2 => some ({ ch with t := .sreg, needR := true }, c.channel.map (.barq c.t))
  | 0x3 => some (.mem c .sreg, some (.tbinit c.store))
  | 0x4 => some (.mem c .sreg, some (.tbexp c.store))
  | 0x5 => some (.mem c .zero, some (.tbarr c.line))
  | 0x6 => some (.mem c .sreg, some (.tbwait c.load))
  | 0x7 => some (.rr c .zero .zero .zero, some .waitm)
  | 0x8 => some (.rr c .sreg .zero .sreg, some (.mrecv c.d (if c.r then some c.t else none)))
  | 0x9 => some ((Shape.rr c .sreg .sreg .sreg).withR, some (.msend ⟨c.d, c.s, c.t, c.ua, c.ub, c.uc⟩))
  | 0xA => some ({ (Shape.rr c .zero .zero .zero).withSO with needOrder := true },
      some (.fence c.ctl))
  | 0xB => some ((Shape.rr c .zero .zero .zero).withXo (decide (1 ≤ c.xo ∧ c.xo < 8)),
      some (.fencer (BitVec.ofNat 3 c.xo)))
  | 0xC => some (.rr c .zero .zero .zero, some .commit)
  | 0xD => some (.rr c .sreg .zero .zero, some (.suspend ⟨c.d, c.ua⟩))
  | 0xE => some (.rr c .zero .zero .zero, some .yield)
  | 0xF => some (.one c .sreg .sreg, some (.wid c.un))
  | _ => none

/-- XPHASE takes kind 01, or kind 00 with index 0 (R300). -/
def buildXphase (c : Chain) : Option Instr :=
  match Chain.desigOf (c.imm 4) with
  | some (.wired ch) => some (.xphaseEnter ch)
  | some .none => if (c.imm 4).toNat = 0 then some .xphaseLeave else none
  | _ => none

/-- Page 0, major 0xD (R259, R300, R325, R344, R356, R362). -/
def rowD (c : Chain) : Row :=
  let cls := BitVec.ofNat 2 c.v
  let atomXo := decide (c.xo < 32 ∧ c.xo % 16 ≤ 8)
  match c.fn with
  | 0x0 => some (({ Shape.memT c .sreg .sreg with needR := false }).withClass, some (.rwr c.storeT cls))
  | 0x1 => some (({ Shape.memT c .freg .sreg with needR := false }).withClass, some (.rwrb c.storeT cls))
  | 0x2 => some (((({ Shape.memT c .sreg .sreg with needR := false }).withClass).withSO).withXo atomXo,
      some (.ramo c.loadT c.atom cls c.ctl))
  | 0x3 => some ((({ Shape.memT c .sreg .sreg with needR := false }).withClass).withSO,
      some (.rcas c.loadT cls c.ctl))
  | 0x4 => some (({ Shape.memT c .freg .sreg with needR := false }).withClass, some (.renq c.storeT cls))
  | 0x5 => some (((Shape.memT c .sreg .sreg).withSO).withXo atomXo, some (.amo c.loadT c.atom c.ctl))
  | 0x6 => some ((Shape.memT c .sreg .sreg).withSO, some (.cas c.loadT c.ctl))
  | 0x7 => some ((Shape.memT c .freg .sreg).withSO, some (.redf c.storeT c.ctl))
  | 0x8 => some ((Shape.rr c .sreg .sreg .sreg).withR, some (.rseq c.bin))
  | 0x9 => some ((Shape.rr c .sreg .data .zero).withI, buildEwr c)
  | 0xA => some ((Shape.rr c .sreg .data .zero).withI, buildErd c)
  | 0xB => some ((Shape.rr c .sreg .sreg .sreg).withR, some (.rtsend ⟨c.d, c.s, c.t, c.ua, c.ub, c.uc⟩))
  | 0xC => some (.mem c .sreg, some (.xsend c.store))
  | 0xD => some (.memT c .sreg .sreg, some (.xsel c.storeT))
  | 0xE => some ((Shape.rr c .zero .data .zero).withI, buildXphase c)
  | 0xF => some (.rr c .sreg .sreg .zero, some (.smark ⟨c.d, c.s, c.ua, c.ub⟩))
  | _ => none

/-- Page 0, major 0xE (R54, R118 to R120). -/
def rowE (c : Chain) : Row :=
  let code : BitVec 8 := BitVec.ofNat 8 c.base
  let bare (i : Instr) : Row := some (.sys c .zero .zero false false, some i)
  match c.fn with
  | 0x0 => some (.sys c .zero .data false false,
      if c.lowS = 0 then some .nop else if c.lowS = 1 then some .pause else none)
  | 0x1 => some (.sys c .data .data false false, some (.trap code))
  | 0x2 => bare .eret
  | 0x3 => some ((Shape.sys c .sreg .data true false).withI, buildSysr c)
  | 0x4 => some ((Shape.sys c .sreg .data true true).withI, buildSysw c)
  | 0x5 => some ({ Shape.sys c .sreg .data true true with scope := true },
      if c.lowS ≤ 2 then
        some (.tlbinv c.sysSrc (BitVec.ofNat 2 c.lowS) (BitVec.ofNat 3 c.scope)) else none)
  | 0x6 => some ({ Shape.sys c .sreg .data true true with scope := true },
      if c.lowS ≤ 3 then
        some (.cacheop c.sysSrc (BitVec.ofNat 2 c.lowS) (BitVec.ofNat 3 c.scope)) else none)
  | 0x7 => bare .wfi
  | 0x8 => bare .halt
  | 0x9 => some (.sys c .data .data false false, some (.bkpt code))
  | 0xA => some (.sys c .sreg .zero true true, some (.spawn c.sysSrc))
  | 0xB => some (.sys c .sreg .zero true true, some (.launch c.sysSrc))
  | 0xC => some (.sys c .sreg .zero true true, some (.tsset c.sysSrc))
  | 0xD => some (.sys c .sreg .zero true false, some (.tsget c.d))
  | 0xE => some ((Shape.sys c .sreg .data true true).withI,
      if 0 < (c.imm 4).toInt then some (.loop c.d (c.imm 4)) else none)
  | _ => none

/-- Page 1 (R48, R83, R91, R143, R249, R294, R363, R365, R390). -/
def rowPage1 (c : Chain) : Row :=
  let b (i : Bin → Instr) : Row := some (.rr c .sreg .sreg .sreg, some (i c.bin))
  let u (i : Un → Instr) : Row := some (.one c .sreg .sreg, some (i c.un))
  let h2 (i : Src2 → Instr) : Row := some (.one c .sreg .sreg, some (i ⟨c.d, c.one, c.ua, c.ub⟩))
  match c.major, c.fn with
  | 0x0, 0x0 => b .div | 0x0, 0x1 => b .divu | 0x0, 0x2 => b .rem | 0x0, 0x3 => b .remu
  | 0x0, 0x4 => b .minu | 0x0, 0x5 => b .maxu
  | 0x0, 0x6 => u .clz | 0x0, 0x7 => u .ctz | 0x0, 0x8 => u .popc | 0x0, 0x9 => u .brev
  | 0x0, 0xA => b .bext | 0x0, 0xB => b .bdep
  | 0x0, 0xC => some ((Shape.rr c .sreg .sreg .sreg).withR, some (.mapx c.bin))
  | 0x0, 0xD => some ((Shape.rr c .sreg .sreg .sreg).withR, some (.unmapx c.bin))
  | 0x0, 0xE => some ((Shape.one c .sreg .sreg).withXo true, some (.sext c.un (BitVec.ofNat 6 c.xo)))
  | 0x0, 0xF => some ((Shape.one c .sreg .sreg).withXo true, some (.zext c.un (BitVec.ofNat 6 c.xo)))
  | 0x6, 0x0 => some (.mem c .zero, some (.jr c.line))
  | 0x6, 0x1 => some (.mem c .zero, some (.jalr c.line))
  | 0xB, 0x0 => h2 .fldef | 0xB, 0x1 => h2 .flperm | 0xB, 0x2 => h2 .flswap
  | 0xB, 0x3 => some ((Shape.rr c .sreg .sreg .sreg).withR, some (.flxch ⟨c.d, c.s, c.t, c.ua, c.ub, c.uc⟩))
  | 0xB, 0x4 => u .flstat
  | 0xB, 0x5 => some (.rr c .sreg .zero .zero, some (.flfree c.sysSrc))
  | 0xB, 0x6 => some ((Shape.rr c .sreg .sreg .sreg).withR, some (.flmap c.bin))
  | 0xB, 0x7 => some (.rr c .sreg .sreg .zero, some (.dvreg ⟨c.d, c.s, c.ua, c.ub⟩))
  | 0xB, 0x8 => some (.rr c .sreg .zero .zero, some (.dvdrop c.sysSrc))
  | 0xB, 0x9 => some (.rr c .sreg .sreg .zero, some (.dvstat ⟨c.d, c.s, c.ua⟩))
  | 0xB, 0xA => some (.rr c .sreg .sreg .zero, some (.dvref ⟨c.d, c.s, c.ua⟩))
  | 0xC, 0x0 => some ({ (Shape.rr c .zero .sreg .sreg).withR with xs0 := true },
      some (.bmask ⟨c.s, c.t, c.ua, c.ub⟩))
  | 0xC, 0x1 => some ((Shape.rr c .sreg .sreg .sreg).withR, some (.ticket c.bin))
  | 0xC, 0x2 => u .forq
  | 0xC, 0x3 => some (.one c .zero .sreg, some (.rngj c.src))
  | 0xD, 0x0 => some ((Shape.memT c .freg .sreg).withClass, some (.rred c.storeT (BitVec.ofNat 2 c.v)))
  | 0xD, 0x1 => some (.one c .zero .sreg, some (.rpbar c.src))
  | 0xD, 0x2 => some (.one c .zero .sreg, some (.rpwait c.src))
  | _, _ => none

/-- The opcode map (R47, R48); `none` where an entry is reserved (R49). -/
def rowOf (c : Chain) : Row :=
  if c.page = 1 then rowPage1 c
  else match c.major with
    | 0x0 => row0 c
    | 0x1 => row1 c
    | 0x2 => row2 c
    | 0x3 => row3 c
    | 0x4 | 0x5 | 0x6 => row456 c
    | 0x7 => row7 c
    | 0x8 => row8 c
    | 0x9 => row9 c
    | 0xA => rowA c
    | 0xB => rowB c
    | 0xC => rowC c
    | 0xD => rowD c
    | _ => rowE c

/-- Does a register number or a base field break its file (R46)? The field of BZ stands elsewhere. -/
def Shape.badBase (x : Shape) (c : Chain) : Bool :=
  let dn := if x.d = .zero ∨ x.d = .data then c.lowD else c.d.toNat
  let sn := if x.s = .zero ∨ x.s = .data then c.lowS else c.s.toNat
  let dBad := x.d != .data && decide (x.d.limit ≤ dn)
  let sBad := !(x.single && c.r) && c.major != 4 && x.s != .data && decide (x.s.limit ≤ sn)
  let tBad := c.r && x.t != .zero && decide (x.t.limit ≤ c.tn)
  dBad || sBad || tBad

/-- P.R fields that the instruction does not use must be zero (R50). -/
def Shape.badR (x : Shape) (c : Chain) : Bool :=
  let dOff := x.d == .zero || x.d == .data
  let sOff := x.s == .zero || x.s == .data
  (dOff && c.xd != 0) || (!x.single && (sOff || x.xs0) && c.xs != 0) || (x.t == .zero && c.tn != 0)

/-- Step 4 of R55 on the P.M fields. -/
def Shape.badM (x : Shape) (c : Chain) : Bool :=
  decide (c.scope ≥ 6) || !(x.vs.contains c.v) || (!x.scope && c.scope != 0)
    || (!x.order && c.order != 0) || (x.needOrder && c.order == 0)

/-- The lowest index among the given unaccepted prefixes (step 2 of R55). -/
def Shape.unaccepted (x : Shape) (c : Chain) : Option DecErr :=
  let cand : List DecErr :=
    (if !x.pi && c.ki != 0 then [⟨2, 0xF000 + c.hi / 2 ^ (10 * (c.ki - 1)) % 1024, c.iAt⟩] else [])
    ++ (if !x.pr && c.pr.isSome then [⟨2, 0xF400 + c.prv, c.rAt⟩] else [])
    ++ (if !x.pm && c.pm.isSome then [⟨2, 0xF800 + c.pmv, c.mAt⟩] else [])
  cand.foldl (fun best e => match best with
    | some b => if e.idx < b.idx then some e else some b
    | none => some e) none

/-- Steps 1 to 5 of R55 on a complete chain. -/
def decodeChain (c : Chain) : Except DecErr Instr :=
  let baseErr : DecErr := ⟨1, c.base, c.n⟩
  let atM : DecErr := if c.pm.isSome then ⟨1, 0xF800 + c.pmv, c.mAt⟩ else baseErr
  let atO : DecErr := if c.po.isSome then ⟨1, 0xFC00 + c.pov, c.oAt⟩ else baseErr
  if c.page ≥ 2 then .error ⟨1, 0xFC00 + c.pov, c.oAt⟩
  else if c.base = 0 ∧ c.prv = 0 then .error baseErr
  else if c.page = 0 ∧ c.major = 0xE ∧ c.fn = 0xF then .ok (.illegal (BitVec.ofNat 8 c.base))
  else match rowOf c with
    | none => .error baseErr
    | some (x, ins) =>
      match x.unaccepted c with
      | some e => .error e
      | none =>
        if (x.needR && !c.r) || (x.needI && c.ki == 0) then .error baseErr
        else if x.badM c then .error atM
        else if !x.xoOk then .error atO
        else if x.badR c then .error ⟨1, 0xF400 + c.prv, c.rAt⟩
        else if x.badBase c then .error baseErr
        else match ins with
          | none => .error baseErr
          | some i => if x.cls && c.v == 3 then .error { atM with cause := 0x13 } else .ok i

/-- Decodes the instruction at the head of a list of parcels. -/
def decodeParcels (ps : List Nat) : Option (Except DecErr Instr) :=
  match Chain.empty.parse ps with
  | some (.done c) => some (decodeChain c)
  | some (.bad e) => some (.error e)
  | _ => none

/-- The parcels of a table word: a 32-bit row of spec/opcode_table.json writes its first parcel, a
prefix, in the upper half. Bits above the word are zero parcels. -/
def tableParcels (nbits w : Nat) : List Nat :=
  let lo := w % 65536
  let hi := w / 65536 % 65536
  if nbits ≤ 16 then [lo, 0, 0, 0, 0]
  else if isPrefix lo then [lo, hi, 0, 0, 0]
  else if isPrefix hi then [hi, lo, 0, 0, 0]
  else [lo, hi, 0, 0, 0]

/-- The instruction the decoder reads from a word numbered as the opcode table numbers it. -/
def decodeTableWord (nbits w : Nat) : Option Instr :=
  match decodeParcels (tableParcels nbits w) with
  | some (.ok i) => some i
  | _ => none

/-- The pieces of an encoding: the base parcel without its immediate bits, the registers of d, s and t,
xo, the P.M payload and the immediate over `w` base bits with at least `minK` P.I parcels. -/
structure Parts where
  page : Nat := 0
  base : Nat
  d : Nat := 0
  s : Nat := 0
  t : Option Nat := none
  xo : Nat := 0
  pm : Nat := 0
  imm : Word := 0
  w : Nat := 0
  minK : Nat := 0
  deriving DecidableEq, Repr

/-- The P.M payload of last-use marks (R41). -/
def marks (a b c : Bool) : Nat := b2n a * 512 + b2n b * 256 + b2n c * 128

/-- Major and fn of a base parcel. -/
def mf (major fn : Nat) : Nat := major * 4096 + fn * 256

/-- Parts of a three-field RR form. -/
def Parts.of (base : Nat) (d s : Nat) (t : Option Nat := none) (pm : Nat := 0) (xo : Nat := 0) : Parts :=
  { base := base, d := d, s := s, t := t, pm := pm, xo := xo }

/-- RR with two or three operands (R80): the two-operand form where it can name the operands. -/
def Parts.bin (base : Nat) (o : Bin) (v : Nat := 0) : Parts :=
  if o.d = o.a ∧ o.ua = false ∧ o.d.toNat < 16 ∧ o.b.toNat < 16 then
    Parts.of base o.d.toNat o.b.toNat none (marks o.ub false false + v * 32)
  else Parts.of base o.d.toNat o.a.toNat (some o.b.toNat) (marks o.ua o.ub false + v * 32)

/-- RR that requires P.R. -/
def Parts.bin3 (base : Nat) (o : Bin) (v xo : Nat := 0) : Parts :=
  Parts.of base o.d.toNat o.a.toNat (some o.b.toNat) (marks o.ua o.ub false + v * 32) xo

/-- Destination and single source (R45); the base s field repeats d when the source is in t (R28). -/
def Parts.one (base : Nat) (d a : Nat) (pm xo : Nat := 0) : Parts :=
  if d < 16 ∧ a < 16 then Parts.of base d a none pm xo else Parts.of base d d (some a) pm xo

def Parts.un (base : Nat) (o : Un) (v xo : Nat := 0) : Parts :=
  Parts.one base o.d.toNat o.a.toNat (marks o.ua false false + v * 32) xo

/-- RI (R82). -/
def Parts.ri (base : Nat) (o : Imm) : Parts :=
  if o.d = o.a ∧ o.ua = false ∧ o.d.toNat < 16 then
    { base := base, d := o.d.toNat, imm := o.imm, w := 4 }
  else { base := base, d := o.d.toNat, t := some o.a.toNat, pm := marks o.ua false false,
         imm := o.imm, w := 4 }

/-- MEM load or store (R53): a store's A marks the data register. -/
def Parts.mem (base : Nat) (o : Mem) (store : Bool) (v xo : Nat := 0) : Parts :=
  { base := base, d := o.d.toNat, s := o.base.toNat, imm := o.off, xo := xo,
    pm := (if store then marks o.ud o.ub false else marks o.ub false false) + v * 32 }

def Parts.line (base : Nat) (o : Line) (d : Nat := 0) : Parts :=
  { base := base, d := d, s := o.base.toNat, imm := o.off, pm := marks o.ub false false }

def Parts.memT (base : Nat) (o : MemT) (store : Bool) (v xo ctl : Nat := 0) : Parts :=
  { base := base, d := o.d.toNat, s := o.base.toNat, t := some o.t.toNat, imm := o.off, xo := xo,
    pm := (if store then marks o.ud o.ub o.ut else marks o.ub o.ut false) + v * 32 + ctl }

/-- A remote form: without a P.R, t is s0 (R344). -/
def Parts.remT (base : Nat) (o : MemT) (store : Bool) (v xo ctl : Nat := 0) : Parts :=
  { Parts.memT base o store v xo ctl with t := if o.t = 0 then none else some o.t.toNat }

def Parts.vbin (base : Nat) (o : VBin) : Parts :=
  if o.d = o.a ∧ o.d.toNat < 16 ∧ o.b.toNat < 16 then
    Parts.of base o.d.toNat o.b.toNat none 0 o.m.toNat
  else Parts.of base o.d.toNat o.a.toNat (some o.b.toNat) 0 o.m.toNat

def Parts.vbin3 (base : Nat) (o : VBin) (sub pm : Nat := 0) : Parts :=
  Parts.of base o.d.toNat o.a.toNat (some o.b.toNat) pm (sub * 8 + o.m.toNat)

def Parts.vun (base : Nat) (o : VUn) (sub pm : Nat := 0) : Parts :=
  Parts.one base o.d.toNat o.a.toNat pm (sub * 8 + o.m.toNat)

def Parts.vmem (base : Nat) (o : VMem) (store : Bool) : Parts :=
  { base := base, d := o.d.toNat, s := o.base.toNat, imm := o.off, xo := o.m.toNat,
    pm := if store then marks false o.ub false else marks o.ub false false }

def Parts.vmemT (base : Nat) (o : VMemT) (store : Bool) : Parts :=
  { base := base, d := o.d.toNat, s := o.base.toNat, t := some o.t.toNat, imm := o.off,
    xo := o.m.toNat,
    pm := if store then marks false o.ub o.ut else marks o.ub o.ut false }

def Parts.src3 (base : Nat) (o : Src3) (xo : Nat := 0) : Parts :=
  Parts.of base o.a.toNat o.b.toNat (some o.c.toNat) (marks o.ua o.ub o.uc) xo

def Parts.src2 (base : Nat) (o : Src2) : Parts :=
  Parts.of base o.a.toNat o.b.toNat none (marks o.ua o.ub false)

/-- A handle in d and a second register under R45 (R143). -/
def Parts.h2 (base : Nat) (o : Src2) : Parts :=
  Parts.one base o.a.toNat o.b.toNat (marks o.ua o.ub false)

/-- A SYS or engine form: one register in [7:4] and a number above [3:0]. -/
def Parts.num (base : Nat) (r : Nat) (n : Word) (u : Bool := false) : Parts :=
  { base := base, d := r, imm := n, w := 4, pm := marks u false false }

def Parts.reg (base : Nat) (o : Src1) : Parts := Parts.of base o.a.toNat 0 none (marks o.ua false false)

/-- The same parts on page 1 (R42). -/
def Parts.p1 (p : Parts) : Parts := { p with page := 1 }

/-- The value of a designator (R52). -/
def Desig.value : Desig → Word
  | .none => 0
  | .wired ch => BitVec.ofNat 64 (1024 + ch.toNat)
  | .word i => BitVec.ofNat 64 (2048 + i.toNat)

def Ctl.value (c : Ctl) : Nat := c.scope.toNat * 4 + c.order.toNat

def AtomOp.value (o : AtomOp) : Nat := o.op.toNat + b2n o.w32 * 16

/-- The parts of an instruction; an event has no encoding. -/
def partsOf : Instr → Option Parts
  | .add o => some (.bin (mf 0 0) o) | .sub o => some (.bin (mf 0 1) o)
  | .and o => some (.bin (mf 0 2) o) | .or o => some (.bin (mf 0 3) o)
  | .xor o => some (.bin (mf 0 4) o) | .sll o => some (.bin (mf 0 5) o)
  | .srl o => some (.bin (mf 0 6) o) | .sra o => some (.bin (mf 0 7) o)
  | .slt o => some (.bin (mf 0 8) o) | .sltu o => some (.bin (mf 0 9) o)
  | .mul o => some (.bin (mf 0 10) o) | .mulh o => some (.bin (mf 0 11) o)
  | .min o => some (.bin (mf 0 12) o) | .max o => some (.bin (mf 0 13) o)
  | .mov o => some (.un (mf 0 14) o) | .mulhu o => some (.bin (mf 0 15) o)
  | .addi o => some (.ri (mf 1 0) o) | .andi o => some (.ri (mf 1 1) o)
  | .ori o => some (.ri (mf 1 2) o) | .xori o => some (.ri (mf 1 3) o)
  | .slli o => some (.ri (mf 1 4) o) | .srli o => some (.ri (mf 1 5) o)
  | .srai o => some (.ri (mf 1 6) o) | .slti o => some (.ri (mf 1 7) o)
  | .sltiu o => some (.ri (mf 1 8) o) | .muli o => some (.ri (mf 1 11) o)
  | .mini o => some (.ri (mf 1 12) o) | .maxi o => some (.ri (mf 1 13) o)
  | .cmpeqi o => some (.ri (mf 1 14) o)
  | .li d n => some (.num (mf 1 9) d.toNat n) | .addpc d n => some (.num (mf 1 10) d.toNat n)
  | .div o => some (Parts.bin (mf 0 0) o).p1 | .divu o => some (Parts.bin (mf 0 1) o).p1
  | .rem o => some (Parts.bin (mf 0 2) o).p1 | .remu o => some (Parts.bin (mf 0 3) o).p1
  | .minu o => some (Parts.bin (mf 0 4) o).p1 | .maxu o => some (Parts.bin (mf 0 5) o).p1
  | .clz o => some (Parts.un (mf 0 6) o).p1 | .ctz o => some (Parts.un (mf 0 7) o).p1
  | .popc o => some (Parts.un (mf 0 8) o).p1 | .brev o => some (Parts.un (mf 0 9) o).p1
  | .bext o => some (Parts.bin (mf 0 10) o).p1 | .bdep o => some (Parts.bin (mf 0 11) o).p1
  | .mapx o => some (Parts.bin3 (mf 0 12) o).p1 | .unmapx o => some (Parts.bin3 (mf 0 13) o).p1
  | .sext o w => some (Parts.un (mf 0 14) o 0 w.toNat).p1
  | .zext o w => some (Parts.un (mf 0 15) o 0 w.toNat).p1
  | .beqz o off => some (bz 0 o off) | .bnez o off => some (bz 1 o off)
  | .bltz o off => some (bz 2 o off) | .bgez o off => some (bz 3 o off)
  | .beq o off => some (bc 0 o off) | .bne o off => some (bc 1 o off)
  | .blt o off => some (bc 2 o off) | .bge o off => some (bc 3 o off)
  | .bltu o off => some (bc 4 o off) | .bgeu o off => some (bc 5 o off)
  | .j off => some { base := 0x6000, imm := off, w := 11 }
  | .jal off => some { base := 0x6800, imm := off, w := 11 }
  | .jr o => some (Parts.line (mf 6 0) o).p1 | .jalr o => some (Parts.line (mf 6 1) o).p1
  | .loop a n => some (.num (mf 14 14) a.toNat n)
  | .lb o => some (.mem (mf 2 0) o false) | .lbu o => some (.mem (mf 2 1) o false)
  | .lh o => some (.mem (mf 2 2) o false) | .lhu o => some (.mem (mf 2 3) o false)
  | .lw o => some (.mem (mf 2 4) o false) | .lwu o => some (.mem (mf 2 5) o false)
  | .ld o => some (.mem (mf 2 6) o false) | .ldf o => some (.mem (mf 2 7) o false)
  | .lwf o => some (.mem (mf 2 8) o false) | .ldfe o k => some (.mem (mf 2 9) o false (b2n k))
  | .ldx o => some (.memT (mf 2 10) o false)
  | .pref h o => some (.line (mf 2 11) o h.toNat)
  | .sb o => some (.mem (mf 3 0) o true) | .sh o => some (.mem (mf 3 1) o true)
  | .sw o => some (.mem (mf 3 2) o true) | .sd o => some (.mem (mf 3 3) o true)
  | .sdf o => some (.mem (mf 3 4) o true) | .swf o => some (.mem (mf 3 5) o true)
  | .stfe o => some (.mem (mf 3 6) o true) | .stx o => some (.memT (mf 3 7) o true)
  | .feset o => some (.line (mf 3 8) o) | .feclr o => some (.line (mf 3 9) o)
  | .pin o => some (.mem (mf 3 10) o false) | .unpin o => some (.mem (mf 3 11) o false)
  | .clean o => some (.line (mf 3 12) o) | .inval o => some (.line (mf 3 13) o)
  | .flush o => some (.line (mf 3 14) o)
  | .nop => some { base := 0xE000 } | .pause => some { base := 0xE001 }
  | .trap c => some { base := 0xE100 + c.toNat } | .eret => some { base := 0xE200 }
  | .sysr d n => some (.num (mf 14 3) d.toNat n)
  | .fctlRead d => some (.num (mf 14 3) d.toNat 0x010)
  | .sysw o n => some (.num (mf 14 4) o.a.toNat n o.ua)
  | .repdatWrite o => some (.num (mf 14 4) o.a.toNat 0x204 o.ua)
  | .prfdatWrite o => some (.num (mf 14 4) o.a.toNat 0x202 o.ua)
  | .vctlWrite o => some (.num (mf 14 4) o.a.toNat 0x011 o.ua)
  | .flagorWrite o => some (.num (mf 14 4) o.a.toNat 0x104 o.ua)
  | .xstatWrite o => some (.num (mf 14 4) o.a.toNat 0x018 o.ua)
  | .lotseedWrite o => some (.num (mf 14 4) o.a.toNat 0x105 o.ua)
  | .ecauseWrite o => some (.num (mf 14 4) o.a.toNat 0x101 o.ua)
  | .pinqWrite o => some (.num (mf 14 4) o.a.toNat 0x021 o.ua)
  | .trctlWrite o => some (.num (mf 14 4) o.a.toNat 0x108 o.ua)
  | .devidWrite o => some (.num (mf 14 4) o.a.toNat 0x004 o.ua)
  | .slewWrite o => some (.num (mf 14 4) o.a.toNat 0x206 o.ua)
  | .devstatWrite o => some (.num (mf 14 4) o.a.toNat 0x208 o.ua)
  | .tlbinv o k sc => some { base := mf 14 5, d := o.a.toNat, s := k.toNat,
                             pm := marks o.ua false false + sc.toNat * 4 }
  | .cacheop o k sc => some { base := mf 14 6, d := o.a.toNat, s := k.toNat,
                              pm := marks o.ua false false + sc.toNat * 4 }
  | .wfi => some { base := 0xE700 } | .halt => some { base := 0xE800 }
  | .bkpt c => some { base := 0xE900 + c.toNat }
  | .illegal x => some { base := 0xEF00 + x.toNat }
  | .fldef o => some (Parts.h2 (mf 11 0) o).p1 | .flperm o => some (Parts.h2 (mf 11 1) o).p1
  | .flswap o => some (Parts.h2 (mf 11 2) o).p1 | .flxch o => some (Parts.src3 (mf 11 3) o).p1
  | .flstat o => some (Parts.un (mf 11 4) o).p1 | .flfree o => some (Parts.reg (mf 11 5) o).p1
  | .flmap o => some (Parts.bin3 (mf 11 6) o).p1
  | .tldb o => some (.mem (mf 11 0) o false)
  | .mma t o b n g => some (mma (mf 11 1) t o b n g)
  | .mmaz t o b n g => some (mma (mf 11 2) t o b n g)
  | .tst o => some { Parts.mem (mf 11 3) o false with pm := marks false o.ub false }
  | .twm d t => some (.of (mf 11 4) d.toNat t.toNat)
  | .tclr t => some (.of (mf 11 5) t.toNat 0)
  | .axld o k z => some (.mem (mf 11 6) o false 0 (k.toNat + b2n z * 8))
  | .axapply h a l uh ul g => some
      { Parts.of (mf 11 7) h.toNat a.toNat (some l.toNat) (marks uh false ul) with imm := g.value }
  | .axphase o g => some { Parts.src3 (mf 11 8) o with imm := g.value }
  | .axsum o q => some (.src3 (mf 11 9) o (b2n q)) | .axscale o => some (.src3 (mf 11 10) o)
  | .axcopy o => some (.src2 (mf 11 11) o) | .mwait => some { base := 0xBC00 }
  | .talloc o => some (.of (mf 11 13) o.d.toNat o.a.toNat none (marks o.ua false false))
  | .fadd o v => some (.bin (mf 7 0) o v.toNat) | .fsub o v => some (.bin (mf 7 1) o v.toNat)
  | .fmul o v => some (.bin (mf 7 2) o v.toNat) | .fdiv o v => some (.bin (mf 7 3) o v.toNat)
  | .fmin o v => some (.bin (mf 7 4) o v.toNat) | .fmax o v => some (.bin (mf 7 5) o v.toNat)
  | .fsqrt o v => some (.un (mf 7 6) o v.toNat) | .fabs o v => some (.un (mf 7 7) o v.toNat)
  | .fneg o v => some (.un (mf 7 8) o v.toNat)
  | .fma o v => some (.bin3 (mf 7 9) o v.toNat) | .fms o v => some (.bin3 (mf 7 10) o v.toNat)
  | .fnma o v => some (.bin3 (mf 7 11) o v.toNat)
  | .fmvfs o => some (.un (mf 7 12) o) | .fmvsf o => some (.un (mf 7 13) o)
  | .fcmp o v c => some (.bin3 (mf 7 14) o v.toNat c.toNat)
  | .fclass o v => some (.un (mf 7 15) o v.toNat)
  | .cmac o => some (.bin3 (mf 8 0) o) | .conj o => some (.un (mf 8 1) o)
  | .cswap o => some (.un (mf 8 2) o)
  | .fcvt o a b => some (.un (mf 8 3) o 0 (a.toNat * 8 + b.toNat))
  | .frnd o v => some (.un (mf 8 4) o v.toNat) | .fcvti o => some (.un (mf 8 5) o)
  | .fcvtf o => some (.un (mf 8 6) o)
  | .padd o v => some (.bin (mf 8 7) o v.toNat) | .psub o v => some (.bin (mf 8 8) o v.toNat)
  | .pdot o => some (.bin3 (mf 8 9) o)
  | .pmin o v => some (.bin (mf 8 10) o v.toNat) | .pmax o v => some (.bin (mf 8 11) o v.toNat)
  | .pshuf o => some (.bin (mf 8 12) o) | .psat o v => some (.un (mf 8 13) o v.toNat)
  | .frng d v => some (.of (mf 8 14) d.toNat 0 none (v.toNat * 32))
  | .vadd o => some (.vbin (mf 9 0) o) | .vsub o => some (.vbin (mf 9 1) o)
  | .vmul o => some (.vbin (mf 9 2) o) | .vfma o => some (.vbin3 (mf 9 3) o)
  | .vmax o => some (.vbin (mf 9 4) o) | .vmin o => some (.vbin (mf 9 5) o)
  | .vdiv o => some (.vbin (mf 9 6) o) | .vsf o f => some (.vun (mf 9 7) o f.toNat)
  | .vcmp o c => some (.vbin3 (mf 9 8) o c.toNat) | .vsel o => some (.vbin3 (mf 9 9) o)
  | .vbcst o u => some (.vun (mf 9 10) o 0 (marks u false false))
  | .vred o f => some (.vun (mf 9 11) o f.toNat) | .vcvt o f => some (.vun (mf 9 12) o f.toNat)
  | .vperm o => some (.vbin (mf 9 13) o)
  | .vrand d m => some (.of (mf 9 14) d.toNat 0 none 0 m.toNat)
  | .vabs o => some (.vun (mf 9 15) o)
  | .vld o => some (.vmem (mf 10 0) o false) | .vlds o => some (.vmemT (mf 10 1) o false)
  | .vldx o => some (.vmemT (mf 10 2) o false) | .vst o => some (.vmem (mf 10 3) o true)
  | .vsts o => some (.vmemT (mf 10 4) o true) | .vstx o => some (.vmemT (mf 10 5) o true)
  | .vcfg o => some (.un (mf 10 6) o) | .scfg o => some (.un (mf 10 7) o)
  | .sstat d v => some (.one (mf 10 8) d.toNat v.toNat)
  | .repv n o st m => some { Parts.one (mf 10 9) n.toNat o.a.toNat (marks o.ua false false) m.toNat with
                             imm := st }
  | .vmsk o u => some (.vun (mf 10 10) o 0 (marks u false false))
  | .vext o u => some (.vbin3 (mf 10 11) o 0 (marks false u false))
  | .vins o u v => some (.vbin3 (mf 10 12) o 0 (marks u v false))
  | .vscan o f => some (.vun (mf 10 13) o f.toNat)
  | .barr ch => some { base := mf 12 0, imm := (Desig.wired ch).value, w := 4 }
  | .barw ch => some { base := mf 12 1, imm := (Desig.wired ch).value, w := 4 }
  | .barq d ch => some { base := mf 12 2, t := some d.toNat, imm := (Desig.wired ch).value, w := 4 }
  | .bmask o => some (Parts.of (mf 12 0) 0 o.a.toNat (some o.b.toNat) (marks o.ua o.ub false)).p1
  | .tbinit o => some (.mem (mf 12 3) o true) | .tbexp o => some (.mem (mf 12 4) o true)
  | .tbarr o => some (.line (mf 12 5) o) | .tbwait o => some (.mem (mf 12 6) o false)
  | .waitm => some { base := 0xC700 }
  | .mrecv d t => some (.of (mf 12 8) d.toNat 0 (t.map BitVec.toNat))
  | .msend o => some (.src3 (mf 12 9) o)
  | .fence c => some { base := 0xCA00, pm := c.value }
  | .fencer m => some { base := 0xCB00, xo := m.toNat }
  | .commit => some { base := 0xCC00 }
  | .suspend o => some (.reg (mf 12 13) o) | .yield => some { base := 0xCE00 }
  | .wid o => some (.un (mf 12 15) o)
  | .ewr o n => some (.num (mf 13 9) o.a.toNat n o.ua)
  | .reListWrite o => some (.num (mf 13 9) o.a.toNat 256 o.ua)
  | .reHdrWrite o => some (.num (mf 13 9) o.a.toNat 257 o.ua)
  | .reBufRegister o => some (.num (mf 13 9) o.a.toNat 258 o.ua)
  | .reFlush o => some (.num (mf 13 9) o.a.toNat 259 o.ua)
  | .erd d n => some (.num (mf 13 10) d.toNat n)
  | .copyLaunch d => some (.num (mf 13 10) d.toNat 7)
  | .launch o => some (.reg (mf 14 11) o) | .spawn o => some (.reg (mf 14 10) o)
  | .tsset o => some (.reg (mf 14 12) o) | .tsget d => some (.of (mf 14 13) d.toNat 0)
  | .ticket o => some (Parts.bin3 (mf 12 1) o).p1 | .forq o => some (Parts.un (mf 12 2) o).p1
  | .rngj o => some (Parts.one (mf 12 3) 0 o.a.toNat (marks o.ua false false)).p1
  | .xphaseEnter ch => some { base := mf 13 14, imm := (Desig.wired ch).value, w := 4 }
  | .xphaseLeave => some { base := mf 13 14 }
  | .xsend o => some (.mem (mf 13 12) o true) | .xsel o => some (.memT (mf 13 13) o true)
  | .amo o f c => some (.memT (mf 13 5) o false 0 f.value c.value)
  | .cas o c => some (.memT (mf 13 6) o false 0 0 c.value)
  | .redf o c => some (.memT (mf 13 7) o true 0 0 c.value)
  | .rseq o => some (.bin3 (mf 13 8) o)
  | .rwr o k => some (.remT (mf 13 0) o true k.toNat)
  | .rwrb o k => some (.remT (mf 13 1) o true k.toNat)
  | .ramo o f k c => some (.remT (mf 13 2) o false k.toNat f.value c.value)
  | .rcas o k c => some (.remT (mf 13 3) o false k.toNat 0 c.value)
  | .renq o k => some (.remT (mf 13 4) o true k.toNat)
  | .rtsend o => some (.src3 (mf 13 11) o) | .smark o => some (.src2 (mf 13 15) o)
  | .rred o k => some (Parts.memT (mf 13 0) o true k.toNat).p1
  | .rpbar o => some (Parts.one (mf 13 1) 0 o.a.toNat (marks o.ua false false)).p1
  | .rpwait o => some (Parts.one (mf 13 2) 0 o.a.toNat (marks o.ua false false)).p1
  | .dvreg o => some (Parts.src2 (mf 11 7) o).p1 | .dvdrop o => some (Parts.reg (mf 11 8) o).p1
  | .dvstat o => some (Parts.of (mf 11 9) o.d.toNat o.a.toNat none (marks o.ua false false)).p1
  | .dvref o => some (Parts.of (mf 11 10) o.d.toNat o.a.toNat none (marks o.ua false false)).p1
  | .powerUp | .marchTimeout | .readyClockRaise | .coreRestart | .carveInterval | .carveMoveDone
  | .registerFill | .queueStallTimeout | .vuPopStallTimeout | .vuInstructionStart
  | .vuInstructionComplete | .mauCommandStart | .tileRowFinal | .mauCommandComplete
  | .flxchCopyPhase | .flxchPartnerTimeout | .ldfeSuspendTimeout | .barrierArrivalCounted
  | .barrierRelease | .barrierWaitSpill | .mailboxDelivery | .mailboxPortDrain | .wfiTimeout
  | .pauseExpiry | .copyCommandStart | .copyCommandComplete | .unitCreate | .lotteryDraw
  | .gangStart | .domainMinimumUpdate | .preemptMessage | .resumeMessage | .launchComplete
  | .endlWrite | .digestRequestWrite | .digestComplete | .xsendTransmit | .xselCapture
  | .phaseForcedEnd | .segmentCommitComplete | .redfEntryArrival | .redfEntryRetry
  | .reduceStallTimeout | .remoteOpArrival | .remoteAckArrival | .remoteResponseArrival
  | .requestRecordArrival | .packetNakResend | .packetForward | .multicastForward
  | .linkFlitReceive | .linkModeSet | .routingTableInstall | .routingTableSwitch
  | .routingGenerationRetire | .routerPowerDown | .routerWake | .streamEntryWrite
  | .markerArrival | .reductionPacketArrival | .reduceLimitExpiry | .endpointReductionArrival
  | .endpointIncompleteTimeout | .closedRecordExpiry | .podDeviceArrival | .podRootComplete
  | .podRelease | .routeRecordSend | .tokenArrival | .flushSummary | .staleNoticeArrival
  | .staleNoticeAck | .recomputeComplete | .l1MissReturn | .memoryScrub | .governorWindow
  | .mauRampArm | .hostWrite | .hostRead | .hostLaunch | .hostSpawn | .hostMsg | .hostFence
  | .hostAttestation | .captureStream | .partitionCreate | .partitionSuspend | .partitionRestore
  | .partitionEnd | .clusterHandover | .registerWrite | .scratchpadAccessArrival
  | .tlbAcknowledgement | .cacheLineOperationPerformed | .eventQueueRegistration
  | .podBarrierConfiguration | .linkKeyReplacement => none
where
  /-- BZ: s in [9:6], the offset over six base bits. -/
  bz (cc : Nat) (o : Src1) (off : Word) : Parts :=
    { base := 0x4000 + cc * 1024 + o.a.toNat % 16 * 64, s := o.a.toNat / 16 * 16, imm := off, w := 6,
      pm := marks o.ua false false }
  /-- BC: a and b, the offset from at least one P.I. -/
  bc (cc : Nat) (o : Src2) (off : Word) : Parts :=
    { base := mf 5 cc, d := o.a.toNat, s := o.b.toNat, imm := off, minK := 1,
      pm := marks o.ua o.ub false }
  /-- MMA and MMAZ. -/
  mma (base : Nat) (t : Reg) (o : Src1) (b : Reg) (n : BitVec 6) (g : Desig) : Parts :=
    { base := base, d := t.toNat, s := o.a.toNat, t := some b.toNat, xo := n.toNat,
      pm := marks o.ua false false, imm := g.value }

namespace Parts

variable (p : Parts)

/-- Does the immediate fit `k` P.I parcels (R39)? -/
def fits (k : Nat) : Bool := sextW (p.imm.toNat % 2 ^ (10 * k + p.w)) (10 * k + p.w) == p.imm

/-- The fewest P.I parcels that hold the immediate (R28). -/
def piCount : Nat :=
  if p.minK ≤ 0 && p.fits 0 then 0
  else if p.fits 1 then 1
  else if p.fits 2 then 2
  else if p.fits 3 then 3
  else 4

def usesO : Bool := p.page != 0 || p.xo != 0
def usesR : Bool := p.t.isSome || decide (16 ≤ p.d) || decide (16 ≤ p.s)
def usesM : Bool := p.pm != 0

/-- The number of prefixes. -/
def prefixes : Nat := b2n p.usesO + b2n p.usesR + b2n p.usesM + p.piCount

/-- The P.I parcels, most significant first. -/
def piParcels (imm w : Nat) : Nat → List Nat
  | 0 => []
  | k + 1 => (0xF000 + imm / 2 ^ (10 * k + w) % 1024) :: piParcels imm w k

/-- The parcels in the order of R28. -/
def parcels : List Nat :=
  (if p.usesO then [0xFC00 + p.page * 64 + p.xo] else [])
  ++ (if p.usesR then [0xF400 + p.d / 16 * 256 + p.s / 16 * 64 + p.t.getD 0] else [])
  ++ (if p.usesM then [0xF800 + p.pm] else [])
  ++ piParcels p.imm.toNat p.w p.piCount
  ++ [p.base + p.d % 16 * 16 + p.s % 16 + p.imm.toNat % 2 ^ p.w]

end Parts

/-- The parcels of an instruction in the fewest prefixes (R28); an event has none. -/
def encode (i : Instr) : List Nat :=
  match partsOf i with
  | some p => p.parcels
  | none => []

end Sys2Proof
end

