-- ==== Sys2Proof/Machine/Numeric.lean ====
section
/-! DEFINITION. Number formats (R158, R168, R171): exact values, how codes decode to them, exact sums and
products (R160, R163, R164), and the random generator (R178, R179). -/

namespace Sys2Proof.Machine

/-- An exact value: a NaN or NaR (signalling or not), an infinity, or ± m × 2^e. A zero has a sign.
A quotient, root or special function is held with a last bit that tells an inexact remainder, far below
every rounding boundary. -/
inductive Val where
  | nan (sig : Bool)
  | inf (neg : Bool)
  | fin (neg : Bool) (m : Nat) (e : Int)
  deriving DecidableEq, Repr

/-- The component formats of R158; a complex format is two components. -/
inductive Fmt where
  | fp32 | bf16 | t8 | t6 | i4 | int32
  deriving DecidableEq, Repr

/-- An I4 table: TBL4A and TBL4B (R171). -/
structure Tbl4 where
  a : Word
  b : Word
  deriving DecidableEq, Repr

/-- The signed entry of a code. -/
def Tbl4.entry (t : Tbl4) (c : Nat) : Int :=
  let b := if c < 8 then bitsN t.a.toNat (8 * c + 7) (8 * c) else bitsN t.b.toNat (8 * (c - 8) + 7) (8 * (c - 8))
  if b < 128 then b else (b : Int) - 256

/-- Width of a format code in bits (R158). -/
def fmtBits : Nat → Nat
  | 0 => 32
  | 1 => 16
  | 2 => 64
  | 3 => 8
  | 4 => 6
  | 5 => 4
  | 6 => 32
  | _ => 32

/-- The component format of a format code. -/
def fmtComp : Nat → Fmt
  | 0 => .fp32
  | 1 => .bf16
  | 2 => .fp32
  | 3 => .t8
  | 4 => .t6
  | 5 => .i4
  | 6 => .int32
  | _ => .bf16

def fmtCplx (c : Nat) : Bool := c == 2 || c == 7

def Fmt.bits : Fmt → Nat
  | .fp32 => 32
  | .bf16 => 16
  | .t8 => 8
  | .t6 => 6
  | .i4 => 4
  | .int32 => 32

/-- The number of bits of a natural number. -/
def bitLen (m : Nat) : Nat := if m = 0 then 0 else m.log2 + 1

/-- IEEE layout with `f` fraction bits and 8 exponent bits, bias 127. -/
def decodeIeee (f : Nat) (c : Nat) : Val :=
  let neg := c.testBit (f + 8)
  let ex := bitsN c (f + 7) f
  let fr := c % 2 ^ f
  if ex = 255 then (if fr = 0 then .inf neg else .nan (!(fr.testBit (f - 1))))
  else if ex = 0 then .fin neg fr (-126 - (f : Int))
  else .fin neg (2 ^ f + fr) ((ex : Int) - 127 - (f : Int))

/-- The length of the run of bits equal to `b` from bit `i - 1` downward. -/
def runLen (body : Nat) (b : Bool) : Nat → Nat
  | 0 => 0
  | i + 1 => if body.testBit i = b then 1 + runLen body b i else 0

/-- A non-zero tapered body (R168): significand, with `nb` fraction bits, and its exponent. -/
def decodeTaper (nb es body : Nat) : Nat × Int :=
  let b := body.testBit (nb - 1)
  let m := runLen body b nb
  let k : Int := if b then (m : Int) - 1 else -(m : Int)
  let left := nb - m - 1
  let rest := body % 2 ^ left
  let eb := min es left
  let e := rest / 2 ^ (left - eb) * 2 ^ (es - eb)
  let fb := left - eb
  let f := rest % 2 ^ fb
  (2 ^ fb + f, k * (2 ^ es : Nat) + (e : Int) - (fb : Int))

/-- T8 has nb 7, es 1; T6 has nb 5, es 0. -/
def decodeT (nb es c : Nat) : Val :=
  let body := c % 2 ^ nb
  let neg := c.testBit nb
  if body = 0 then (if neg then .nan false else .fin false 0 0)
  else
    let (m, e) := decodeTaper nb es body
    .fin neg m e

def intVal (i : Int) : Val := .fin (decide (i < 0)) i.natAbs 0

/-- The exact value of a code (R158, R168, R171). -/
def Fmt.decode (f : Fmt) (t : Tbl4) (c : Nat) : Val :=
  match f with
  | .fp32 => decodeIeee 23 c
  | .bf16 => decodeIeee 7 c
  | .t8 => decodeT 7 1 c
  | .t6 => decodeT 5 0 c
  | .i4 => intVal (t.entry (c % 16))
  | .int32 => intVal (BitVec.ofNat 32 c).toInt

namespace Val

def isNan : Val → Bool
  | .nan _ => true
  | _ => false
def isSig : Val → Bool
  | .nan s => s
  | _ => false
def isZero : Val → Bool
  | .fin _ 0 _ => true
  | _ => false
def neg : Val → Val
  | .nan s => .nan s
  | .inf n => .inf (!n)
  | .fin n m e => .fin (!n) m e
def isNeg : Val → Bool
  | .nan _ => false
  | .inf n => n
  | .fin n _ _ => n
def abs : Val → Val
  | .nan s => .nan s
  | .inf _ => .inf false
  | .fin _ m e => .fin false m e
/-- Multiplies by 2^k; infinities and NaNs stay (R176). -/
def scale (v : Val) (k : Int) : Val :=
  match v with
  | .fin n m e => .fin n m (e + k)
  | v => v

/-- The integer m × 2^(e - q) of a finite value, for q not above e. -/
def sint (neg : Bool) (m : Nat) (e q : Int) : Int :=
  let x : Int := (m <<< (e - q).toNat : Nat)
  if neg then -x else x

/-- Compares two values that are no NaN. -/
def cmp (a b : Val) : Ordering :=
  match a, b with
  | .inf n, .inf k => if n = k then .eq else if n then .lt else .gt
  | .inf n, _ => if n then .lt else .gt
  | _, .inf n => if n then .gt else .lt
  | .fin n m e, .fin k l f =>
    let q := min e f
    compare (sint n m e q) (sint k l f q)
  | _, _ => .eq

/-- The exact product (R160, R163, R164): 0 × ∞ is undefined. -/
def mul (a b : Val) : Val × Bool :=
  match a, b with
  | .nan s, .nan t => (.nan (s || t), false)
  | .nan s, _ => (.nan s, false)
  | _, .nan s => (.nan s, false)
  | .inf n, .inf k => (.inf (n != k), false)
  | .inf n, .fin k m _ => if m = 0 then (.nan false, true) else (.inf (n != k), false)
  | .fin n m _, .inf k => if m = 0 then (.nan false, true) else (.inf (n != k), false)
  | .fin n m e, .fin k l f => (.fin (n != k) (m * l) (e + f), false)

/-- The exact quotient (R163, R164), its invalid flag and its division by zero. -/
def div (a b : Val) : Val × Bool × Bool :=
  match a, b with
  | .nan s, .nan t => (.nan (s || t), false, false)
  | .nan s, _ => (.nan s, false, false)
  | _, .nan s => (.nan s, false, false)
  | .inf _, .inf _ => (.nan false, true, false)
  | .inf n, .fin k _ _ => (.inf (n != k), false, false)
  | .fin n _ _, .inf k => (.fin (n != k) 0 0, false, false)
  | .fin n m e, .fin k l f =>
    if l = 0 then (if m = 0 then (.nan false, true, false) else (.inf (n != k), false, true))
    else
      let w := 200 + bitLen l
      let q := (m <<< w) / l
      let r := (m <<< w) % l
      (.fin (n != k) (2 * q + b2n (r != 0)) (e - f - (w : Int) - 1), false, false)

end Val

/-- The parts of a sum seen so far (R160, R163, R164). -/
structure Total where
  sum : Int := 0
  q : Int := 0
  any : Bool := false
  allNeg : Bool := true
  allPos : Bool := true
  pinf : Bool := false
  ninf : Bool := false
  nan : Bool := false
  sig : Bool := false
  inv : Bool := false
  deriving DecidableEq, Repr

/-- Adds a term, which may itself be undefined. -/
def Total.add (a : Total) (v : Val × Bool) : Total :=
  let a := { a with inv := a.inv || v.2 }
  match v.1 with
  | .nan s => { a with nan := true, sig := a.sig || s }
  | .inf n => if n then { a with ninf := true } else { a with pinf := true }
  | .fin n m e =>
    let q := if a.any then min a.q e else e
    { a with any := true, q := q,
             sum := (if a.any then a.sum * (2 : Int) ^ (a.q - q).toNat else 0) + Val.sint n m e q,
             allNeg := a.allNeg && n, allPos := a.allPos && !n }

/-- The value of the sum: its sign when it is zero follows R163; NV tells an invalid operation or a
signalling NaN (R164). -/
def Total.value (a : Total) (mode : Nat) : Val × Bool :=
  if a.inv || (a.pinf && a.ninf) then (.nan false, true)
  else if a.nan then (.nan false, a.sig)
  else if a.pinf then (.inf false, false)
  else if a.ninf then (.inf true, false)
  else if a.sum = 0 then
    (.fin (if a.any && a.allNeg then true else if a.allPos then false else decide (mode = 2)) 0 0, false)
  else (.fin (decide (a.sum < 0)) a.sum.natAbs a.q, false)

/-- The exact sum of several terms. -/
def sumVals (mode : Nat) (ts : List (Val × Bool)) : Val × Bool :=
  (ts.foldl Total.add {}).value mode

/-- The exact square root (R164): negative non-zero numbers have none; the root of -0 is -0. -/
def Val.sqrt : Val → Val × Bool
  | .nan s => (.nan s, s)
  | .inf n => if n then (.nan false, true) else (.inf false, false)
  | .fin n m e =>
    if m = 0 then (.fin n 0 0, false)
    else if n then (.nan false, true)
    else
      let odd : Nat := (e % 2).toNat
      let x := (m <<< odd) <<< 200
      let r := isqrt x
      (.fin false (2 * r + b2n (r * r != x)) ((e - (odd : Int)) / 2 - 101), false)
where
  /-- The integer square root, bit by bit. -/
  isqrtGo (x : Nat) : Nat → Nat → Nat
    | 0, r => r
    | n + 1, r =>
      let r' := r + 2 ^ n
      isqrtGo x n (if r' * r' ≤ x then r' else r)
  isqrt (x : Nat) : Nat := isqrtGo x (bitLen x / 2 + 1) 0

/-! ### The random generator -/

/-- One step of the generator from (w0, w1): the output and the new state (R178). -/
def genStep (w0 w1 : Word) : Word × Word × Word :=
  let a := w0 ^^^ (w0 <<< 23)
  let n := a ^^^ w1 ^^^ (a >>> 17) ^^^ (w1 >>> 26)
  (n + w1, w1, n)

/-- The state after a step as one 128-bit number, w0 low. -/
def genNext (v : Nat) : Nat :=
  let r := genStep (BitVec.ofNat 64 v) (BitVec.ofNat 64 (v / 2 ^ 64))
  r.2.1.toNat + r.2.2.toNat * 2 ^ 64

/-- A linear map on 128 bits: the images of the unit vectors. -/
def linApply : List Nat → Nat → Nat
  | [], _ => 0
  | x :: xs, v => (if v % 2 = 1 then x else 0) ^^^ linApply xs (v / 2)

/-- Applies T^j: the state that j single steps would reach (R179). -/
def genPow (t : List Nat) (j v : Nat) : Nat → Nat
  | 0 => v
  | n + 1 =>
    if j = 0 then v
    else genPow (t.map (linApply t)) (j / 2) (if j % 2 = 1 then linApply t v else v) n

/-- Advances a state by J = (u × 2^64) mod (2^128 - 1) steps (R179). -/
def genJump (u : Nat) (w0 w1 : Word) : Word × Word :=
  let j := u * 2 ^ 64 % (2 ^ 128 - 1)
  let v := genPow ((List.range 128).map (fun i => genNext (2 ^ i))) j (w0.toNat + w1.toNat * 2 ^ 64) 128
  (BitVec.ofNat 64 v, BitVec.ofNat 64 (v / 2 ^ 64))

/-- The base state of a launch (R179). -/
def genBase (seed : Word) : Word × Word := (seed, seed ^^^ 0x5C4E9A3B17D08F26)

end Sys2Proof.Machine
end

