-- ==== Sys2Proof/Config.lean ====
section
/-! DEFINITION. What an implementation of the Kretil 4A fixes, and the free values: constants without
a body, which no proof can evaluate. Each is named in the assumption log. -/

namespace Sys2Proof.Config

/-- A value that the spec leaves open: the counter `State.seed` is its argument, and the step that uses
one advances the counter (log 5). -/
opaque freeValue : Nat → BitVec 64

/-- SHA-512 of a byte string (R424 names it and does not define it; log 6). -/
opaque sha512 : List Byte → BitVec 512

/-- The Ed25519 signature of the device key over a byte string (R417, R430; log 6). -/
opaque sign : List Byte → BitVec 512

/-- The boot ROM, the firmware image and the supervisor image of a function as loaded (R416, R417; log 6). -/
opaque bootRom : List Byte
opaque firmwareImage : List Byte
opaque supervisorImage : Nat → List Byte

/-- The firmware image's Ed25519 signature, the public key in the fuses, and the verification of a signature over a digest
(R416; log 6). -/
opaque firmwareSignature : BitVec 512
opaque fuseKey : BitVec 256
opaque ed25519 : BitVec 256 → BitVec 512 → BitVec 512 → Bool

/-- The check of the boot ROM (R416). -/
def firmwareVerifies : Bool := ed25519 fuseKey (sha512 firmwareImage) firmwareSignature

/-- The first 8 bytes of an attestation report: format version and device number (R417; log 6). -/
opaque reportHead : Nat → BitVec 64

/-- AES-GMAC of a link flit (R369): key, nonce, header, payload; the tag (log 6). -/
opaque gmac : BitVec 64 → Nat → BitVec 128 → List (BitVec 64) → BitVec 128

/-- AES-256-GCM of a link flit, its header authenticated (R369): the encrypted payload and the tag (log 6). -/
opaque gcm : BitVec 64 → Nat → BitVec 128 → List (BitVec 64) → List (BitVec 64) × BitVec 128

/-- The 768 GiB of LPDDR (R2) are the lowest physical addresses (PRESUMED, log 98). -/
def lpddrSize : Nat := 0xC000000000

/-- Where firmware puts the TCM backing window of a core (R70; log 7): in the last GiB of LPDDR, of which it gives no
partition anything. -/
def tcmBacking (core : Nat) : Nat := 0xBFC0000000 + core * 0xE0000

/-- Where firmware puts the context block of a core (R284; log 7). -/
def contextBlock (core : Nat) : Nat := 0xBFF8000000 + core * 0x1000

/-- Packets of one virtual channel of one input that a router holds before it tells the sender to stop (R342; log 91). -/
def linkBuffer : Nat := 64

/-- The weights, in 0.1 mA for one clk of a window, that firmware calibrates at bring-up for a plane advance, an axis clock and
a VU slice (R426; log 45). -/
opaque planeWeight : Nat
opaque axisWeight : Nat
opaque sliceWeight : Nat

/-- The physical entry that holds a register of a thread, by the register's code (R62, R420; log 101). -/
opaque entryOf : Nat → Nat → BitVec 10

/-- How many clk a refused REDF entry waits before the port tries again (R328). -/
def redfRetry : Nat := 64

end Sys2Proof.Config
end

