-- ==== Sys2Proof/Machine/State.lean ====
section
/-! DEFINITION. The state of one Kretil 4A package: everything the spec names (INVENTORY.md, State).
Sparse maps hold what most of the machine has at its reset value. All of it is plain data. -/

namespace Sys2Proof.Machine

/-- The privilege levels (R400). -/
inductive Level where
  | U | S | F
  deriving DecidableEq, Repr

/-- The number of a level (R115). -/
def Level.toNat : Level → Nat
  | .U => 0
  | .S => 1
  | .F => 2

/-- A fault: its cause code (R397) and what EINFO holds. -/
structure Flt where
  cause : Nat
  info : Word
  deriving DecidableEq, Repr

/-- An architectural s or f register (R61). -/
inductive RegSt where
  | dead
  | resident (v : Word)
  | framed
  /-- It holds `old` and waits for the response of the thread's operation number `op` (R348). -/
  | owed (op : Nat) (old : Word)
  deriving DecidableEq, Repr

/-- Why a thread's next instruction does not issue. -/
inductive Why where
  /-- A queue port that is empty or full (R67). -/
  | port (r : Nat)
  /-- The segment is speculative (R315). -/
  | spec
  /-- Entries of the commit area are not yet performed (R313). -/
  | commit
  /-- LDFE at `ea`, in granule `g` of cluster `cl`, which it leaves full or empties (R107, R279). -/
  | granule (cl g : Nat) (ea : Word) (keep : Bool)
  | channel (ch : Nat)
  | phaseEntry (ch : Nat)
  /-- A transfer-barrier word at address `ea` (R254, R279). -/
  | word (cl off : Nat) (ea : Word)
  | pod (bar : Nat)
  | mailbox
  | wfi
  /-- Vector instructions, or values in q0 to q3, that are left at a suspension point (R68). -/
  | drain
  /-- The VU queue has to drain (R241, R243). -/
  | vu
  /-- A unit's queue is full (R59). -/
  | room
  /-- Accesses on their way to another cluster's scratchpad (R310). -/
  | stores
  /-- A load from another cluster's scratchpad is on its way (R310). -/
  | mesh (cl off bytes : Nat)
  | tlb (kind scope : Nat) (va : Word)
  /-- A line operation at a scope (8: one 64-byte line of the own L1). -/
  | lineOp (op scope line : Nat) (tcm : Bool)
  /-- An L1 miss on a 64-byte line (R106). -/
  | miss (line : Nat) (tcm : Bool)
  /-- A recompute of a derived 256-byte line (R387). -/
  | stale (line : Nat)
  /-- MAU commands outstanding (R205), or FCTL not settled (R166). -/
  | axis
  /-- The field is busy (R141). -/
  | field
  | launches
  | stamp
  /-- An open REPV capture has to close (R239). -/
  | capture
  /-- Remote operations outstanding (R353). -/
  | remote
  /-- A register whose RAMO or RCAS is not answered (R348). -/
  | owed (r : Nat)
  | rseq (pa : Nat)
  | armed
  | lane (k : Nat)
  | target
  | timed (clk : Nat)
  /-- A wait within an XPHASE that enters a phase on channel `ch` (R301). -/
  | entering (ch : Nat) (w : Why)
  deriving DecidableEq, Repr

/-- A wait: its reason and the clk at which it began. -/
structure Wait where
  why : Why
  since : Nat
  deriving DecidableEq, Repr

/-- An element that STX has stored (R141, R154): its field's descriptor, its local index, its place and its code. -/
structure ElemStore where
  desc : Nat
  q : Nat
  pa : Nat
  code : Nat
  deriving DecidableEq, Repr

/-- One entry of a commit area, in program order (R313). Addresses are physical (R404). -/
inductive Entry where
  /-- Stored bytes of one 64-byte sector: address, value, mask of the bits stored; the commit waits while a field whose
  descriptor is listed is busy (R140, R152); the elements among them that STX has stored. -/
  | store (sector : Nat) (bytes : List (Nat × Byte × Byte)) (waits : List Nat) (elems : List ElemStore)
  /-- A relabelling, composed onto the map of the descriptor at `pa` (R147, R155). -/
  | perm (pa : Nat) (list : List Nat)
  /-- An AMO with d = s0. -/
  | amo (pa : Nat) (op : Nat) (w : Nat) (t : Word)
  | redf (pa : Nat) (val : BitVec 32) (idx : BitVec 32) (rm : Nat)
  /-- A spill of a speculative segment: one frame sector (R65). -/
  | spill (sector : Nat) (bytes : List Host.Cell)
  deriving DecidableEq, Repr

/-- A bound stream register v28 to v31 (R233, R242). -/
structure Stream where
  bound : Bool := false
  base : Word := 0
  bounds : Word := 0
  strides : Word := 0
  ctl : Word := 0
  pos : Nat := 0
  deriving DecidableEq, Repr

/-- A vector instruction in a thread's VU queue, with what it captured at issue (R226, R230): VL, FMT, RM, the
I4 table, scalar sources (a port number 56 or 57, else 0, with the value), and whether it had a P.R. -/
structure VuCmd where
  ins : Instr
  pc : Word
  /-- EINFO of an ILLEGAL_OP it raises (R56). -/
  einfo : Word
  hasR : Bool
  vl : Nat
  fmt : Nat
  rm : Nat
  tblA : Word
  tblB : Word
  level : Level
  scalars : List (Nat × Word)
  draws : List Word
  issued : Nat
  /-- What REPV adds to the fields selected by `sel` (R239). -/
  shift : Nat := 0
  sel : Nat := 0
  running : Bool := false
  started : Nat := 0
  deriving DecidableEq, Repr

/-- An open or closed REPV capture (R239): instructions still to capture, and the next execution that enters
the VU queue. -/
structure Capture where
  left : Nat := 0
  count : Nat := 0
  stagger : Nat := 0
  mask : Nat := 0
  cmds : List VuCmd := []
  next : Nat := 0
  deriving DecidableEq, Repr

/-- An XSEL that waits for a free capture (R303): its operands (TCM address, slot, source core), the entries that it has
popped, by port, and the registers that its last-use marks have freed. -/
structure XselWait where
  addr : Word
  slot : Word
  source : Word
  pops : List (Nat × Word) := []
  freed : List (Nat × Word) := []
  deriving DecidableEq, Repr

/-- The continuation and architectural state of one thread slot. -/
structure Thread where
  /-- The slot holds a continuation, or the march program. -/
  occ : Bool := false
  /-- Stopped after a nested fault, a fault at level F, or HALT (R114, R116, R118). -/
  stopped : Bool := false
  /-- ST of the record while the thread holds its slot: 2 running, 4 held, 6 pre-empted (R278). -/
  st : Nat := 2
  pc : Word := 0
  level : Level := .U
  part : Nat := 0
  sregs : SMap RegSt := []
  fregs : SMap RegSt := []
  q0 : List Word := []
  q1 : List Word := []
  q2 : List Word := []
  q3 : List Word := []
  /-- The port and the clk of the latest push of a vector instruction (R227). -/
  pushAt : Option (Nat × Nat) := none
  /-- Vector registers: element i of vn at key 64 n + i (R225). -/
  vregs : SMap (BitVec 32) := []
  masks : SMap Word := []
  str28 : Stream := {}
  str29 : Stream := {}
  str30 : Stream := {}
  str31 : Stream := {}
  vuq : List VuCmd := []
  vuWait : Option Nat := none
  capture : Capture := {}
  /-- VCTL.SB, which changes at issue; a stream's `bound` changes when its SCFG executes (R233). -/
  sb : Nat := 0
  pendVec : Option (Flt × Word) := none
  pendMau : Option Flt := none
  pendRemote : Option Flt := none
  pendReduce : Option Flt := none
  fctl : Word := 0
  vctl : Word := 64
  loopst : Word := 0
  epc : Word := 0
  ecause : Word := 0
  einfo : Word := 0
  erec : Word := 0
  eloop : Word := 0
  wid : Word := 0
  wshape : Word := 0
  tstamp : Word := 0
  /-- Record address, frame address and whether the vector extension is present (R277, R64). -/
  record : Word := 0
  frame : Word := 0
  vx : Bool := false
  /-- Header address of its launch and whether that launch is a commit domain of this device. -/
  launch : Word := 0
  inLaunch : Bool := false
  queue : Nat := 0
  gang : Bool := false
  /-- The number of its gang within the launch (R271). -/
  gangNo : Nat := 0
  /-- The generator state, high and low word (R178). -/
  genHi : Word := 0
  genLo : Word := 0
  /-- ce.src, ce.dst, ce.len, ce.sstr, ce.dstr, ce.cnt, ce.flags (R257). -/
  ce : SMap Word := []
  reList : Nat := 0
  reStatus : Nat := 0
  /-- The commit area and the open segment (R312 to R316). -/
  entries : List Entry := []
  sig : List Nat := []
  /-- REDF entries that a home slice refused and the port will retry (R328). -/
  redfOut : Nat := 0
  /-- The instruction just executed was a commit point: a new segment begins after it. -/
  segNew : Bool := false
  /-- Its segment has ended at a wait in its slot, and the next one begins when the wait is over (R281, R312). -/
  between : Bool := false
  /-- A fault that waits for the end of speculation or for the segment's entries (R116); `heldNested` says that it is a
  frame write that could not be performed, which stops the thread as a nested fault does (R66). -/
  held : Option Flt := none
  heldNested : Bool := false
  /-- Scalar stores issued while vector instructions are queued: place, bytes, clk (R309). -/
  stored : List (Nat × Nat × Nat) := []
  /-- Flags that commands have raised since the continuation was pre-empted (R209). -/
  late : BitVec 5 := 0
  /-- Scratchpad stores to other clusters that are in flight (R310). -/
  meshOut : Nat := 0
  /-- Remote operations outstanding by class (R345, R353); a RAMO or RCAS has been sent, and its response: the
  old value, or nothing where it failed (R348, R349). -/
  outOM : Nat := 0
  outAD : Nat := 0
  outRT : Nat := 0
  response : Option (Option Word) := none
  awaiting : Bool := false
  /-- Number of the thread's next RAMO or RCAS (R348). -/
  opNo : Nat := 0
  /-- The channel on which its XPHASE has arrived and whose release it waits for (R301). -/
  xarr : Option Nat := none
  /-- Its XSEL waits for a free capture (R303). -/
  xsel : Option XselWait := none
  /-- The value of a detaching SUSPEND whose store has been made (R290). -/
  suspVal : Option Word := none
  /-- TLBs and walkers that have not yet acknowledged a TLBINV (R119). -/
  acks : Nat := 0
  /-- The bytes that a load brought back from another cluster's scratchpad (R310). -/
  meshVal : Option Nat := none
  /-- The recompute that a load waited for has failed with this cause (R387). -/
  lineFault : Option Nat := none
  /-- The slot is reserved for this record of a gang member (R272). -/
  reserved : Option Word := none
  /-- Arrival records of the wired channels (key ch) and of the pod barriers (key 64 + bar): A + 2 RP. -/
  arrive : SMap Nat := []
  /-- Release seen while waiting on a channel or pod barrier: the phase waited on. -/
  waitPhase : Option Nat := none
  wait : Option Wait := none
  spilled : Bool := false
  /-- Not a candidate before a PAUSE_EXPIRY or a timed instruction's end (R93, R118). -/
  paused : Bool := false
  /-- The LDFE or line operation waiting at this slot has been performed. -/
  opDone : Bool := false
  /-- The fetch buffer: 16-byte blocks by address, the latest first (R58, R111). -/
  fbuf : List (Word × Nat) := []
  deriving DecidableEq, Repr

/-- An L1 line: its physical 64-byte line number, or an overflow line of the TCM window. -/
structure L1Line where
  line : Nat
  tcm : Bool
  pinned : Bool := false
  dirty : Bool := false
  deriving DecidableEq, Repr

/-- A translation held by a TLB: partition, page number, page bits (16 or 25), the leaf entry. -/
structure TlbEntry where
  part : Nat
  vpn : Nat
  big : Bool
  leaf : Word
  deriving DecidableEq, Repr

/-- One repair unit (R15, R16): recorded rows, bad spares, UNREP and APPLIED. -/
structure Repair where
  rows : List Nat := []
  bad : List Nat := []
  unrep : Bool := false
  applied : Bool := false
  deriving DecidableEq, Repr

/-- A command of a core's MAU queue, waiting or running, with what it captured at issue (R185, R188): operands,
RM, I4 table, level (R441), MSHARE, and the barrier operand's kind, index and phase. -/
structure MauCmd where
  id : Nat
  tid : Nat
  ins : Instr
  part : Nat
  level : Level
  args : List Word
  rm : Nat
  tblA : Word
  tblB : Word
  issued : Nat
  share : Nat
  desig : Option (Nat × Nat × Bool) := none
  running : Bool := false
  started : Nat := 0
  /-- Tile rows finished. -/
  rows : Nat := 0
  flags : BitVec 5 := 0
  /-- An axis command: BUSY is still to be taken (0), or it is under way (1), or an exchange copies (2). -/
  stage : Nat := 0
  /-- Physical addresses of the descriptors whose BUSY it has set, and the clk at which it reached the next one (R138). -/
  held : List Nat := []
  arrived : Nat := 0
  /-- Its descriptors as they stood when it began, 64 bytes each (R157). -/
  descs : List Nat := []
  /-- Sends of an exchange that are not acknowledged. -/
  sends : Nat := 0
  deriving DecidableEq, Repr

/-- A copy command: a snapshot of the registers, and the I4 table of the issuing core (R171, R259). `done` says
that it keeps its queue place until its entry reaches the mailbox (R261). -/
structure CopyCmd where
  id : Nat
  tid : Nat
  part : Nat
  level : Level
  regs : List Word
  tblA : Word
  tblB : Word
  running : Bool := false
  done : Bool := false
  deriving DecidableEq, Repr

/-- One element of a tile or of an axis operator. -/
abbrev Elem := BitVec 64

/-- An axis operator slot (R198): k, complex flag and the matrix, row by row. -/
structure AxSlot where
  k : Nat
  cplx : Bool
  data : List Elem
  deriving DecidableEq, Repr

/-- The state of one core. -/
structure Core where
  /-- Issue pointer P (R59). -/
  ptr : Nat := 0
  q4 : List Word := []
  q5 : List Word := []
  q6 : List Word := []
  q7 : List Word := []
  mailbox : List (Word × Word) := []
  /-- Entries that wait at the port, and diverted ones, with their senders' timestamps (R282, R285, R439). -/
  port : List (Word × Word × Nat) := []
  /-- Entries that have left the port, into the mailbox or diverted (R412, R439). -/
  portOut : Nat := 0
  tcm : List Host.Cell := []
  tcmUnits : Nat := 6
  tcmMin : Nat := 2
  tcmMax : Nat := 14
  refused : Bool := false
  /-- A chosen move of the boundary: the new number of TCM units (R72). -/
  moving : Option Nat := none
  l1 : List L1Line := []
  /-- Shadow tag stacks of the sampling sets, hits by depth, sampled accesses (R71). -/
  shadow : SMap (List Nat) := []
  depthHits : SMap Nat := []
  sampled : Nat := 0
  /-- PINQ.QUOTA and USED per partition (R76). -/
  quota : SMap Nat := []
  used : SMap Nat := []
  tlb : List TlbEntry := []
  tbl4a : Word := 0
  tbl4b : Word := 0
  /-- STATUS [63:61] and NMIS (R17); TEST is `test`. -/
  status : Word := 0
  test : Bool := true
  started : Bool := false
  prfidx : Word := 0
  repidx : Word := 0
  bankdir : Word := 0
  /-- Physical entries as the march sees them: scalar at 0 to 135, float at 256 to 391 (R13). -/
  prf : SMap Word := []
  /-- Repairs of the scalar file (0) and the float file (1). -/
  files : SMap Repair := []
  /-- XSTAT fields and the exchange phase (R299). -/
  pclk : Nat := 0
  mcnt : Nat := 0
  fend : Bool := false
  miss : Nat := 0
  inph : Bool := false
  phaseTid : Nat := 0
  phaseStart : Nat := 0
  phaseCh : Nat := 0
  armedSlots : List (Nat × Nat × Nat) := []
  lane : SMap (Option Word) := []
  preemptHeld : Bool := false
  preempted : Bool := false
  /-- The pre-empted core's threads and queues have been saved (R283). -/
  saved : Bool := false
  spillq : List (Word × Word × Nat) := []
  /-- MAU: tiles and B slots claimed, axis slots, queue (R180, R185). -/
  tiles : Nat := 6
  bslots : Nat := 6
  axis : SMap (Option AxSlot) := []
  mauq : List MauCmd := []
  /-- The partition the core serves and whether it has been withdrawn (R73, R77). -/
  part : Nat := 0
  withdrawn : Bool := false
  haltedDone : Bool := false
  testFault : Bool := false
  /-- Least recently used first: residents of the four threads (R62). -/
  lru : List Nat := []
  deriving DecidableEq, Repr

/-- A tile: 64 x 64 FP32 values at key 64 row + column, and the rows final so far (R189). -/
structure Tile where
  data : SMap (BitVec 32) := []
  twm : Nat := 64
  deriving DecidableEq, Repr

/-- A B slot: 64 x 64 elements in exact form as E8M8 codes (R183). -/
structure BSlot where
  data : SMap Word := []
  fmt : Nat := 0
  valid : Bool := false
  deriving DecidableEq, Repr

/-- A ready queue of one partition in one cluster: records, and its passed-over counter (R274). -/
structure ReadyQ where
  recs : List Word := []
  passed : Nat := 0
  deriving DecidableEq, Repr

/-- The state of one cluster. -/
structure Cluster where
  /-- Scratchpad bytes at key row * 1024 + bank * 8 + byte; rows 4096 to 4099 are the spares. -/
  spad : List Host.Cell := []
  /-- Full-empty bits that are set, by granule number. -/
  full : SMap Bool := []
  /-- LDFE waiters per granule: (granule, thread) in arrival order (R107). -/
  feWait : List (Nat × Nat) := []
  banks : SMap Repair := []
  wfmt : SMap Word := []
  cbtid : Nat := 0
  copyq : List CopyCmd := []
  tiles : SMap Tile := []
  bslots : SMap BSlot := []
  mauId : Nat := 0
  mauPtr : Nat := 0
  mauCredit : SMap Nat := []
  /-- The clk at which the tile datapath fell idle, 0 while it is busy; the next clk at which a command may start
  (R186, R428). -/
  mauIdle : Nat := 0
  mauAt : Nat := 0
  ramped : Bool := false
  /-- The clk at which the running ramp began (R428). -/
  rampAt : Option Nat := none
  vuPtr : Nat := 0
  vuCredit : SMap Nat := []
  sticky : BitVec 5 := 0
  /-- The flags that were set in clk `stickyAt` (R167). -/
  stickyNow : BitVec 5 := 0
  stickyAt : Nat := 0
  lotseed : BitVec 32 := 1
  /-- Ready queues at key 16 partition + queue. -/
  ready : SMap ReadyQ := []
  tlb : List TlbEntry := []
  part : Nat := 0
  withdrawn : Bool := false
  deriving DecidableEq, Repr

/-- A wired barrier channel (R249, R250): its phase bit, and whether a release is on its way. -/
structure Channel where
  phase : Bool := false
  releasing : Bool := false
  deriving DecidableEq, Repr

/-- A launch in progress: the copied header and what is left of it (R265 to R288). `addr` holds the header
address in [47:0]; [63:48] tell launches of one header apart (log 22). -/
structure Launch where
  addr : Word
  hdr : List Word
  /-- The launcher's level, at which DONE is written (R269). -/
  level : Level := .U
  sup : Bool := false
  /-- The launcher's core; 1024 for a launch that the host posted. -/
  core : Nat := 0
  created : Nat := 0
  finished : Nat := 0
  faulted : Nat := 0
  ended : Bool := false
  /-- Members of the running gang that have not finished, and whether they hold the channels (R272). -/
  gangLeft : Nat := 0
  /-- Frame slots in use, when FRAMES.F > 0. -/
  pool : List Nat := []
  minimum : Nat := 0
  rr : Nat := 0
  /-- Slots reserved for the next gang, in the order of its members (R272). -/
  gangPlan : List Nat := []
  deriving DecidableEq, Repr

/-- A continuation that holds no slot: ST, stamp, launch, the cluster and core where it last ran, WAIT, its
queue, and the slot that a gang keeps reserved for it (R277 to R282). -/
structure Cont where
  st : Nat
  stamp : Nat
  launch : Word
  inLaunch : Bool
  cluster : Nat
  core : Nat
  kind : Nat
  obj : Nat
  queue : Nat
  slot : Option Nat := none
  gangNo : Nat := 0
  /-- A new unit: it starts with s4 = PARAM (R280). -/
  fresh : Bool := false
  /-- It resumes only on its core: its last wait was for the mailbox, or a pre-emption (R281). -/
  onCore : Bool := false
  /-- A REDUCE_STALL that waits for its resumption (R330). -/
  pendReduce : Option Flt := none
  deriving DecidableEq, Repr

/-- A record of a send list (R333): its words, the list's header and the thread's level when it was appended, the
thread, and the flush that will cover it. -/
structure SendRec where
  w0 : Word
  w1 : Word
  hdr : Word
  level : Level
  tid : Nat
  fid : Nat
  deriving DecidableEq, Repr

/-- What a flush covers, counted as it is acknowledged (R335). -/
structure FlushAcc where
  fid : Nat
  count : Nat := 0
  acked : Nat := 0
  second : Nat := 0
  spilled : Nat := 0
  status : Nat := 0
  /-- The flush has been written: its core and the header at that moment. -/
  closed : Bool := false
  core : Nat := 0
  hdr : Word := 0
  deriving DecidableEq, Repr

/-- A routing send list (R332, R357). -/
structure SendList where
  hdr : Word := 0
  recs : List SendRec := []
  inflight : Nat := 0
  fid : Nat := 0
  accs : List FlushAcc := []
  deriving DecidableEq, Repr

/-- A pod barrier of a partition (R365). -/
structure Pod where
  phase : Bool := false
  cfg : Option PodCfg := none
  count : Nat := 0
  arrived : Nat := 0
  deriving DecidableEq, Repr

/-- The state kept per partition (R401, R402, R406). -/
structure Part where
  active : Bool := false
  trapvec : Word := 0
  ptroot : Word := 0
  wbmask : Word := 0
  pbmask : Word := 0
  rlmask : Word := 0
  stmask : Nat := 0
  faba : Word := 0
  pamin : Word := 0
  pamax : Word := 0
  endl : Word := 0
  clmask : Nat := 0
  racen : Nat := 0
  fabn : Nat := 0
  /-- Entries of the two rings that the capture has drained (R422). -/
  raceGone : Nat := 0
  fabGone : Nat := 0
  evn : Nat := 0
  /-- The eight digest requests, two doublewords each (R424). -/
  digest : SMap Word := []
  events : SMap Word := []
  ftbase : Word := 0
  dvbase : Word := 0
  trctl : Word := 0
  tickets : SMap Nat := []
  lists : SMap SendList := []
  pods : SMap Pod := []
  launches : List Launch := []
  /-- Host event queue: address, entries, written (R415). -/
  evq : Option (Word × Nat × Nat) := none
  /-- Continuations without a slot, by record address. -/
  conts : SMap (Option Cont) := []
  suspended : Bool := false
  /-- Arrivals of exchange elements by handle (R149). -/
  exch : SMap Nat := []
  /-- Receive area of the latest exchange by handle (R149). -/
  exchArea : SMap Word := []
  /-- Captured races and arrivals that replay follows, oldest first (R423): slice or port, address, and the
  word that names the writer. -/
  replay : List (Nat × Nat × Word) := []
  deriving DecidableEq, Repr

/-- A receive buffer or the spill area (R334), with the partition that registered it and its image's address. -/
structure RecvBuf where
  valid : Bool := false
  part : Nat := 0
  base : Word := 0
  tags : Word := 0
  cap : Nat := 0
  fill : Nat := 0
  passed : Nat := 0
  image : Word := 0
  deriving DecidableEq, Repr

/-- A line of a home slice (R375, R376): its number, V and D of its four sectors, WM of its 64 words. -/
structure SliceLine where
  line : Nat
  v : Nat := 0
  d : Nat := 0
  wm : Nat := 0
  deriving DecidableEq, Repr

/-- A reduction slot of a home slice (R328): its owner is the continuation that registered it, and `since` is
the clk of its last progress while it holds entries (R330). -/
structure Slot where
  pa : Nat
  next : Nat
  drop : Nat
  ownerPart : Nat
  owner : Word
  held : List RedfEntry := []
  since : Nat := 0
  deriving DecidableEq, Repr

/-- A run of a field's storage: offset from BASE, physical address, length. -/
structure Seg where
  off : Nat
  pa : Nat
  len : Nat
  deriving DecidableEq, Repr

/-- A rule held by the rule caches: the eight words of the dependence-table entry (R382), with the
physical runs of the derived storage (R379) and of the base field's storage. -/
structure Rule where
  part : Nat
  h : Nat
  image : List Word
  segs : List Seg := []
  bsegs : List Seg := []
  deriving DecidableEq, Repr

/-- A stale notice on its way, and what waits for it (R384 to R386). -/
structure Notice where
  id : Nat
  line : Nat
  /-- The writing thread, whose commit point waits, and its domain and stamp (R385, R386). -/
  waiting : Option Nat
  domain : Option (Nat × Word)
  stamp : Nat
  deriving DecidableEq, Repr

/-- A stream entry of the router (R361): its control word and port-set words, the markers it holds by port, what
waits behind them (a marker, or a reduction packet), and the inputs that a step closed by LIMIT has missed. -/
structure StreamEnt where
  words : SMap Word := []
  markers : List (Nat × Packet) := []
  waiting : List Ev := []
  late : List (Word × Nat) := []
  deriving DecidableEq, Repr

/-- A reduction step gathered at a router or at the endpoint (R363, R364). -/
structure Gather where
  stream : Nat
  ea : Word
  since : Nat
  pkts : List RedPacket := []
  ports : List Nat := []
  mis : Bool := false
  dup : Bool := false
  deriving DecidableEq, Repr

/-- The closed record of a delivered step (R364). -/
structure ClosedRec where
  stream : Nat
  ea : Word
  part : Nat
  map : Nat
  status : Word
  since : Nat
  deriving DecidableEq, Repr

/-- A flit (R340): a 16-byte header, 64 bytes of payload, a 16-byte tag. -/
structure Flit where
  header : BitVec 128
  payload : List Word
  tag : BitVec 128
  deriving DecidableEq, Repr

/-- A routing table: the failed devices, and the failed links as devices and ports (R339, R358). -/
structure Table where
  devs : List Nat := []
  links : List (Nat × Nat) := []
  deriving DecidableEq, Repr

/-- One virtual channel of one port (R341, R369, R370): `off` says that the other end has told it to stop (R342), `buf`
holds the packets that wait for it with the channels on which they came, 8 · port + vc, `nonce` is the counter of 96 bits. -/
structure Link where
  up : Bool := true
  off : Bool := false
  mode : Nat := 0
  buf : List (Nat × Packet) := []
  seqOut : Nat := 0
  seqIn : Nat := 0
  replay : List Flit := []
  key : Word := 0
  nonce : Nat := 0
  naks : Nat := 0
  deriving DecidableEq, Repr

/-- A packet of a stream that waits until there is room on every one of its outputs (R359): the channel it came on, its
outputs, its flits. -/
structure Branch where
  ch : Nat
  outs : List Nat
  pkts : List Packet
  deriving DecidableEq, Repr

/-- The fabric router and port of the package (R338 to R370). -/
structure Fabric where
  /-- OM sequence numbers sent and expected, by key (R342). -/
  omOut : SMap Nat := []
  omIn : SMap Nat := []
  /-- Operations sent and not yet acknowledged. -/
  flight : List Packet := []
  /-- New-generation OM packets that their source holds back (R358). -/
  pending : List Packet := []
  /-- What has come to a router that is down, in the senders' skid buffers, oldest first (R360). -/
  skid : List (Instr × Ev) := []
  /-- Packets of streams that wait for room on every output (R359). -/
  branches : List Branch := []
  /-- The channels, 8 · port + vc, on which this end has told the other to stop (R342). -/
  stopped : List Nat := []
  /-- Packets that have left on a port, and the flits that went over its link, replays among them. -/
  out : List (Nat × Packet) := []
  flits : List (Nat × Flit) := []
  /-- Acknowledgements that wait for the stale notices of what they acknowledge (R346, R385). -/
  acks : List (Nat × Packet) := []
  links : SMap Link := []
  gen : Nat := 0
  nextGen : Option Nat := none
  /-- Routing tables by generation (R358). -/
  tables : SMap Table := []
  liveGens : List Nat := [0]
  powered : Bool := true
  /-- The clk of the latest wake signal, and of the power-down (R360). -/
  wakeAt : Option Nat := none
  downAt : Nat := 0
  streams : SMap StreamEnt := []
  gathers : List Gather := []
  endpoint : List Gather := []
  closed : List ClosedRec := []
  sizes : Nat := 0x20200404
  deriving DecidableEq, Repr

/-- A completion on its way to the host (R413). -/
structure HostDone where
  chan : Nat
  part : Nat
  kind : Nat
  status : Nat
  info : Word
  data : List Word
  deriving DecidableEq, Repr

/-- The host link (R411 to R424): requests by channel with their kinds (R412), the head of a channel's list being
the one that its service core has taken; its completion while it is not over, with the core and the count of port
entries that a message waits for. -/
structure HostLink where
  queues : SMap (List (Nat × HostReq)) := []
  busy : SMap (Option (HostDone × Nat × Nat)) := []
  completions : List HostDone := []
  eventsOut : List (Nat × List Word) := []
  attest : List (Nat × List Byte) := []
  captured : List (Nat × List Word) := []
  lost : Nat := 0
  deriving DecidableEq, Repr

/-- The state of the package. -/
structure State where
  clk : Nat := 0
  /-- The thread whose instruction is being executed, its pc, base parcel and prefix count. -/
  cur : Nat := 0
  pc : Word := 0
  base : Nat := 0
  npre : Nat := 0
  /-- It has a P.R. -/
  hasR : Bool := false
  /-- The arguments of the event being executed. -/
  ev : Ev := {}
  threads : SMap Thread := []
  cores : SMap Core := []
  clusters : SMap Cluster := []
  parts : SMap Part := []
  /-- State of each thread at the start of its speculative segment (R65, R316). -/
  snaps : SMap Thread := []
  channels : SMap Channel := []
  /-- Members of the wired channels: bit k at key 1024 ch + core (R249). -/
  members : SMap Nat := []
  /-- Chip memory by physical address (R309); an unlisted byte reads 0 (log 3). -/
  mem : List Host.Cell := []
  /-- 4-byte words poisoned by an uncorrectable error (R418). -/
  poison : List ScrubSite := []
  /-- Derived lines that are current, by physical line number (R380), and recompute work. -/
  current : List Nat := []
  /-- Lines being recomputed: line, restarts so far, restart flag (R387, R388). -/
  recomputing : List (Nat × Nat × Bool) := []
  /-- Lines whose recompute waits for one of the four engines of its home slice (R375). -/
  recWait : List Nat := []
  rules : List Rule := []
  notices : List Notice := []
  slots : List Slot := []
  /-- What LPDDR holds of bytes whose home slice has them dirty (R376). -/
  behind : SMap (Option Byte) := []
  /-- The lines that the home slices hold, at key 768 × slice + set, most recently used first (R375). -/
  slices : SMap (List SliceLine) := []
  /-- Performing orders of the slices (key 0 to 255) and of the fabric port (key 256) (R421). -/
  orders : SMap Nat := []
  fabric : Fabric := {}
  bufs : SMap RecvBuf := []
  spill : RecvBuf := {}
  discards : Nat := 0
  host : HostLink := {}
  devid : Nat := 0
  slew : Word := 0x81900190
  shape : Word := 0x1000
  devstat : Word := 0
  governor : Nat := 0
  /-- The weighted work of the governor's window under way (R426). -/
  demand : Nat := 0
  powered : Bool := false
  /-- Due clk, step and arguments of what the other agents do next, and inputs from outside. -/
  agenda : List (Nat × Instr × Ev) := []
  /-- Issue position reached in this clk: 4 core + slots tried (R59). -/
  turn : Nat := 0
  /-- Counter of the free values (log 5). -/
  seed : Nat := 0
  errors : List (Nat × Word) := []
  deriving DecidableEq, Repr

/-- Why the model stops. The spec gives every case of its own faults a next state: no step raises one of these. -/
inductive Fault where
  /-- A machine that could never act again (raised by nothing; safe: `exec` and `step` always go on). -/
  | deadMachine
  deriving DecidableEq, Repr

/-- Why the model gives no meaning. -/
inductive Refusal where
  /-- An instruction that has no meaning yet (raised by `exec`; safe: nothing can be proved of it). -/
  | notModelled (mnemonic : String)
  deriving DecidableEq, Repr

/-- The machine right after reset: every field at the value INVENTORY.md lists. -/
def State.reset : State := {}

end Sys2Proof.Machine
end

