-- ==== Sys2Proof/Machine/Ops.lean ====
section
/-! DEFINITION. The named operations over the state: threads, cores and clusters, memory and its
address map (R103, R104, R248), translation (R403), the checks of an access (R103), and taking an
exception and returning from one (R114 to R117). -/

namespace Sys2Proof.Machine

/-- The kinds of pending faults, in the order of their delivery (R398). -/
inductive Pend where
  | vec | mau | remote | reduce
  deriving DecidableEq, Repr

/-- What ends an instruction early: a fault, a reason why it does not issue, or the delivery of a fault that
was pending. -/
inductive Stop where
  | trap (f : Flt)
  | block (w : Why)
  | pending (k : Pend) (f : Flt)
  deriving DecidableEq, Repr

/-- The steps of one instruction: the state, and an early end. -/
abbrev Sem := EStateM Stop State

/-- Raises a fault of the running instruction. -/
def trap {α : Type} (cause : Nat) (info : Word) : Sem α := throw (.trap ⟨cause, info⟩)

/-- The instruction does not issue now; it is tried again at the thread's next turn. -/
def block {α : Type} (w : Why) : Sem α := throw (.block w)

/-! ### Cause codes (R397) -/

def cILLEGAL : Nat := 0x01
def cPRIV : Nat := 0x03
def cMISALIGN : Nat := 0x04
def cFETCH : Nat := 0x05
def cLOAD : Nat := 0x06
def cSTORE : Nat := 0x07
def cPROT : Nat := 0x08
def cBARWORD : Nat := 0x09
def cBAROVER : Nat := 0x0A
def cSLOTLATE : Nat := 0x0B
def cLRANGE : Nat := 0x0C
def cLBAD : Nat := 0x0D
def cDCYCLE : Nat := 0x0E
def cDDEPTH : Nat := 0x0F
def cDWRITE : Nat := 0x10
def cSPREAD : Nat := 0x11
def cFBAD : Nat := 0x12
def cCLASS : Nat := 0x13
def cRSTALL : Nat := 0x14
def cQSTALL : Nat := 0x15
def cSTREAM : Nat := 0x16
def cMAU : Nat := 0x17
def cMCHECK : Nat := 0x18
def cTRAP : Nat := 0x19
def cBKPT : Nat := 0x1A

/-! ### Parts of the state -/

namespace State

variable (s : State)

def thread (t : Nat) : Thread := smGet {} s.threads t
def setThread (t : Nat) (x : Thread) : State := { s with threads := smSet {} s.threads t x }
def modThread (t : Nat) (f : Thread → Thread) : State := s.setThread t (f (s.thread t))
def core (c : Nat) : Core := smGet {} s.cores c
def setCore (c : Nat) (x : Core) : State := { s with cores := smSet {} s.cores c x }
def modCore (c : Nat) (f : Core → Core) : State := s.setCore c (f (s.core c))
def cluster (c : Nat) : Cluster := smGet {} s.clusters c
def setCluster (c : Nat) (x : Cluster) : State := { s with clusters := smSet {} s.clusters c x }
def modCluster (c : Nat) (f : Cluster → Cluster) : State := s.setCluster c (f (s.cluster c))
def part (p : Nat) : Part := smGet {} s.parts p
def setPart (p : Nat) (x : Part) : State := { s with parts := smSet {} s.parts p x }
def modPart (p : Nat) (f : Part → Part) : State := s.setPart p (f (s.part p))
def channel (c : Nat) : Channel := smGet {} s.channels c
def setChannel (c : Nat) (x : Channel) : State := { s with channels := smSet {} s.channels c x }

/-- The running thread. -/
def th : Thread := s.thread s.cur
def modTh (f : Thread → Thread) : State := s.modThread s.cur f
/-- The running thread's core (R113, CID). -/
def cid : Nat := s.cur / 4
/-- The running thread's cluster (R113, KID). -/
def kid : Nat := s.cur / 32
def myCore : Core := s.core s.cid
def myCluster : Cluster := s.cluster s.kid
def myPart : Part := s.part s.th.part
def modMyCore (f : Core → Core) : State := s.modCore s.cid f
def modMyCluster (f : Cluster → Cluster) : State := s.modCluster s.kid f

/-- Adds a step of another agent, due `d` clk from now; steps due together keep their order. -/
def post (d : Nat) (i : Instr) (e : Ev) : State :=
  { s with agenda := insert (s.clk + d) s.agenda }
where
  insert (due : Nat) : List (Nat × Instr × Ev) → List (Nat × Instr × Ev)
    | [] => [(due, i, e)]
    | x :: xs => if x.1 ≤ due then x :: insert due xs else (due, i, e) :: x :: xs

/-- A step that follows at once, before anything else that is due. -/
def postNow (i : Instr) (e : Ev) : State := { s with agenda := (s.clk, i, e) :: s.agenda }

/-- EINFO of a fault that names the base parcel of the running instruction (R56). -/
def baseInfo : Word := BitVec.ofNat 64 (s.base + s.npre * 65536)
/-- The address after the running instruction. -/
def nextPc : Word := s.pc + BitVec.ofNat 64 (2 * (s.npre + 1))
/-- A free value and the counter moved on (log 5). -/
def free : Word × State := (Config.freeValue s.seed, { s with seed := s.seed + 1 })

end State

/-- ILLEGAL_OP at execution, naming the base parcel (R56). -/
def illegalOp {α : Type} : Sem α := do
  let s ← get
  trap cILLEGAL s.baseInfo

/-- PRIV, naming the base parcel (R115). -/
def priv {α : Type} : Sem α := do
  let s ← get
  trap cPRIV s.baseInfo

/-- PRIV below a level. -/
def needLevel (l : Level) : Sem Unit := do
  let s ← get
  if s.th.level.toNat < l.toNat then priv else pure ()

/-! ### Bytes -/

/-- `n` bytes at `a`, little-endian (R3). -/
def readB (m : List Host.Cell) (a : Nat) : Nat → Nat
  | 0 => 0
  | n + 1 => (smGet 0 m a).toNat + 256 * readB m (a + 1) n

/-- Writes the low `n` bytes of `v` at `a`, little-endian. -/
def writeB (m : List Host.Cell) (a : Nat) : Nat → Nat → List Host.Cell
  | 0, _ => m
  | n + 1, v => writeB (smSet 0 m a (BitVec.ofNat 8 v)) (a + 1) n (v / 256)

/-- The low `n` bytes of a number as cells from `a`. -/
def cellsOf (a : Nat) : Nat → Nat → List Host.Cell
  | 0, _ => []
  | n + 1, v => (a, BitVec.ofNat 8 v) :: cellsOf (a + 1) n (v / 256)

/-- Writes cells in order. -/
def writeCells (m : List Host.Cell) : List Host.Cell → List Host.Cell
  | [] => m
  | (a, b) :: cs => writeCells (smSet 0 m a b) cs

/-- A chip-memory doubleword by physical address. -/
def State.pread (s : State) (pa n : Nat) : Nat := readB s.mem pa n

/-! ### Scratchpad banks (R14, R245) -/

/-- A repaired row reaches its spare: recorded rows in order onto the good spares in order (R18). -/
def Repair.row (r : Repair) (main row : Nat) (spares : List Nat) : Nat :=
  if r.applied && decide (row < main) then
    let good := spares.filter (fun x => !(r.bad.contains x))
    match (r.rows.zip good).find? (fun p => p.1 == row) with
    | some p => p.2
    | none => row
  else row

/-- The spare rows of a bank and of a file (R14, R12). -/
def bankSpares : List Nat := [4096, 4097, 4098, 4099]
def fileSpares : List Nat := [128, 129, 130, 131, 132, 133, 134, 135]

/-- The key of byte `off` of a scratchpad in normal mode: bank (off >> 3) mod 128, row off >> 10. -/
def Cluster.key (k : Cluster) (off : Nat) : Nat :=
  let bank := off / 8 % 128
  let row := (smGet {} k.banks bank).row 4096 (off / 1024) bankSpares
  row * 1024 + bank * 8 + off % 8

/-- The key of a bank's row in direct mode. -/
def Cluster.rowKey (k : Cluster) (bank row : Nat) : Nat :=
  (smGet {} k.banks bank).row 4096 row bankSpares * 1024 + bank * 8

def Cluster.read (k : Cluster) (off : Nat) : Nat → Nat
  | 0 => 0
  | n + 1 => (smGet 0 k.spad (k.key off)).toNat + 256 * k.read (off + 1) n

def Cluster.write (k : Cluster) (off : Nat) : Nat → Nat → Cluster
  | 0, _ => k
  | n + 1, v =>
    Cluster.write { k with spad := smSet 0 k.spad (k.key off) (BitVec.ofNat 8 v) } (off + 1) n (v / 256)

/-- Sets or clears the full-empty bit of granule `g` (R107). -/
def Cluster.setFull (k : Cluster) (g : Nat) (b : Bool) : Cluster := { k with full := smSet false k.full g b }

/-- Offsets of the barrier window (R248). -/
def inBarWindow (off n : Nat) : Bool := decide (off + n > 0x3FC000 ∧ off < 0x400000)

/-- A write of a whole 4-byte word clears its poison (R418). -/
def State.clearSpad (s : State) (cl off n : Nat) : State :=
  if s.poison = [] then s
  else { s with poison := s.poison.filter (fun p => match p with
    | .spad c o => !(c == cl && decide (off ≤ o ∧ o + 4 ≤ off + n))
    | _ => true) }

def State.clearTcm (s : State) (cid off n : Nat) : State :=
  if s.poison = [] then s
  else { s with poison := s.poison.filter (fun p => match p with
    | .tcm c o => !(c == cid && decide (off ≤ o ∧ o + 4 ≤ off + n))
    | _ => true) }

/-- Writes `n` bytes of a cluster scratchpad, performed at the bank. -/
def State.spadWrite (s : State) (cl off n v : Nat) : State :=
  (s.modCluster cl (fun k => k.write off n v)).clearSpad cl off n

/-- The doubleword of a bank row in direct mode is written, with fresh check bits (R14, R418). -/
def State.bankWrite (s : State) (cl key v : Nat) : State :=
  let s := s.modCluster cl (fun k => { k with spad := writeB k.spad key 8 v })
  if s.poison = [] then s
  else { s with poison := s.poison.filter (fun p => match p with
    | .spad c o => !(c == cl && decide (key ≤ (s.cluster cl).key o ∧ (s.cluster cl).key o < key + 8))
    | _ => true) }

/-- While the boundary moves, accesses to the unit concerned wait (R72). -/
def Core.unitMoving (c : Core) (off : Nat) : Bool :=
  match c.moving with
  | some m => decide (off / 0x10000 = min m c.tcmUnits)
  | none => false

/-- Writes `n` bytes of a core's TCM window. -/
def State.tcmWrite (s : State) (cid off n v : Nat) : State :=
  (s.modCore cid (fun c => { c with tcm := writeB c.tcm off n v })).clearTcm cid off n

/-- The first poisoned word among `n` bytes (R418). -/
def State.spadPoison (s : State) (cl off n : Nat) : Option Nat :=
  s.poison.findSome? (fun p => match p with
    | .spad c o => if c = cl ∧ o < off + n ∧ off < o + 4 then some (0x10000000 + cl * 0x400000 + o) else none
    | _ => none)

def State.tcmPoison (s : State) (cid off n : Nat) : Option Nat :=
  s.poison.findSome? (fun p => match p with
    | .tcm c o => if c = cid ∧ o < off + n ∧ off < o + 4 then some o else none
    | _ => none)

def State.chipPoison (s : State) (pa n : Nat) : Option Nat :=
  s.poison.findSome? (fun p => match p with
    | .chip a => if a < pa + n ∧ pa < a + 4 then some a else none
    | _ => none)

/-! ### The address map (R103, R248) -/

/-- Where an address lies. -/
inductive Region where
  | tcm (off : Nat)
  | own (off : Nat)
  | cluster (c off : Nat)
  | chip
  | bad
  deriving DecidableEq, Repr

def regionOf (ea : Word) : Region :=
  let a := ea.toNat
  if a < 0x200000 then .tcm a
  else if a < 0x1000000 then .bad
  else if a < 0x1400000 then .own (a - 0x1000000)
  else if a < 0x10000000 then .bad
  else if a < 0x30000000 then .cluster ((a - 0x10000000) / 0x400000) ((a - 0x10000000) % 0x400000)
  else if a < 0x100000000 then .bad
  else if a < 0x800000000000 ∨ a ≥ 0xFFFF800000000000 then .chip
  else .bad

/-- The kinds of access that translation tells apart (R403). -/
inductive Acc where
  | load | store | fetch
  deriving DecidableEq, Repr

def Acc.pageCause : Acc → Nat
  | .load => cLOAD
  | .store => cSTORE
  | .fetch => cFETCH

/-- A cluster whose scratchpad the partition may reach: allotted to it and serving it (R407). -/
def State.clusterOk (s : State) (p c : Nat) : Bool :=
  (s.part p).clmask.testBit c && (s.cluster c).part == p

/-! ### Translation (R403, R404) -/

/-- The control blocks of clusters (R246) and the partition blocks (R401). -/
def ctlBase : Nat := 0xF000000000
def partBase : Nat := 0xF800000000

/-- Physical control blocks and partition blocks, which only threads reach (R246, R401). -/
def isBlock (pa : Nat) : Bool :=
  decide (ctlBase ≤ pa ∧ pa < ctlBase + 128 * 0x10000) || decide (partBase ≤ pa ∧ pa < partBase + 256 * 0x1000)

/-- DEVSTAT.SRAMW (R431). -/
def State.sramw (s : State) : Nat := bitsN s.devstat.toNat 39 36

/-- Is a physical address in a shared SRAM way, and does the way exist (R378)? -/
def inSram (pa : Nat) : Bool := decide (0xE000000000 ≤ pa ∧ pa < 0xE000000000 + 256 * 0x400000)
def State.sramOk (s : State) (pa : Nat) : Bool := decide (pa % 0x400000 < s.sramw * 0x30000)

/-- Field of an entry: bits [47:16], a table or page base. -/
def entryPA (e : Nat) : Nat := bitsN e 47 16 * 65536

/-- An entry is bad when V = 0, a reserved bit is set or LEAF breaks its level's rule (R403). -/
def entryBad (level e : Nat) : Bool :=
  !(e.testBit 0) || bitsN e 63 48 != 0 || bitsN e 15 6 != 0
  || (level == 1 && e.testBit 1) || (level == 3 && !(e.testBit 1))
  || (level == 2 && e.testBit 1 && bitsN e 24 16 != 0)

/-- The walk: the leaf entry and whether it maps a 32 MiB page, and the addresses of the entries that it reads. -/
def State.walkAt (s : State) (p : Nat) (va : Nat) : Option (Nat × Bool) × List Nat :=
  let a1 := (s.part p).ptroot.toNat / 32768 * 32768 + 8 * bitsN va 47 36
  let e1 := s.pread a1 8
  if entryBad 1 e1 then (none, [a1])
  else
    let a2 := entryPA e1 + 8 * bitsN va 35 25
    let e2 := s.pread a2 8
    if entryBad 2 e2 then (none, [a1, a2])
    else if e2.testBit 1 then (some (e2, true), [a1, a2])
    else
      let a3 := entryPA e2 + 8 * bitsN va 24 16
      let e3 := s.pread a3 8
      (if entryBad 3 e3 then none else some (e3, false), [a1, a2, a3])

def State.walk (s : State) (p : Nat) (va : Nat) : Option (Nat × Bool) := (s.walkAt p va).1

/-- The first poisoned entry that a walk reads (R418). -/
def State.walkPoison (s : State) (p va : Nat) : Option Nat :=
  if s.poison = [] then none else (s.walkAt p va).2.findSome? (fun a => s.chipPoison a 8)

/-- Looks a page up in a TLB. -/
def tlbFind (tlb : List TlbEntry) (p va : Nat) : Option (Nat × Bool) :=
  match tlb.find? (fun t => t.part == p
      && t.vpn == (if t.big then bitsN va 47 25 else bitsN va 47 16)) with
  | some t => some (t.leaf.toNat, t.big)
  | none => none

def tlbEntryOf (p va leaf : Nat) (big : Bool) : TlbEntry :=
  ⟨p, if big then bitsN va 47 25 else bitsN va 47 16, big, BitVec.ofNat 64 leaf⟩

/-- The physical address a leaf gives. -/
def leafPA (leaf : Nat) (big : Bool) (va : Nat) : Nat :=
  if big then entryPA leaf + bitsN va 24 0 else entryPA leaf + bitsN va 15 0

/-- Permission and range checks on a leaf (R403); `none` where the access is allowed. No mapping opens a control
block (R246) or, DEDUCED from R401, a partition block to level U. An address that is neither LPDDR nor a shared SRAM way nor a
block does not exist (R2), and gives PROT (DESIGN CHOICE, log 98). -/
def State.leafCheck (s : State) (p : Nat) (lv : Level) (k : Acc) (leaf pa : Nat) : Option Nat :=
  let prm := match k with
    | .load => leaf.testBit 2
    | .store => leaf.testBit 3
    | .fetch => leaf.testBit 4
  if lv = .U && !(leaf.testBit 5) then some cPROT
  else if lv ≠ .F && !prm then some cPROT
  else if inSram pa && !(s.sramOk pa) then some cPROT
  else if ctlBase ≤ pa ∧ pa < ctlBase + 128 * 0x10000 then
    if lv ≠ .U && s.clusterOk p ((pa - ctlBase) / 0x10000) then none else some cPROT
  else if partBase ≤ pa ∧ pa < partBase + 256 * 0x1000 then
    if lv ≠ .U && decide ((pa - partBase) / 0x1000 = p) then none else some cPROT
  else if (s.part p).pamin.toNat ≤ pa ∧ pa < (s.part p).pamax.toNat ∧ (pa < Config.lpddrSize ∨ inSram pa = true) then none
  else some cPROT

/-- Translates for any party, reading the tables as performed: a physical address or a cause. -/
def State.xlate (s : State) (p : Nat) (lv : Level) (k : Acc) (ea : Word) : Except Nat Nat :=
  if (s.walkPoison p ea.toNat).isSome then .error cMCHECK
  else match s.walk p ea.toNat with
  | none => .error k.pageCause
  | some (leaf, big) =>
    let pa := leafPA leaf big ea.toNat
    match s.leafCheck p lv k leaf pa with
    | some c => .error c
    | none => .ok pa

/-! ### Derived storage (R379) -/

/-- Does the 256-byte line of a physical address belong to derived storage? -/
def State.isDerived (s : State) (pa : Nat) : Bool :=
  s.rules.any (fun r => r.segs.any (fun g => decide (g.pa / 256 ≤ pa / 256 ∧ pa / 256 < (g.pa + g.len + 255) / 256)))

/-- A derived line that must be recomputed before it is read (R380). -/
def State.isStale (s : State) (pa : Nat) : Bool :=
  s.isDerived pa && (!(s.current.contains (pa / 256)) || s.notices.any (fun n => n.line == pa / 256))

/-! ### Speculation (R314 to R316) -/

/-- The launch of a thread. -/
def State.launchOf (s : State) (t : Thread) : Option Launch :=
  if t.inLaunch then (s.part t.part).launches.find? (fun l => l.addr == t.launch) else none

/-- CTL.FLAGS of a copied header (R267). -/
def Launch.ctl (l : Launch) : Nat := (l.hdr.getD 7 0).toNat
def Launch.smode (l : Launch) : Nat := bitsN l.ctl 57 56
def Launch.ckind (l : Launch) : Nat := bitsN l.ctl 59 58
def Launch.spec (l : Launch) : Bool := l.ctl.testBit 60

/-- The stamp of its open segment is above its domain's minimum: it does not commit (R314). -/
def State.above (s : State) (t : Thread) : Bool :=
  match s.launchOf t with
  | some l => !t.between && decide (l.minimum < t.tstamp.toNat)
  | none => false

/-- Its open segment is speculative (R315); between two segments there is none (R312). -/
def State.speculative (s : State) (t : Thread) : Bool :=
  match s.launchOf t with
  | some l => l.spec && !t.between && decide (l.minimum < t.tstamp.toNat)
  | none => false

/-- A continuation of a launch with SPEC = 0 whose stamp exceeds the minimum issues nothing (R315). -/
def State.heldBack (s : State) (t : Thread) : Bool :=
  match s.launchOf t with
  | some l => !l.spec && decide (l.minimum < t.tstamp.toNat)
  | none => false

/-- Waits before an irrevocable action of a speculative segment (R315). -/
def irrevocable : Sem Unit := do
  let s ← get
  if s.speculative s.th then block .spec else pure ()

/-- A commit point: the segment's stamp is not above the domain minimum, every entry has been performed and the stale
notices of its writes are acknowledged; a new segment begins after the instruction (R312, R313, R314, R323, R385). -/
def commitPoint : Sem Unit := do
  let s ← get
  if s.above s.th then block .spec
  else if s.th.entries ≠ [] || s.th.redfOut ≠ 0 || s.notices.any (fun n => n.waiting == some s.cur) then
    block .commit
  else set (s.modTh (fun t => { t with segNew := true }))

/-- Bit of the read signature for a physical address: the XOR-fold of bits [47:8] to 12 bits (R315). -/
def sigBit (pa : Nat) : Nat :=
  let l := bitsN pa 47 8
  (bitsN l 11 0) ^^^ (bitsN l 23 12) ^^^ (bitsN l 35 24) ^^^ (bitsN l 39 36)

/-- Records a chip-memory load of a thread in a launch that speculates (R315). -/
def State.recordRead (s : State) (tid pa : Nat) : State :=
  let t := s.thread tid
  match s.launchOf t with
  | some l => if l.spec && !(t.sig.contains (sigBit pa)) then
      s.setThread tid { t with sig := sigBit pa :: t.sig } else s
  | none => s

/-- Where a write came from, for the exception of R316: the launch (partition and header) and stamp. -/
structure Writer where
  domain : Option (Nat × Word) := none
  stamp : Nat := 0
  tid : Option Nat := none
  deriving DecidableEq, Repr

/-- The writer that a thread's commit is. -/
def State.writerOf (s : State) (tid : Nat) : Writer :=
  let t := s.thread tid
  ⟨if t.inLaunch then some (t.part, t.launch) else none, t.tstamp.toNat, some tid⟩

/-- Whatever an instruction of the thread has under way ends: its wait, what an access has brought back, its arrival at
a channel, operands that it keeps (R114, R116). -/
def Thread.unwait (t : Thread) : Thread :=
  { t with wait := none, opDone := false, meshVal := none, suspVal := none, xarr := none, xsel := none }

/-- A waiting LDFE is withdrawn from its bank (R107). -/
def State.leaveBank (s : State) (tid : Nat) : State :=
  match (s.thread tid).wait with
  | some ⟨.granule cl _ _ _, _⟩ =>
    s.modCluster cl (fun k => { k with feWait := k.feWait.filter (fun x => x.2 != tid) })
  | _ => s

/-- One vector instruction, started or not. -/
def VuCmd.same (x y : VuCmd) : Bool := x == { y with running := x.running, started := x.started }

/-- The entries of a commit area are gone, and their errors with them (R419). -/
def State.clearArea (s : State) (tid : Nat) : State :=
  if s.poison = [] then s
  else { s with poison := s.poison.filter (fun p => match p with
    | .area t _ => t != tid
    | _ => true) }

/-- Sets a speculative thread back to its segment's start (R316). What it has under way outside the segment stays:
stores, remote operations, reductions and vector instructions sent before it, and the faults that they and its commands
have left pending. -/
def State.abort (s : State) (tid : Nat) : State :=
  match s.snaps.find? (fun x => x.1 == tid) with
  | some (_, old) =>
    let s := (s.leaveBank tid).clearArea tid
    let t := s.thread tid
    s.setThread tid { old.unwait with
      held := none, heldNested := false, sig := [], entries := [], fbuf := [], segNew := false, between := false,
      vuq := t.vuq.filter (fun x => old.vuq.any x.same),
      st := t.st, stopped := t.stopped, paused := t.paused, arrive := t.arrive, reserved := t.reserved,
      meshOut := t.meshOut, outOM := t.outOM, outAD := t.outAD, outRT := t.outRT, redfOut := t.redfOut,
      response := t.response, awaiting := t.awaiting, opNo := t.opNo, vx := t.vx, late := t.late,
      pendMau := t.pendMau, pendRemote := t.pendRemote, pendReduce := t.pendReduce }
  | none => s

/-- A write performed at a home slice aborts the speculative segments that read its line (R316). -/
def State.abortReaders (s : State) (w : Writer) (pa : Nat) : State :=
  s.threads.foldl (fun (acc : State) (x : Nat × Thread) =>
    let t := x.2
    let spared := w.domain == some (t.part, t.launch) && t.inLaunch && decide (t.tstamp.toNat ≤ w.stamp)
    if s.speculative t && t.sig.contains (sigBit pa) && !spared then acc.abort x.1 else acc) s

/-! ### Home slices (R376, R377) -/

/-- The home slice of a physical address: the XOR of the five bytes of its line address; a shared SRAM way
names its own slice (R377, R378). -/
def homeSlice (pa : Nat) : Nat :=
  if 0xE000000000 ≤ pa ∧ pa < 0xE000000000 + 256 * 0x400000 then (pa - 0xE000000000) / 0x400000
  else bitsN pa 15 8 ^^^ bitsN pa 23 16 ^^^ bitsN pa 31 24 ^^^ bitsN pa 39 32 ^^^ bitsN pa 47 40

/-- What LPDDR holds of the written bytes is kept until they are written back (R376). -/
def State.soil (s : State) (cs : List Host.Cell) : State :=
  { s with behind := cs.foldl (fun b c =>
      if inSram c.1 then b
      else match smGet none b c.1 with
        | some _ => b
        | none => smSet none b c.1 (some (smGet 0 s.mem c.1))) s.behind }

/-- The set of a line in its home slice, and the key of that set (R375). -/
def sliceSet (line : Nat) : Nat := line % 768
def sliceKey (line : Nat) : Nat := 768 * homeSlice (line * 256) + sliceSet line

/-- The die of a slice and its router there (R375). -/
def sliceDie (k : Nat) : Nat := k / 64
def sliceRouter (k : Nat) : Nat := k / 2 % 32

/-- The slice line of a 256-byte line, where its home slice holds it in a caching way. -/
def State.sliceLine (s : State) (line : Nat) : Option SliceLine :=
  (smGet [] s.slices (sliceKey line)).find? (fun x => x.line == line)

/-- A line leaves its home slice; its dirty words go to LPDDR first, but those of a derived line, which is stale then and of
which LPDDR keeps what it has held (R376, R380). -/
def State.sliceDrop (s : State) (line : Nat) : State :=
  { s with behind := if s.isDerived (line * 256) then s.behind else s.behind.filter (fun x => x.1 / 256 != line), current := s.current.filter (fun l => l != line),
           slices := smSet [] s.slices (sliceKey line)
             ((smGet [] s.slices (sliceKey line)).filter (fun x => x.line != line)) }

/-- A line comes into its home slice, or is used there: a full set loses its least recently used line that no recompute
has locked (R375; log 72). -/
def State.sliceUse (s : State) (line : Nat) (f : SliceLine → SliceLine) : State :=
  if inSram (line * 256) then s
  else
    let set (s : State) : List SliceLine := smGet [] s.slices (sliceKey line)
    let put (s : State) (x : SliceLine) : State :=
      { s with slices := smSet [] s.slices (sliceKey line) (f x :: (set s).filter (fun y => y.line != line)) }
    match s.sliceLine line with
    | some x => put s x
    | none =>
      if (set s).length < 16 - s.sramw then put s { line := line }
      else match (set s).reverse.find? (fun x => !(s.recomputing.any (fun r => r.1 == x.line))) with
        | some old => put (s.sliceDrop old.line) { line := line }
        | none => s

/-- A load of `n` bytes in one line fills the sectors that are not valid (R376). -/
def State.sliceLoad (s : State) (pa n : Nat) : State :=
  s.sliceUse (pa / 256) (fun x => { x with v := x.v ||| 2 ^ (pa / 64 % 4) ||| 2 ^ ((pa + n - 1) / 64 % 4) })

/-- A store sets D of the sectors and WM of the words that it writes, and fetches nothing (R376). -/
def State.sliceStore (s : State) (line : Nat) (cs : List Host.Cell) : State :=
  s.sliceUse line (fun x => cs.foldl (fun (x : SliceLine) c =>
    if c.1 / 256 = line then
      { x with d := x.d ||| 2 ^ (c.1 / 64 % 4), wm := x.wm ||| 2 ^ (c.1 / 4 % 64) }
    else x) x)

/-- A write-back of a line that stays: LPDDR holds its bytes, D and WM are clear; a derived line is not written
(R120, R376, R380). -/
def State.sliceClean (s : State) (line : Nat) : State :=
  if s.isDerived (line * 256) || inSram (line * 256) then s
  else { s with
    behind := s.behind.filter (fun x => x.1 / 256 != line),
    slices := smSet [] s.slices (sliceKey line) ((smGet [] s.slices (sliceKey line)).map (fun x =>
      if x.line = line then { x with d := 0, wm := 0 } else x)) }

/-- A whole line is loaded: every sector is valid (R110, R120). -/
def State.sliceFill (s : State) (line : Nat) : State := s.sliceUse line (fun x => { x with v := 15 })

/-- The loads of a walk at the home slices (R376, R403). -/
def State.walkLoads (s : State) (p va : Nat) : State := (s.walkAt p va).2.foldl (fun (s : State) a => s.sliceLoad a 8) s

def State.clearChip (s : State) (cs : List Host.Cell) : State :=
  if s.poison = [] then s
  else { s with poison := s.poison.filter (fun p => match p with
    | .chip a => !([0, 1, 2, 3].all (fun i => cs.any (fun c => c.1 == a + i)))
    | _ => true) }

/-- The 256-byte lines of some cells, each once. -/
def linesOf (cs : List Host.Cell) : List Nat := (cs.map (fun c => c.1 / 256)).eraseDups

/-- Bytes arrive at their home slices: they change, LPDDR lags behind, the lines are dirty there, poison clears (R376). -/
def State.chipPut (s : State) (cs : List Host.Cell) : State :=
  let s := (s.soil cs).clearChip cs
  (linesOf cs).foldl (fun (s : State) l => s.sliceStore l cs) { s with mem := writeCells s.mem cs }

/-- Bytes performed at their home slices: they arrive, the slice's performing order moves on, and speculative readers of
the lines abort (R309, R316). -/
def State.chipWrite (s : State) (w : Writer) (cs : List Host.Cell) : State :=
  (linesOf cs).foldl (fun (s : State) l =>
    let k := homeSlice (l * 256)
    { s with orders := smSet 0 s.orders k (smGet 0 s.orders k + 1) }.abortReaders w (l * 256)) (s.chipPut cs)

/-- The running thread's translation through the core and the cluster TLB (R119, R404). After a TLBINV of scope th or co an
entry of the cluster TLB, which is not in that scope, still refills the core's (DESIGN CHOICE, log 78). -/
def translate (k : Acc) (ea : Word) : Sem Nat := do
  let s ← get
  let p := s.th.part
  let va := ea.toNat
  let found := match tlbFind s.myCore.tlb p va with
    | some r => some (r, true)
    | none => match tlbFind s.myCluster.tlb p va with
      | some r => some (r, false)
      | none => (s.walk p va).map (fun r => (r, false))
  let known := (tlbFind s.myCore.tlb p va).isSome || (tlbFind s.myCluster.tlb p va).isSome
  match if known then none else s.walkPoison p va with
  | some a => trap cMCHECK (BitVec.ofNat 64 a)
  | none => pure ()
  if !known then set (s.walkLoads p va)
  let s ← get
  match found with
  | none => trap k.pageCause ea
  | some ((leaf, big), inCore) =>
    let e := tlbEntryOf p va leaf big
    if inCore then pure ()
    else
      set ((s.modMyCore (fun c => { c with tlb := e :: c.tlb })).modMyCluster
        (fun c => { c with tlb := if c.tlb.contains e then c.tlb else e :: c.tlb }))
    let pa := leafPA leaf big va
    match s.leafCheck p s.th.level k leaf pa with
    | some c => trap c ea
    | none => pure pa

/-! ### TCM and the L1 (R70, R104, R105) -/

/-- Adds a line at the front of the L1, most recent first; a full set loses its oldest unpinned line,
and a dirty overflow line goes to the backing window. -/
def Core.l1Evict (c : Core) (line : L1Line) : Core × Option L1Line :=
  let ways := 16 - c.tcmUnits
  let same := c.l1.filter (fun x => x.line % 1024 == line.line % 1024)
  if same.length < ways then ({ c with l1 := line :: c.l1 }, none)
  else match (same.filter (fun x => !x.pinned)).getLast? with
    | some v => ({ c with l1 := line :: c.l1.filter (fun x => x != v) }, some v)
    | none => (c, none)

/-- The physical line of an overflow offset: its place in the backing window (R70). -/
def overflowLine (cid off : Nat) : Nat := (Config.tcmBacking cid + off) / 64

/-- Poisoned words of a TCM line and of its place in the backing window stay poisoned as the line is written back, or filled
(R418). -/
def State.poisonAlong (s : State) (cid line : Nat) (out : Bool) : State :=
  if s.poison = [] then s
  else
    let off := line * 64 - Config.tcmBacking cid
    let here (n : Nat) (a : Nat) : Bool := decide (n ≤ a ∧ a < n + 64)
    let tcm := s.poison.filterMap (fun p => match p with
      | .tcm c o => if c = cid ∧ here off o then some (o - off) else none
      | _ => none)
    let chip := s.poison.filterMap (fun p => match p with
      | .chip a => if here (line * 64) a then some (a - line * 64) else none
      | _ => none)
    let rest := s.poison.filter (fun p => match p with
      | .tcm c o => out || !(c == cid && here off o)
      | .chip a => !(out && here (line * 64) a)
      | _ => true)
    { s with poison := rest ++ (if out then tcm.map (fun k => .chip (line * 64 + k)) else chip.map (fun k => .tcm cid (off + k))) }

/-- Copies 64 bytes between the TCM store and the backing window. A write-back is none of the writes of R316: it aborts
nothing (DEDUCED, log 89). -/
def State.writeBack (s : State) (cid line : Nat) : State :=
  let off := line * 64 - Config.tcmBacking cid
  let bad := s.poison
  ({ s.chipPut (cellsOf (line * 64) 64 (readB (s.core cid).tcm off 64)) with poison := bad }).poisonAlong cid line true

def State.fillLine (s : State) (cid line : Nat) : State :=
  let off := line * 64 - Config.tcmBacking cid
  ((s.sliceLoad (line * 64) 64).modCore cid (fun c =>
    { c with tcm := writeB c.tcm off 64 (readB s.mem (line * 64) 64) })).poisonAlong cid line false

/-- The shadow tag stacks see an access to a sampling set (R71). -/
def Core.sample (c : Core) (line : Nat) : Core :=
  if line % 64 = 0 then
    let set := line % 1024
    let st := smGet [] c.shadow set
    let d := st.idxOf line
    let hits := if d < 16 then smSet 0 c.depthHits d (smGet 0 c.depthHits d + 1) else c.depthHits
    { c with shadow := smSet [] c.shadow set ((line :: st.filter (fun x => x != line)).take 16),
             depthHits := hits, sampled := c.sampled + 1 }
  else c

/-- A line becomes present in a core's L1, most recent first. -/
def State.l1Install (s : State) (cid line : Nat) (isTcm dirty : Bool) : State :=
  let c := s.core cid
  match c.l1.find? (fun x => x.line == line && x.tcm == isTcm) with
  | some x =>
    let rest := c.l1.filter (fun y => !(y.line == line && y.tcm == isTcm))
    s.setCore cid { c with l1 := { x with dirty := x.dirty || dirty } :: rest }
  | none =>
    let (c', out) := c.l1Evict { line := line, tcm := isTcm, dirty := dirty }
    let s := s.setCore cid c'
    let s := match out with
      | some v => if v.dirty then s.writeBack cid v.line else s
      | none => s
    if isTcm then s.fillLine cid line else s.sliceLoad (line * 64) 64

/-- An access of core `cid` through its L1. -/
def State.l1Touch (s : State) (cid line : Nat) (isTcm dirty : Bool) : State :=
  (s.modCore cid (fun c => c.sample line)).l1Install cid line isTcm dirty

/-- Is a line in a core's L1? -/
def Core.hasLine (c : Core) (line : Nat) (isTcm : Bool) : Bool :=
  c.l1.any (fun x => x.line == line && x.tcm == isTcm)

/-- A TCM access reaches its local unit, or its overflow line through the L1. -/
def State.tcmTouch (s : State) (cid off : Nat) (dirty : Bool) : State :=
  if off < (s.core cid).tcmUnits * 0x10000 then s
  else s.l1Touch cid (overflowLine cid off) true dirty

/-- The lines that sets keep in `w` ways: pinned ones first, then the most recent others. -/
def keepWays (w : Nat) (l1 : List L1Line) : List L1Line :=
  l1.filter (fun x =>
    let same := l1.filter (fun y => y.line % 1024 == x.line % 1024)
    decide ((same.filter (fun y => y.pinned) ++ same.filter (fun y => !y.pinned)).idxOf x < w))

/-- The overflow lines of a TCM unit. -/
def unitLines (cid unit : Nat) : List Nat :=
  (List.range 1024).map (fun j => overflowLine cid (unit * 0x10000 + 64 * j))

/-- The boundary moves by one unit (R72): lines leave the way and the unit becoming local is filled, or the unit is
written to its backing window and opened as a way. -/
def State.boundaryTo (s : State) (cid m : Nat) : State :=
  let c := s.core cid
  if c.tcmUnits < m then
    let lines := unitLines cid c.tcmUnits
    let s := lines.foldl (fun (s : State) l =>
      if (s.core cid).hasLine l true then s else s.fillLine cid l) s
    let left := (s.core cid).l1.filter (fun x => x.pinned || !(x.tcm && lines.contains x.line))
    let kept := keepWays (16 - m) left
    let gone := left.filter (fun x => !(kept.contains x))
    let s := gone.foldl (fun (s : State) x => if x.dirty && x.tcm then s.writeBack cid x.line else s) s
    s.modCore cid (fun c => { c with l1 := kept, tcmUnits := m, moving := none, refused := false })
  else
    let s := (unitLines cid m).foldl (fun (s : State) l => s.writeBack cid l) s
    s.modCore cid (fun c => { c with tcmUnits := m, moving := none, refused := false })

/-- An access to the unit that moves, which has to wait: where it cannot, the move is over first (R72; DESIGN CHOICE,
log 99). -/
def State.unitSettle (s : State) (cid off : Nat) : State :=
  match (s.core cid).moving with
  | some m => if (s.core cid).unitMoving off then s.boundaryTo cid m else s
  | none => s

/-- A byte of the TCM window: a local unit or a present overflow line, else the backing window (R70). -/
def State.tcmByte (s : State) (cid off : Nat) : Byte :=
  let c := s.core cid
  if c.test || off < c.tcmUnits * 0x10000 || c.l1.any (fun x => x.tcm && x.line == overflowLine cid off) then
    smGet 0 c.tcm off
  else smGet 0 s.mem (Config.tcmBacking cid + off)

/-- `n` bytes of the TCM window. -/
def State.tcmRead (s : State) (cid off : Nat) : Nat → Nat
  | 0 => 0
  | n + 1 => (s.tcmByte cid off).toNat + 256 * s.tcmRead cid (off + 1) n

/-- A load of `n` bytes of the TCM window that lie in one line: an overflow line comes through the L1 (R70, R104). -/
def State.tcmLoad (s : State) (cid off n : Nat) : Nat × State :=
  let s := if (s.core cid).test then s else s.tcmTouch cid off false
  (s.tcmRead cid off n, s)

/-- A store of `n` bytes to the TCM window, where it lies in an overflow line through the L1, which it makes dirty. -/
def State.tcmStore (s : State) (cid off n v : Nat) : State :=
  ((s.unitSettle cid off).tcmTouch cid off true).tcmWrite cid off n v

/-- Adds work to the governor's window (R426). -/
def State.work (s : State) (n weight : Nat) : State := { s with demand := s.demand + n * weight }

/-! ### Events (R410) -/

/-- Writes an event of a partition; the service core also posts it to the host's queue (R415). -/
def State.event (s : State) (p kind cause : Nat) (addr info : Word) : State :=
  let q := s.part p
  let w0 := BitVec.ofNat 64 (kind * 2 ^ 56 + cause * 2 ^ 48 + s.devid)
  let k := q.evn % 64 * 4
  let evs := smSet 0 (smSet 0 (smSet 0 (smSet 0 q.events k w0) (k + 1) addr) (k + 2) info) (k + 3)
    (BitVec.ofNat 64 s.clk)
  let s := s.setPart p { q with events := evs, evn := q.evn + 1 }
  match q.evq with
  | some _ => { s with host := { s.host with
      eventsOut := s.host.eventsOut ++ [(p, [w0, addr, info, BitVec.ofNat 64 s.clk])] } }
  | none => s

/-! ### Frame and record writes (R66) -/

/-- The place of a frame or record byte run: a cause where the write cannot be performed (R66). -/
inductive FramePlace where
  | tcm (off : Nat)
  | spad (cl off : Nat)
  | chip (pa : Nat)
  deriving DecidableEq, Repr

/-- Where a frame access of a partition falls, checked at level S. -/
def State.framePlace (s : State) (p cid : Nat) (k : Acc) (a : Word) : Except Nat FramePlace :=
  match regionOf a with
  | .tcm off => if off + 8 ≤ (s.core cid).tcmMax * 0x10000 then .ok (.tcm off) else .error cPROT
  | .own off => if k = .store && inBarWindow off 8 then .error cBARWORD else .ok (.spad (cid / 8) off)
  | .cluster c off =>
    if !(s.clusterOk p c) then .error cPROT
    else if k = .store && inBarWindow off 8 then .error cBARWORD else .ok (.spad c off)
  | .chip => match s.xlate p .S k a with
    | .error c => .error c
    | .ok pa => if k = .store && s.isDerived pa then .error cDWRITE else .ok (.chip pa)
  | .bad => .error cPROT

/-- Writes an aligned doubleword of a frame or record, through the L1; a chip line is written at its home slice (R66). -/
def State.frameWrite (s : State) (p cid : Nat) (a : Word) (v : Word) : Except Nat State :=
  match s.framePlace p cid .store a with
  | .error c => .error c
  | .ok (.tcm off) => .ok (s.tcmStore cid off 8 v.toNat)
  | .ok (.spad cl off) => .ok (s.spadWrite cl off 8 v.toNat)
  | .ok (.chip pa) => .ok ((s.modCore cid (fun c => c.sample (pa / 64))).chipWrite {} (cellsOf pa 8 v.toNat))

/-- A read of a frame or record is a load through the L1 (R66, R70). -/
def State.frameTouch (s : State) (p cid : Nat) (a : Word) : State :=
  match s.framePlace p cid .load a with
  | .ok (.tcm off) => (s.unitSettle cid off).tcmTouch cid off false
  | .ok (.chip pa) => s.l1Touch cid (pa / 64) false false
  | _ => s

/-- The first poisoned word that a frame read meets (R418). -/
def State.framePoison (s : State) (p cid : Nat) (a : Word) : Option Nat :=
  if s.poison = [] then none
  else match s.framePlace p cid .load a with
    | .ok (.tcm off) => s.tcmPoison cid off 8
    | .ok (.spad cl off) => s.spadPoison cl off 8
    | .ok (.chip pa) => s.chipPoison pa 8
    | .error _ => none

/-- Reads an aligned doubleword of a frame or record at level S; 0 where it cannot be read. -/
def State.frameRead (s : State) (p cid : Nat) (a : Word) : Word :=
  match regionOf a with
  | .tcm off => BitVec.ofNat 64 (s.tcmRead cid off 8)
  | .own off => BitVec.ofNat 64 ((s.cluster (cid / 8)).read off 8)
  | .cluster c off => BitVec.ofNat 64 ((s.cluster c).read off 8)
  | .chip => match s.xlate p .S .load a with
    | .ok pa => BitVec.ofNat 64 (s.pread pa 8)
    | .error _ => 0
  | .bad => 0

/-! ### Taking an exception (R114 to R117) -/

/-- ECAUSE as a fault writes it: HACT 1, PLV, CAUSE. -/
def ecauseOf (l : Level) (cause : Nat) : Word := BitVec.ofNat 64 (0x8000 + l.toNat * 256 + cause % 256)

/-- The FAULT word (R115). -/
def faultWord (nested : Bool) (f : Flt) : Word :=
  BitVec.ofNat 64 (b2n nested * 2 ^ 63 + f.info.toNat % 2 ^ 55 * 256 + f.cause % 256)

def hact (t : Thread) : Bool := t.ecause.toNat.testBit 15

/-- The minimum tree of a thread's domain follows a change (R314). -/
def State.minChanged (s : State) (tid : Nat) : State :=
  let t := s.thread tid
  if t.inLaunch then s.post 0 .domainMinimumUpdate { part := t.part, v := t.launch } else s

/-- The continuation is faulted and never runs again: ST 7, an event of kind 1 (R116, R314, R410). -/
def State.markFaulted (s : State) (tid : Nat) (f : Flt) : State :=
  let s := s.leaveBank tid
  let t := s.thread tid
  let st := s.frameRead t.part (tid / 4) (t.record + 0x28)
  let s := match s.frameWrite t.part (tid / 4) (t.record + 0x28) (putBits st 63 61 7) with
    | .ok s' => s'
    | .error _ => s
  let s := s.modThread tid (fun t => { t.unwait with stopped := true, st := 7, held := none, heldNested := false })
  let s := s.modPart t.part (fun p => { p with launches := p.launches.map (fun l =>
    if l.addr == t.launch && t.inLaunch then { l with faulted := l.faulted + 1 } else l) })
  (s.minChanged tid).event t.part 1 f.cause t.record f.info

/-- At a fault what is left in q0 to q3 is discarded (R68). -/
def Thread.emptied (t : Thread) : Thread := { t with q0 := [], q1 := [], q2 := [], q3 := [], capture := {} }

/-- A thread stops as at a nested fault: the FAULT word with NESTED = 1, and the continuation is faulted (R116). -/
def State.nestedFault (s : State) (tid : Nat) (f : Flt) : State :=
  let s := s.modThread tid Thread.emptied
  let t := s.thread tid
  let s := match s.frameWrite t.part (tid / 4) (t.record + 0x38) (faultWord true f) with
    | .ok s' => s'
    | .error _ => s
  s.markFaulted tid f

/-- A frame or record write of a thread in its slot cannot be performed: it stops as at a nested fault (R66, R116), held like
any fault while its segment is speculative, has entries or has vector instructions queued (R68, R116). -/
def State.frameFault (s : State) (tid : Nat) (f : Flt) : State :=
  let t := s.thread tid
  if s.speculative t || t.entries ≠ [] || t.vuq ≠ [] then
    let s := s.modThread tid (fun t => { t with held := some f, heldNested := true })
    if s.speculative t || t.entries = [] then s else s.post 0 .segmentCommitComplete { tid := tid }
  else s.nestedFault tid f

/-- The saved registers of a fault: EPC, ECAUSE, EINFO, ELOOP; LOOPST is cleared (R114). -/
def Thread.saveFault (t : Thread) (f : Flt) (pc : Word) : Thread :=
  { t with epc := pc, ecause := ecauseOf t.level f.cause, einfo := f.info, eloop := t.loopst,
           loopst := 0 }

/-- A cluster is withdrawn with its cores, and DEVSTAT.FCL counts it (R77, R431). -/
def State.withdrawCluster (s : State) (cl : Nat) : State :=
  if (s.cluster cl).withdrawn then s
  else
    let s := s.modCluster cl (fun k => { k with withdrawn := true })
    let s := (List.range 8).foldl (fun (s : State) j => s.modCore (8 * cl + j) (fun c => { c with withdrawn := true })) s
    { s with devstat := putBits s.devstat 47 40 (bitsN s.devstat.toNat 47 40 + 1) }

/-- ST and WAIT of the record of a continuation in its slot (R279, R281). -/
def State.putWait (s : State) (tid st kind : Nat) (obj : Word) : State :=
  let t := s.thread tid
  let s := s.modThread tid (fun t => { t with st := st })
  if t.level = .F then s
  else
    let old := s.frameRead t.part (tid / 4) (t.record + 0x28)
    match s.frameWrite t.part (tid / 4) (t.record + 0x28) (putBits old 63 61 st) with
    | .error c => s.frameFault tid ⟨c, t.record + 0x28⟩
    | .ok s => match s.frameWrite t.part (tid / 4) (t.record + 0x20)
          (BitVec.ofNat 64 (kind * 2 ^ 60 + obj.toNat % 2 ^ 48)) with
      | .error c => s.frameFault tid ⟨c, t.record + 0x20⟩
      | .ok s => s

/-- The handler of a fault is entered at S (R114); a wait in the slot ends with it (R281). -/
def State.enterHandler (s : State) (tid : Nat) (f : Flt) : State :=
  let s := s.leaveBank tid
  let t := s.thread tid
  let s := if t.st = 4 then (s.putWait tid 2 0 0).minChanged tid else s
  if (s.thread tid).stopped then s
  else
    let t := (s.thread tid).saveFault f t.pc
    s.setThread tid { t.emptied.unwait with
      erec := t.record, level := .S, pc := (s.part t.part).trapvec &&& ~~~1#64,
      held := none, segNew := true, fbuf := [] }

/-- Taking a fault of thread `tid` (R114, R116): in test mode the core stops (R11); at level F the
thread stops; with a handler active the fault is nested; otherwise the handler is entered at S. -/
def State.deliver (s : State) (tid : Nat) (f : Flt) : State :=
  let t := s.thread tid
  let c := s.core (tid / 4)
  if c.test then
    ((s.leaveBank tid).modThread tid (fun t => { t.unwait with stopped := true })).modCore (tid / 4) (fun c =>
      { c with testFault := true, status := putBits c.status 63 63 0 }) |>.withdrawCluster (tid / 32)
  else if t.level = .F then
    (s.leaveBank tid).setThread tid { (t.saveFault f t.pc).emptied.unwait with stopped := true, held := none }
  else if hact t then s.nestedFault tid f
  else
    match s.frameWrite t.part (tid / 4) (t.record + 0x38) (faultWord false f) with
    | .error c => s.nestedFault tid ⟨c, t.record + 0x38⟩
    | .ok s => s.enterHandler tid f

/-- Executions of a closed capture enter the VU queue as it has room (R239). -/
def Thread.feed (t : Thread) : Thread :=
  let c := t.capture
  let total := c.count * c.cmds.length
  if c.left ≠ 0 || c.cmds = [] then t
  else
    let n := min (32 - t.vuq.length) (total - c.next)
    let new := (List.range n).filterMap (fun j =>
      (c.cmds[(c.next + j) % c.cmds.length]?).map (fun x =>
        { x with shift := (c.next + j) / c.cmds.length * c.stagger, sel := c.mask }))
    { t with vuq := t.vuq ++ new, capture := if c.next + n = total then {} else { c with next := c.next + n } }

/-- A capture is closed with what it has captured (R239). -/
def Thread.closeCapture (t : Thread) : Thread := { t with capture := { t.capture with left := 0 } }.feed

/-- An XSEL that has waited raises a fault: its pops and its last-use marks are undone (R114). -/
def State.undoXsel (s : State) (tid : Nat) : State :=
  match (s.thread tid).xsel with
  | none => s
  | some x =>
    let back (k : Nat) : List Word := (x.pops.filter (fun p => p.1 == k)).map (fun p => p.2)
    let s := s.modThread tid (fun t => { t with
      xsel := none, q2 := back 58 ++ t.q2, q3 := back 59 ++ t.q3,
      sregs := x.freed.foldl (fun m r => smSet .dead m r.1 (.resident r.2)) t.sregs })
    s.modCore (tid / 4) (fun c => { c with
      q4 := back 60 ++ c.q4, q5 := back 61 ++ c.q5, q6 := back 62 ++ c.q6, q7 := back 63 ++ c.q7 })

/-- A fault of a thread: it is held while the segment is speculative, until the buffered entries are
committed and until the VU queue has drained; otherwise it is taken (R68, R116, R281). MACHINE_CHECK
discards the segment's entries, or aborts a speculative segment (R419). -/
def State.raise (s : State) (tid : Nat) (f : Flt) : State :=
  let s := (s.undoXsel tid).modThread tid (fun t => { t with lineFault := none }.closeCapture)
  let t := s.thread tid
  if f.cause = cMCHECK && s.speculative t then
    ((s.event t.part 2 f.cause t.record f.info).abort tid)
  else
  let s := if f.cause = cMCHECK then
      ((s.event t.part 2 f.cause t.record f.info).setThread tid { t with entries := [] })
    else s
  let t := s.thread tid
  if (s.core (tid / 4)).test then s.deliver tid f
  else if s.speculative t || t.vuq ≠ [] then s.setThread tid { t with held := some f }
  else if t.entries ≠ [] then
    (s.setThread tid { t with held := some f }).post 0 .segmentCommitComplete { tid := tid }
  else s.deliver tid f

/-- ERET's return (R117): LOOPST, the level and the pc come back, HACT is cleared; a LOOPST with ACTIVE = 0 is zero (R95).
The fetch buffer is refilled (R111). -/
def State.eretTo (s : State) (l : Level) : State :=
  s.modTh (fun t => { t with
    loopst := if t.eloop.toNat.testBit 63 then t.eloop else 0, fbuf := [], level := l, ecause := putBits t.ecause 15 15 0, pc := t.epc &&& ~~~1#64 })

/-! ### Checks of an access (R103) -/

/-- Where a checked access goes. -/
inductive Place where
  | tcm (off : Nat)
  | spad (cl off : Nat)
  | bank (key : Nat)
  | chip (pa : Nat)
  | ctl (cl off : Nat)
  | block (p off : Nat)
  deriving DecidableEq, Repr

/-- How an access is checked: its kind, its size, whether alignment is exempt, whether it is one of
the full-empty instructions, and whether it counts as a store for the barrier window. -/
structure AccKind where
  kind : Acc
  bytes : Nat
  aligned : Bool := true
  fe : Bool := false
  barStore : Bool := false
  deriving DecidableEq, Repr

def AccKind.load (n : Nat) : AccKind := { kind := .load, bytes := n }
def AccKind.store (n : Nat) : AccKind := { kind := .store, bytes := n, barStore := true }

/-- Step 2 of R103 for the running thread, and where the address lies. -/
def placeOf (k : AccKind) (ea : Word) : Sem Place := do
  let s ← get
  let c := s.myCore
  let prot : Sem Place := trap cPROT ea
  match regionOf ea with
  | .bad => prot
  | .tcm off =>
    if k.fe || decide (off ≥ (if c.test then 14 else c.tcmMax) * 0x10000) then prot else pure (.tcm off)
  | .own off =>
    if c.bankdir.toNat.testBit 31 then
      if k.bytes ≠ 8 || k.fe || !k.aligned || decide (off / 8 > 4099) then prot
      else pure (.bank (s.myCluster.rowKey (bitsN c.bankdir.toNat 6 0) (off / 8)))
    else pure (.spad s.kid off)
  | .cluster n off =>
    if c.test then prot
    else if s.clusterOk s.th.part n then pure (.spad n off) else prot
  | .chip =>
    if c.test || k.fe then prot
    else
      let pa ← translate k.kind ea
      if ctlBase ≤ pa ∧ pa < ctlBase + 128 * 0x10000 then
        if k.bytes = 8 && k.aligned then pure (.ctl ((pa - ctlBase) / 0x10000) ((pa - ctlBase) % 0x10000))
        else prot
      else if partBase ≤ pa ∧ pa < partBase + 256 * 0x1000 then
        if k.bytes = 8 && k.aligned then pure (.block ((pa - partBase) / 0x1000) ((pa - partBase) % 0x1000))
        else prot
      else pure (.chip pa)

/-- The checks of R103 in their order. -/
def check (k : AccKind) (ea : Word) : Sem Place := do
  if k.aligned && decide (ea.toNat % k.bytes ≠ 0) then trap cMISALIGN ea
  let p ← placeOf k ea
  let s ← get
  match p with
  | .spad _ off =>
    if (k.barStore || k.fe) && inBarWindow off k.bytes then trap cBARWORD ea else pure p
  | .chip pa =>
    if k.kind = .store && s.isDerived pa then trap cDWRITE ea else pure p
  | _ => pure p

/-! ### Loads and stores (R102, R104) -/

/-- Why a parcel cannot be fetched. -/
inductive NoFetch where
  /-- No place that a fetch reaches, or no permission (R111). -/
  | page
  /-- An uncorrectable error at a physical address (R420). -/
  | check (pa : Nat)
  /-- A stale derived line has to be recomputed first (R380). -/
  | stale (line : Nat)
  /-- The TCM unit moves (R72). -/
  | moving
  deriving DecidableEq, Repr

/-- The 16 bytes of a fetch block at virtual address `a`, the offset of the parcel asked for, and the state after the
fetch (R10, R111): local TCM directly, TCM overflow and chip memory through the L1, the own scratchpad. -/
def State.fetchBlock (s : State) (tid : Nat) (a : Word) (o : Nat) : Except NoFetch (Nat × State) :=
  let t := s.thread tid
  let cid := tid / 4
  let c := s.core cid
  let poisoned (p : Option Nat) (r : Nat × State) : Except NoFetch (Nat × State) := match p with
    | some x => .error (.check x)
    | none => .ok r
  match regionOf a with
  | .tcm off =>
    if c.unitMoving off then .error .moving
    else if off + o + 1 < (if c.test then 14 else c.tcmMax) * 0x10000 then
      let s' := if c.test then s else s.tcmTouch cid off false
      poisoned (s.tcmPoison cid (off + o) 2) (s'.tcmRead cid off 16, s')
    else .error .page
  | .own off =>
    if inBarWindow off 16 || c.bankdir.toNat.testBit 31 then .error .page
    else poisoned (s.spadPoison (tid / 32) (off + o) 2) ((s.cluster (tid / 32)).read off 16, s)
  | .chip =>
    if c.test then .error .page
    else
      let known := match tlbFind c.tlb t.part a.toNat with
        | some r => some r
        | none => tlbFind (s.cluster (tid / 32)).tlb t.part a.toNat
      let s := if known.isSome then s else s.walkLoads t.part a.toNat
      match known.isSome, s.walkPoison t.part a.toNat, known <|> s.walk t.part a.toNat with
      | false, some x, _ => .error (.check x)
      | _, _, none => .error .page
      | _, _, some (leaf, big) =>
        let pa := leafPA leaf big a.toNat
        if (s.leafCheck t.part t.level .fetch leaf pa).isSome || isBlock pa then .error .page
        else if s.isStale pa then .error (.stale (pa / 256))
        else poisoned (s.chipPoison (pa + o) 2) (s.pread pa 16, s.l1Touch cid (pa / 64) false false)
  | _ => .error .page

/-- Is a fetch block free of poisoned words, so that it may stay in a fetch buffer (R418)? -/
def State.blockClean (s : State) (tid : Nat) (a : Word) : Bool :=
  s.poison = [] || (match regionOf a with
    | .tcm off => (s.tcmPoison (tid / 4) off 16).isNone
    | .own off => (s.spadPoison (tid / 32) off 16).isNone
    | .chip => match s.walk (s.thread tid).part a.toNat with
      | some (leaf, big) => (s.chipPoison (leafPA leaf big a.toNat) 16).isNone
      | none => false
    | _ => false)

/-- One instruction parcel: from the thread's fetch buffer, else from its block, which enters the buffer. The buffer
keeps five blocks, enough for a loop body of 32 parcels (R93), and a jump empties it (R111; log 73). -/
def State.fetchParcel (s : State) (tid : Nat) (a : Word) : Except NoFetch (Nat × State) :=
  let b := a &&& ~~~15#64
  let o := a.toNat % 16
  let pick (v : Nat) : Nat := v / 2 ^ (8 * o) % 65536
  match (s.thread tid).fbuf.find? (fun x => x.1 == b) with
  | some x => .ok (pick x.2, s)
  | none => match s.fetchBlock tid b o with
    | .error e => .error e
    | .ok (v, s') => .ok (pick v, if s'.blockClean tid b then
        s'.modThread tid (fun t => { t with fbuf := ((b, v) :: t.fbuf).take 5 }) else s')

/-- A new segment of a thread: an empty read signature, and in a launch that speculates the state that
a re-run starts from (R312, R316). -/
def State.newSegment (s : State) (tid : Nat) : State :=
  let s := (s.clearArea tid).modThread tid (fun t => { t with segNew := false, between := false, sig := [] })
  let t := s.thread tid
  match s.launchOf t with
  | some l => if l.spec then { s with snaps := smSet {} s.snaps tid t } else s
  | none => s

/-- The doubleword at an offset of a cluster control block (R246). -/
def State.ctlRead (s : State) (cl off : Nat) : Word :=
  let k := s.cluster cl
  if off < 0x80 then smGet 0 k.wfmt (off / 8)
  else if off = 0x100 then BitVec.ofNat 64 k.copyq.length
  else if off = 0x108 then BitVec.ofNat 64 k.cbtid
  else 0

/-- WFMT's writable fields: SCALE [15:8], BS [3], FMT [2:0] (R175). -/
def State.ctlWrite (s : State) (cl off : Nat) (v : Word) : State :=
  if off < 0x80 then s.modCluster cl (fun k => { k with
    wfmt := smSet 0 k.wfmt (off / 8) (v &&& (if off / 8 = 15 then 0xFF07 else 0xFF0F)) })
  else s

/-- The writable fields of a partition block at level S (R401): TRAPVEC and PTROOT; ENDL and DIGEST have steps
of their own. -/
def State.blockWrite (s : State) (p off : Nat) (v : Word) : State :=
  match off with
  | 0x000 => s.modPart p (fun q => { q with trapvec := v &&& ~~~1#64 })
  | 0x008 => s.modPart p (fun q => { q with ptroot := v })
  | 0x060 => s.post 0 .endlWrite { part := p, v := v }
  | _ => if 0x200 ≤ off ∧ off < 0x280 then s.post 0 .digestRequestWrite { part := p, n := (off - 0x200) / 8, v := v }
         else s

/-- The doubleword at an offset of a partition block (R401). -/
def State.blockRead (s : State) (p off : Nat) : Word :=
  let q := s.part p
  match off with
  | 0x000 => q.trapvec
  | 0x008 => q.ptroot
  | 0x010 => q.wbmask
  | 0x018 => q.pbmask
  | 0x020 => q.rlmask
  | 0x028 => BitVec.ofNat 64 (bitsN q.stmask 63 0)
  | 0x030 => BitVec.ofNat 64 (bitsN q.stmask 127 64)
  | 0x038 => BitVec.ofNat 64 (bitsN q.stmask 191 128)
  | 0x040 => BitVec.ofNat 64 (bitsN q.stmask 255 192)
  | 0x048 => q.faba
  | 0x050 => q.pamin
  | 0x058 => q.pamax
  | 0x060 => q.endl
  | 0x068 => BitVec.ofNat 64 (bitsN q.clmask 63 0)
  | 0x070 => BitVec.ofNat 64 (bitsN q.clmask 127 64)
  | 0x100 => BitVec.ofNat 64 q.racen
  | 0x108 => BitVec.ofNat 64 q.fabn
  | 0x110 => BitVec.ofNat 64 q.evn
  | _ =>
    if 0x200 ≤ off ∧ off < 0x280 then smGet 0 q.digest ((off - 0x200) / 8)
    else if 0x800 ≤ off ∧ off < 0x1000 then smGet 0 q.events ((off - 0x800) / 8)
    else 0

end Sys2Proof.Machine
end

