-- ==== Sys2Proof/Machine/Operands.lean ====
section
/-! DEFINITION. Operand forms: scalar and float registers, queue ports (R67), last-use marks (R25,
R26), and how an instruction ends: the next address, the loop's back-edge (R94), a jump, a fault, a
wait. -/

namespace Sys2Proof.Machine

/-- The value of a register as a read finds it: a dead register reads zero (R61). No read finds a register that
waits for a response (R348). -/
def RegSt.value : RegSt → Word
  | .resident v => v
  | .owed _ v => v
  | _ => 0

def Thread.getS (t : Thread) (n : Nat) : Word := (smGet .dead t.sregs n).value
def Thread.setS (t : Thread) (n : Nat) (v : Word) : Thread :=
  { t with sregs := smSet .dead t.sregs n (.resident v) }
def Thread.getF (t : Thread) (n : Nat) : Word := (smGet .dead t.fregs n).value
def Thread.setF (t : Thread) (n : Nat) (v : Word) : Thread :=
  { t with fregs := smSet .dead t.fregs n (.resident v) }

/-- The last entry of q2 or q3 was pushed in this clk: it can be popped in the next one (R227). -/
def State.pushedNow (s : State) (n : Nat) (rest : List Word) : Bool := rest == [] && s.th.pushAt == some (n, s.clk)

/-- Pops a queue port: the entry and the state after it; `none` when the port has none to give. -/
def State.popPort (s : State) (n : Nat) : Option (Word × State) :=
  match n with
  | 56 => match s.th.q0 with
    | x :: xs => some (x, s.modTh (fun t => { t with q0 := xs }))
    | [] => none
  | 57 => match s.th.q1 with
    | x :: xs => some (x, s.modTh (fun t => { t with q1 := xs }))
    | [] => none
  | 58 => match s.th.q2 with
    | x :: xs => if s.pushedNow 58 xs then none else some (x, s.modTh (fun t => { t with q2 := xs }))
    | [] => none
  | 59 => match s.th.q3 with
    | x :: xs => if s.pushedNow 59 xs then none else some (x, s.modTh (fun t => { t with q3 := xs }))
    | [] => none
  | 60 => match s.myCore.q4 with
    | x :: xs => some (x, s.modMyCore (fun c => { c with q4 := xs }))
    | [] => none
  | 61 => match s.myCore.q5 with
    | x :: xs => some (x, s.modMyCore (fun c => { c with q5 := xs }))
    | [] => none
  | 62 => match s.myCore.q6 with
    | x :: xs => some (x, s.modMyCore (fun c => { c with q6 := xs }))
    | [] => none
  | _ => match s.myCore.q7 with
    | x :: xs => some (x, s.modMyCore (fun c => { c with q7 := xs }))
    | [] => none

/-- Pushes on a queue port: 16 entries deep for q0 to q3, 8 for q4 to q7 (R67); `none` when full. -/
def State.pushPort (s : State) (n : Nat) (v : Word) : Option State :=
  match n with
  | 56 => if s.th.q0.length < 16 then some (s.modTh (fun t => { t with q0 := t.q0 ++ [v] })) else none
  | 57 => if s.th.q1.length < 16 then some (s.modTh (fun t => { t with q1 := t.q1 ++ [v] })) else none
  | 58 => if s.th.q2.length < 16 then some (s.modTh (fun t => { t with q2 := t.q2 ++ [v] })) else none
  | 59 => if s.th.q3.length < 16 then some (s.modTh (fun t => { t with q3 := t.q3 ++ [v] })) else none
  | 60 => if s.myCore.q4.length < 8 then some (s.modMyCore (fun c => { c with q4 := c.q4 ++ [v] })) else none
  | 61 => if s.myCore.q5.length < 8 then some (s.modMyCore (fun c => { c with q5 := c.q5 ++ [v] })) else none
  | 62 => if s.myCore.q6.length < 8 then some (s.modMyCore (fun c => { c with q6 := c.q6 ++ [v] })) else none
  | _ => if s.myCore.q7.length < 8 then some (s.modMyCore (fun c => { c with q7 := c.q7 ++ [v] })) else none

/-- Reads s register `r`. s0 reads zero; a read of a port pops it; q0 and q1 belong to the VU, so a
scalar read of them is illegal (R67); a pop of q2 or q3 delivers a pending vector fault (R241); in test mode
only s0 to s15 can be named (R11). -/
def readS (r : Reg) : Sem Word := do
  let s ← get
  let n := r.toNat
  if s.myCore.test && decide (16 ≤ n) then illegalOp
  else if n = 0 then pure 0
  else if n < 56 then pure (s.th.getS n)
  else if n < 58 then illegalOp
  else if n < 60 && s.th.pendVec.isSome then
    match s.th.pendVec with
    | some (f, _) => throw (.pending .vec f)
    | none => pure 0
  else match s.popPort n with
    | some (v, s') => do
      set s'
      pure v
    | none => block (.port n)

/-- Writes s register `r`: s0 discards; a write of a port pushes; q2 and q3 belong to the VU (R67). -/
def writeS (r : Reg) (v : Word) : Sem Unit := do
  let s ← get
  let n := r.toNat
  if s.myCore.test && decide (16 ≤ n) then illegalOp
  else if n = 0 then pure ()
  else if n < 56 then set (s.modTh (fun t => t.setS n v))
  else if n = 58 ∨ n = 59 then illegalOp
  else match s.pushPort n v with
    | some s' => set s'
    | none => block (.port n)

/-- The destination of an instruction that may wait for something else: what a write of it would raise or wait for comes
first (R11, R67). -/
def destFree (m : Sem Unit) : Sem Unit := do
  let s ← get
  m
  set s

/-- A last-use mark frees an s register after the read; it has no effect on s0, on a port and in test
mode (R11, R25, R26). -/
def killS (r : Reg) (u : Bool) : Sem Unit := do
  let s ← get
  if u && decide (0 < r.toNat ∧ r.toNat < 56) && !s.myCore.test then
    set (s.modTh (fun t => { t with sregs := smSet .dead t.sregs r.toNat .dead }))

/-- An instruction that names a register of another file than s is illegal in test mode (R11). -/
def noTest : Sem Unit := do
  let s ← get
  if s.myCore.test then illegalOp

def readF (r : Reg) : Sem Word := do
  noTest
  let s ← get
  pure (s.th.getF r.toNat)

def writeF (r : Reg) (v : Word) : Sem Unit := do
  noTest
  let s ← get
  set (s.modTh (fun t => t.setF r.toNat v))

def killF (r : Reg) (u : Bool) : Sem Unit := do
  let s ← get
  if u then set (s.modTh (fun t => { t with fregs := smSet .dead t.fregs r.toNat .dead }))

end Sys2Proof.Machine

namespace Sys2Proof

open Machine

/-! ### Source operands: all are read, then the marked ones are freed -/

def Src1.read (o : Src1) : Sem Word := do
  let a ← readS o.a
  killS o.a o.ua
  pure a

def Src2.read (o : Src2) : Sem (Word × Word) := do
  let a ← readS o.a
  let b ← readS o.b
  killS o.a o.ua
  killS o.b o.ub
  pure (a, b)

def Src3.read (o : Src3) : Sem (Word × Word × Word) := do
  let a ← readS o.a
  let b ← readS o.b
  let c ← readS o.c
  killS o.a o.ua
  killS o.b o.ub
  killS o.c o.uc
  pure (a, b, c)

def Un.read (o : Un) : Sem Word := Src1.read ⟨o.a, o.ua⟩
def Un.readF (o : Un) : Sem Word := do
  let a ← Machine.readF o.a
  killF o.a o.ua
  pure a

def Bin.read (o : Bin) : Sem (Word × Word) := Src2.read ⟨o.a, o.b, o.ua, o.ub⟩
def Bin.readF (o : Bin) : Sem (Word × Word) := do
  let a ← Machine.readF o.a
  let b ← Machine.readF o.b
  killF o.a o.ua
  killF o.b o.ub
  pure (a, b)

def Imm.read (o : Imm) : Sem Word := Src1.read ⟨o.a, o.ua⟩

/-- Base plus offset of a load (R102). -/
def Mem.loadEa (o : Mem) : Sem Word := do
  let b ← Src1.read ⟨o.base, o.ub⟩
  pure (b + o.off)

/-- The data of an s-register store, then base plus offset (R67: operand A pops first). -/
def Mem.storeEa (o : Mem) : Sem (Word × Word) := do
  let (v, b) ← Src2.read ⟨o.d, o.base, o.ud, o.ub⟩
  pure (v, b + o.off)

/-- The data of an f-register store, then base plus offset. -/
def Mem.storeEaF (o : Mem) : Sem (Word × Word) := do
  let v ← Machine.readF o.d
  let b ← readS o.base
  killF o.d o.ud
  killS o.base o.ub
  pure (v, b + o.off)

def Line.ea (o : Line) : Sem Word := do
  let b ← Src1.read ⟨o.base, o.ub⟩
  pure (b + o.off)

/-- Base plus offset and t of a form whose d is a destination. -/
def MemT.loadEa (o : MemT) : Sem (Word × Word) := do
  let (b, t) ← Src2.read ⟨o.base, o.t, o.ub, o.ut⟩
  pure (b + o.off, t)

/-- d, base plus offset and t of a form whose d is an s source. -/
def MemT.storeEa (o : MemT) : Sem (Word × Word × Word) := do
  let (v, b, t) ← Src3.read ⟨o.d, o.base, o.t, o.ud, o.ub, o.ut⟩
  pure (v, b + o.off, t)

/-- `n` consecutive f registers from d, then base plus offset and t; the mark of d frees d. -/
def MemT.storeEaF (o : MemT) (n : Nat) : Sem (List Word × Word × Word) := do
  noTest
  let s ← get
  let vs := (List.range n).map (fun k => s.th.getF (o.d.toNat + k))
  let b ← readS o.base
  let t ← readS o.t
  killF o.d o.ud
  killS o.base o.ub
  killS o.t o.ut
  pure (vs, b + o.off, t)

end Sys2Proof

namespace Sys2Proof.Machine

/-! ### The end of an instruction -/

/-- LOOPST's fields (R95). -/
def loopActive (w : Word) : Bool := w.toNat.testBit 63
def loopReg (w : Word) : Nat := bitsN w.toNat 62 57
def loopLen (w : Word) : Nat := bitsN w.toNat 56 48
def loopEnd (w : Word) : Word := sextW w.toNat 48
def loopStart (w : Word) : Word := loopEnd w - BitVec.ofNat 64 (2 * loopLen w)
def loopWord (reg len : Nat) (lend : Word) : Word :=
  BitVec.ofNat 64 (2 ^ 63 + reg % 64 * 2 ^ 57 + len % 512 * 2 ^ 48 + lend.toNat % 2 ^ 48)

/-- Does an address lie in the body LSTART to LEND - 2? -/
def inBody (w pc : Word) : Bool :=
  loopActive w && decide ((pc - loopStart w).toNat < 2 * loopLen w)

/-- An instruction that straddles the end of an active body, and a control transfer or LOOP, TRAP or
ERET in its last position, are illegal (R54, R96). -/
def loopGuard (transfer : Bool) : Sem Unit := do
  let s ← get
  let w := s.th.loopst
  if inBody w s.pc then
    let room := (loopEnd w - s.pc).toNat
    let len := 2 * (s.npre + 1)
    if len > room || (transfer && len == room) then illegalOp

/-- The thread goes on at `pc`; its wait is over. -/
def Thread.goto (t : Thread) (pc : Word) : Thread := { t with pc := pc, wait := none, opDone := false }

/-- The next address, with the back-edge of an active loop (R94). -/
def Thread.advance (t : Thread) (pc next : Word) : Thread :=
  let w := t.loopst
  if inBody w pc && next == loopEnd w then
    let n := loopReg w
    if (t.getS n).toNat ≤ 1 then { t.setS n 0 with loopst := 0, pc := next, wait := none, opDone := false }
    else (t.setS n (t.getS n - 1)).goto (loopStart w)
  else t.goto next

/-- The instruction is complete. The back-edge of a body of more than 32 parcels refills the fetch buffer, and the
thread is no candidate for the next 2 clk (R93). -/
def State.complete (s : State) : State :=
  let s' := s.modTh (fun t => t.advance s.pc s.nextPc)
  if inBody s.th.loopst s.pc && s.nextPc == loopEnd s.th.loopst && decide (32 < loopLen s.th.loopst) then
    (s'.modTh (fun t => { t with paused := true, fbuf := [] })).post 3 .pauseExpiry { tid := s.cur }
  else s'

def advance : Sem Unit := modify State.complete

/-- A taken branch or jump: the thread is no candidate for the next 2 clk (R93), and its fetch buffer is refilled
(R111). -/
def State.taken (s : State) (pc : Word) : State :=
  (s.modTh (fun t => { t.goto pc with paused := true, fbuf := [] })).post 3 .pauseExpiry { tid := s.cur }

/-- A pending fault is delivered: it is pending no longer. A vector fault leaves the address of its
instruction in VCTL.VFPC (R241). -/
def State.clearPending (s : State) (k : Pend) : State :=
  s.modTh (fun t => match k with
    | .vec => match t.pendVec with
      | some (_, pc) => { t with pendVec := none, vctl := putBits t.vctl 63 16 pc.toNat }
      | none => t
    | .mau => { t with pendMau := none }
    | .remote => { t with pendRemote := none }
    | .reduce => { t with pendReduce := none })

/-- Column and row of a cluster's router on the package's mesh, and the mesh hops between two (R437). -/
def meshCol (cl : Nat) : Nat := 8 * (cl / 32) + cl % 8
def meshRow (cl : Nat) : Nat := cl / 8 % 4
def natDist (a b : Nat) : Nat := if a < b then b - a else a - b
def meshHops (a b : Nat) : Nat := natDist (meshCol a) (meshCol b) + natDist (meshRow a) (meshRow b)

/-- The figure of R106 for a 64-byte line that misses the L1 of a core, with no contention. -/
def State.missClk (s : State) (cid line : Nat) : Nat :=
  let k := homeSlice (line * 64)
  24 + 2 * (meshHops (cid / 8) (32 * sliceDie k + sliceRouter k) + 1) + 8 * natDist (cid / 256) (sliceDie k) +
    (if inSram (line * 64) || (s.sliceLine (line / 4)).isSome then 0 else 110)

/-- Recomputes that hold an engine of a slice (R375). -/
def State.enginesBusy (s : State) (k : Nat) : Nat :=
  (s.recomputing.filter (fun r => homeSlice (r.1 * 256) == k)).length

/-- RECOMPUTE_START: the line is locked and one of its home slice's four engines works on it, or it waits for one
(R375, R387). -/
def State.startRecompute (s : State) (line : Nat) : State :=
  if s.recomputing.any (fun r => r.1 == line) || s.recWait.contains line then s
  else if 4 ≤ s.enginesBusy (homeSlice (line * 256)) then { s with recWait := s.recWait ++ [line] }
  else
    let s := s.sliceUse line (fun x => x)
    { s with recomputing := s.recomputing ++ [(line, 0, false)] }.post 16 .recomputeComplete { pa := line }

/-- A recompute is over: its engine takes the line of its slice that has waited longest. -/
def State.endRecompute (s : State) (line : Nat) : State :=
  let s := { s with recomputing := s.recomputing.filter (fun r => r.1 != line) }
  match s.recWait.find? (fun l => homeSlice (l * 256) == homeSlice (line * 256)) with
  | some l => { s with recWait := s.recWait.erase l }.startRecompute l
  | none => s

/-- The TLBs and walkers in scope of a core (R119, R308): core c is c, cluster k is 1024 + k, the walkers are
1152. Scopes: 0 th, 1 co, 2 cl, 3 gr, 4 ch, 5 sy; a group is eight clusters. -/
def tlbsIn (cid scope : Nat) : List Nat :=
  let cl (k : Nat) : List Nat := (1024 + k) :: (List.range 8).map (fun j => 8 * k + j)
  match scope with
  | 0 => [cid]
  | 1 => [cid]
  | 2 => cl (cid / 8)
  | 3 => (List.range 8).flatMap (fun j => cl (cid / 64 * 8 + j))
  | _ => 1152 :: (List.range 128).flatMap cl

/-- The thread waits in its slot at a suspension point: ST 4. Its segment has ended, and a new one begins when the wait
is over (R281, R312). -/
def State.armHeld (s : State) (kind : Nat) (obj : Word) : State :=
  let s := (s.modTh (fun t => { t with between := true, sig := [] })).putWait s.cur 4 kind obj
  (s.minChanged s.cur).post 4096 .barrierWaitSpill { tid := s.cur, core := s.cid, since := s.clk }

/-- What a wait sets going: the timed end of waits (R67, R107, R118, R251), a commit (R313), a line's
return (R106), an invalidation (R119), a line operation (R109, R120). -/
def State.arm (s : State) (w : Why) : State :=
  let e : Ev := { tid := s.cur, core := s.cid, since := s.clk }
  match w with
  | .port _ | .drain => s.post (2 ^ 24) .queueStallTimeout e
  | .granule cl g _ _ => (s.post 4096 .ldfeSuspendTimeout { e with cl := cl, off := g }).modCluster cl
      (fun k => { k with feWait := k.feWait ++ [(g, s.cur)] })
  | .channel ch => s.armHeld 1 (BitVec.ofNat 64 ch)
  | .phaseEntry ch => s.armHeld 5 (BitVec.ofNat 64 ch)
  | .word _ _ ea => s.armHeld 2 ea
  | .pod b => s.armHeld 1 (BitVec.ofNat 64 (0x100 + b))
  | .wfi => s.post 65536 .wfiTimeout e
  | .commit => s.post 0 .segmentCommitComplete { tid := s.cur }
  | .mesh cl off n => s.post (20 + 2 * meshHops s.kid cl) .scratchpadAccessArrival { e with cl := cl, off := off, n := n }
  | .miss line tcm => s.post (s.missClk s.cid line) .l1MissReturn { e with pa := line, ok := tcm }
  | .stale line => s.startRecompute line
  | .tlb kind scope va =>
    let ids := tlbsIn s.cid scope
    ids.foldl (fun (s : State) k => s.post 4 .tlbAcknowledgement
        { e with n := kind, id := k, v := va, part := s.th.part })
      (s.modTh (fun t => { t with acks := ids.length }))
  | .lineOp op scope line tcm =>
    s.post 4 .cacheLineOperationPerformed { e with n := op, idx := scope, pa := line, ok := tcm }
  | .capture => s.modTh Thread.closeCapture
  | .timed clk => s.post clk .pauseExpiry e
  | .entering _ w => s.arm w
  | _ => s

/-- The instruction does not issue: the thread waits at it. A wait that goes on keeps its start. -/
def State.park (s : State) (w : Why) : State :=
  match s.th.wait with
  | some x => if x.why = w then s
    else (s.modTh (fun t => { t with wait := some ⟨w, s.clk⟩ })).arm w
  | none => (s.modTh (fun t => { t with wait := some ⟨w, s.clk⟩ })).arm w

/-- Outcome of a Sem: completed; or a fault, of which nothing took effect (R114); or a wait. -/
def Sem.run (m : Sem Unit) (s : State) : Host.Outcome State Fault Refusal :=
  match m s with
  | .ok _ t => .next t
  | .error (.trap f) _ => .next (s.raise s.cur f)
  | .error (.pending k f) _ => .next ((s.clearPending k).raise s.cur f)
  | .error (.block w) _ => .next (s.park w)

/-- An instruction that goes on at the next address. -/
def plain (body : Sem Unit) (s : State) : Host.Outcome State Fault Refusal :=
  Sem.run (do loopGuard false; body; advance) s

/-- An instruction of a privileged level, which is tested before the faults of execution (R55, R56). -/
def privileged (l : Level) (body : Sem Unit) (s : State) : Host.Outcome State Fault Refusal :=
  Sem.run (do needLevel l; loopGuard false; body; advance) s

/-- A control transfer: the body says where the thread goes on. -/
def transfer (body : Sem Unit) (s : State) : Host.Outcome State Fault Refusal :=
  Sem.run (do loopGuard true; body) s

/-- A step of another agent: it changes the state and stops nothing. -/
def event (f : State → State) (s : State) : Host.Outcome State Fault Refusal := .next (f s)

end Sys2Proof.Machine
end

