-- ==== Sys2Proof/Machine/Flags.lean ====
section
/-! DEFINITION. Rounding, with every flag computation (R161 to R173, R176, R177), and where flags go: FCTL
and FLAGOR (R165 to R167). -/

namespace Sys2Proof.Machine

/-- IEEE flags: NV [4], DZ [3], OF [2], UF [1], NX [0] (R165). -/
abbrev Flags := BitVec 5

def fNX : Flags := 1
def fUF : Flags := 2
def fOF : Flags := 4
def fDZ : Flags := 8
def fNV : Flags := 16

def flagIf (b : Bool) (f : Flags) : Flags := if b then f else 0

/-- Rounds m / 2^k to an integer under a mode (R161); tells whether it is inexact. -/
def roundInt (mode : Nat) (neg : Bool) (m k : Nat) : Nat × Bool :=
  let f := m >>> k
  let r := m % 2 ^ k
  let up := match mode with
    | 0 => decide (2 * r > 2 ^ k) || (decide (2 * r = 2 ^ k) && f % 2 == 1)
    | 1 => false
    | 2 => neg && r != 0
    | 3 => !neg && r != 0
    | _ => decide (2 * r ≥ 2 ^ k) && r != 0
  (f + b2n up, r != 0)

/-- Rounds m × 2^e to a multiple of 2^q: the multiple and whether it is inexact. -/
def roundAt (mode : Nat) (neg : Bool) (m : Nat) (e q : Int) : Nat × Bool :=
  if q ≤ e then (m <<< (e - q).toNat, false) else roundInt mode neg m (q - e).toNat

/-- The code that an overflow gives (R162). -/
def overflowCode (p mode : Nat) (neg : Bool) : Nat :=
  let infinite := match mode with
    | 1 => false
    | 2 => neg
    | 3 => !neg
    | _ => true
  255 * 2 ^ (p - 1) - b2n (!infinite) + b2n neg * 2 ^ (p + 7)

/-- Rounds to FP32 (p = 24) or BF16 (p = 8), with OF, UF and NX (R162). -/
def roundIeee (p mode : Nat) : Val → Nat × Flags
  | .nan s => (255 * 2 ^ (p - 1) + 2 ^ (p - 2), flagIf s fNV)
  | .inf n => (255 * 2 ^ (p - 1) + b2n n * 2 ^ (p + 7), 0)
  | .fin n m e =>
    if m = 0 then (b2n n * 2 ^ (p + 7), 0)
    else
      let qn : Int := e + (bitLen m : Int) - (p : Int)
      let emin : Int := -126 - ((p : Int) - 1)
      let q := max qn emin
      let (c, nx) := roundAt mode n m e q
      let code := (q - emin).toNat * 2 ^ (p - 1) + c
      if code ≥ 255 * 2 ^ (p - 1) then (overflowCode p mode n, fOF ||| fNX)
      else
        let (c', _) := roundAt mode n m e qn
        let tiny := decide (qn + (bitLen c' : Int) - 1 < -126)
        (code + b2n n * 2 ^ (p + 7), flagIf nx fNX ||| flagIf (nx && tiny) fUF)

/-- The magnitude of a tapered body as a value. -/
def taperVal (nb es body : Nat) : Val :=
  let (m, e) := decodeTaper nb es body
  .fin false m e

/-- The largest body whose value is not above `a`, found bit by bit: the values rise with the body. -/
def taperFloor (nb es : Nat) (a : Val) : Nat → Nat → Nat
  | 0, b => b
  | n + 1, b =>
    let b' := b + 2 ^ n
    taperFloor nb es a n (if (taperVal nb es b').cmp a != .gt then b' else b)

/-- Conversion to T8 or T6 (R169). -/
def roundTaper (nb es : Nat) : Val → Nat × Flags
  | .nan s => (2 ^ nb, flagIf s fNV)
  | .inf _ => (2 ^ nb, fNV)
  | .fin n m e =>
    if m = 0 then (0, 0)
    else
      let a : Val := .fin false m e
      let sg := b2n n * 2 ^ nb
      let top := 2 ^ nb - 1
      match a.cmp (taperVal nb es top), a.cmp (taperVal nb es 1) with
      | .gt, _ => (sg + top, fOF ||| fNX)
      | .eq, _ => (sg + top, 0)
      | _, .lt => (sg + 1, fUF ||| fNX)
      | _, .eq => (sg + 1, 0)
      | _, _ =>
        let lo := taperFloor nb es a nb 0
        if (taperVal nb es lo).cmp a == .eq then (sg + lo, 0)
        else
          let mid := (sumVals 0 [(taperVal nb es lo, false), (taperVal nb es (lo + 1), false)]).1.scale (-1)
          let b := match a.cmp mid with
            | .lt => lo
            | .gt => lo + 1
            | .eq => if lo % 2 = 0 then lo else lo + 1
          (sg + b, fNX)

/-- The first code with the least key. -/
def argMin (key : Nat → Int) : Nat → Nat × Int
  | 0 => (0, key 0)
  | n + 1 =>
    let (b, k) := argMin key n
    if key (n + 1) < k then (n + 1, key (n + 1)) else (b, k)

/-- Conversion to I4 (R171). -/
def roundI4 (t : Tbl4) : Val → Nat × Flags
  | .nan _ => ((argMin (fun c => if t.entry c = 0 then 0 else 1) 15).1, fNV)
  | .inf n => ((argMin (fun c => if n then t.entry c else -(t.entry c)) 15).1, fNX)
  | .fin n m e =>
    let q := min e 0
    let x := Val.sint n m e q
    let (c, k) := argMin (fun c => ((Val.sint (decide (t.entry c < 0)) (t.entry c).natAbs 0 q - x).natAbs : Int)) 15
    (c, flagIf (k != 0) fNX)

/-- Conversion to INT32 (R173). -/
def roundI32 (mode : Nat) : Val → Nat × Flags
  | .nan _ => (0, fNV)
  | .inf n => (if n then 0x80000000 else 0x7FFFFFFF, fNV)
  | .fin n m e =>
    let (c, nx) := roundAt mode n m e 0
    if n then (if c > 2 ^ 31 then (0x80000000, fNV) else ((2 ^ 32 - c) % 2 ^ 32, flagIf nx fNX))
    else if c > 2 ^ 31 - 1 then (0x7FFFFFFF, fNV) else (c, flagIf nx fNX)

/-- round(x, fmt, mode) (R160). -/
def Fmt.round (f : Fmt) (t : Tbl4) (mode : Nat) (x : Val) : Nat × Flags :=
  match f with
  | .fp32 => roundIeee 24 mode x
  | .bf16 => roundIeee 8 mode x
  | .t8 => roundTaper 7 1 x
  | .t6 => roundTaper 5 0 x
  | .i4 => roundI4 t x
  | .int32 => roundI32 mode x

/-- A value with the invalid mark of its operation, rounded (R164). -/
def Fmt.roundInv (f : Fmt) (t : Tbl4) (mode : Nat) (x : Val × Bool) : Nat × Flags :=
  let r := f.round t mode x.1
  (r.1, r.2 ||| flagIf x.2 fNV)

/-- The conversions of R172, by format code. -/
def convOk (src dst : Nat) : Bool :=
  match src with
  | 0 => dst == 1 || dst == 3 || dst == 4 || dst == 5 || dst == 6
  | 1 => dst == 0 || dst == 3 || dst == 4 || dst == 5 || dst == 6
  | 2 => dst == 7
  | 3 => dst == 0 || dst == 1 || dst == 4 || dst == 5 || dst == 6
  | 4 => dst == 0 || dst == 1 || dst == 3 || dst == 5 || dst == 6
  | 5 => dst == 0 || dst == 1 || dst == 6
  | 6 => dst == 0 || dst == 1 || dst == 3 || dst == 4 || dst == 5
  | _ => dst == 2

/-- Does the conversion use the thread's rounding mode (R172, R173)? -/
def convRounds (src dst : Nat) : Bool :=
  match src, dst with
  | 0, 1 => true
  | _, 6 => true
  | 6, 0 => true
  | 6, 1 => true
  | 2, 7 => true
  | _, _ => false

/-- Converts one component from one format to another (R172): a code and flags. -/
def convComp (src dst : Fmt) (t : Tbl4) (mode c : Nat) : Nat × Flags := dst.round t mode (src.decode t c)

/-- Converts an element by format codes; complex elements component by component. -/
def convElem (src dst : Nat) (t : Tbl4) (mode c : Nat) : Nat × Flags :=
  if fmtCplx src then
    let w := (fmtComp src).bits
    let v := (fmtComp dst).bits
    let re := convComp (fmtComp src) (fmtComp dst) t mode (c % 2 ^ w)
    let im := convComp (fmtComp src) (fmtComp dst) t mode (c / 2 ^ w % 2 ^ w)
    (re.1 + im.1 * 2 ^ v, re.2 ||| im.2)
  else convComp (fmtComp src) (fmtComp dst) t mode c

/-! ### Complex and real elements as values -/

/-- An element of a format code as two components; a real element has an imaginary part of +0. -/
def decodeElem (fmt : Nat) (t : Tbl4) (c : Nat) : Val × Val :=
  let w := (fmtComp fmt).bits
  if fmtCplx fmt then ((fmtComp fmt).decode t (c % 2 ^ w), (fmtComp fmt).decode t (c / 2 ^ w % 2 ^ w))
  else ((fmtComp fmt).decode t (c % 2 ^ w), .fin false 0 0)

/-- Rounds two components into an element of a format code. -/
def roundElem (fmt : Nat) (t : Tbl4) (mode : Nat) (re im : Val × Bool) : Nat × Flags :=
  let w := (fmtComp fmt).bits
  let r := (fmtComp fmt).roundInv t mode re
  if fmtCplx fmt then
    let i := (fmtComp fmt).roundInv t mode im
    (r.1 + i.1 * 2 ^ w, r.2 ||| i.2)
  else r

/-- The largest finite magnitude of a format (R176). -/
def fmtMax (f : Fmt) (t : Tbl4) : Val :=
  match f with
  | .fp32 => decodeIeee 23 0x7F7FFFFF
  | .bf16 => decodeIeee 7 0x7F7F
  | .t8 => .fin false 4096 0
  | .t6 => .fin false 16 0
  | .int32 => .fin false (2 ^ 31 - 1) 0
  | .i4 => .fin false ((List.range 16).foldl (fun m c => max m (t.entry c).natAbs) 0) 0

/-- The block exponent of a whole block (R176): the least BE from -128 on at which every finite component
fits; 127 where none does, and then the encoding saturates; 0 for a block of zeros. It tells whether it fits. -/
def chooseBE (f : Fmt) (t : Tbl4) (scale : Int) (vs : List Val) : Int × Bool :=
  let big := vs.filter (fun v => match v with
    | .fin _ m _ => m != 0
    | _ => false)
  if big = [] then (0, true)
  else
    let fits (be : Int) : Bool :=
      big.all (fun v => (v.abs.scale (-(scale + be))).cmp (fmtMax f t) != .gt)
    match (List.range 256).find? (fun (k : Nat) => fits ((k : Int) - 128)) with
    | some k => ((k : Int) - 128, true)
    | none => (127, false)

/-- A value that is above the largest finite magnitude of FP32 or BF16 is held there; the other formats saturate by
their own rounding (R169, R171, R173, R176). -/
def saturate (f : Fmt) (t : Tbl4) (v : Val) : Val :=
  let big : Bool := match v with
    | .fin _ _ _ => v.abs.cmp (fmtMax f t) == .gt
    | _ => false
  match f with
  | .fp32 | .bf16 => if big then (if v.isNeg = true then (fmtMax f t).neg else fmtMax f t) else v
  | _ => v

/-! ### FX64 words (R177) -/

/-- The integer of a contribution under scale e, and SAT. -/
def fx64Of (e : Int) : Val → Int × Bool
  | .nan _ => (0, true)
  | .inf n => (if n then -(2 ^ 55 - 1) else 2 ^ 55 - 1, true)
  | .fin n m x =>
    let (c, _) := roundAt 0 n m (x - e) 0
    let lim : Nat := 2 ^ 55 - 1
    if c > lim then ((if n then -(lim : Int) else lim), true) else ((if n then -(c : Int) else c), false)

/-- The FP32 code of I × 2^e, rounded once, RNE. -/
def fx64ToFp32 (e i : Int) : Nat := (roundIeee 24 0 (.fin (decide (i < 0)) i.natAbs e)).1

/-! ### Where the flags of results go -/

/-- The I4 table of a core (R171). -/
def Core.tbl4 (c : Core) : Tbl4 := ⟨c.tbl4a, c.tbl4b⟩

/-- FCTL.RM (R165). -/
def Thread.rm (t : Thread) : Nat := bitsN t.fctl.toNat 7 5

/-- Flags raised in a clk set their bits of STICKY (R167). -/
def Cluster.stick (k : Cluster) (clk : Nat) (f : Flags) : Cluster :=
  { k with sticky := k.sticky ||| f, stickyAt := clk, stickyNow := if k.stickyAt = clk then k.stickyNow ||| f else f }

/-- A W1C write of STICKY; a bit set in the same clk stays set (R167). -/
def Cluster.unstick (k : Cluster) (clk : Nat) (f : Flags) : Cluster :=
  { k with sticky := (k.sticky &&& ~~~f) ||| (if k.stickyAt = clk then k.stickyNow else 0) }

/-- Flags raised by results of a thread: ORed into its FCTL and into its cluster's STICKY (R165, R167). -/
def State.raiseFlags (s : State) (tid : Nat) (f : Flags) : State :=
  if f = 0 then s
  else (s.modThread tid (fun t => { t with fctl := t.fctl ||| f.zeroExtend 64 })).modCluster (tid / 32)
    (fun k => k.stick s.clk f)

/-- Flags of a command that completes: they stand in the state that a re-run of a later segment starts from as well (R165,
R316), and those of a pre-empted continuation are gathered until it resumes (R209). -/
def State.raiseLate (s : State) (tid : Nat) (f : Flags) : State :=
  if f = 0 then s
  else if (s.thread tid).st = 6 then
    (s.modThread tid (fun t => { t with late := t.late ||| f })).modCluster (tid / 32) (fun k => k.stick s.clk f)
  else
    let s := s.raiseFlags tid f
    { s with snaps := s.snaps.map (fun x =>
        if x.1 = tid then (x.1, { x.2 with fctl := x.2.fctl ||| f.zeroExtend 64 }) else x) }

/-- The thread's rounding mode; 5 to 7 are illegal where the instruction rounds (R161). -/
def roundMode : Sem Nat := do
  let s ← get
  if s.th.rm ≥ 5 then illegalOp
  pure s.th.rm

/-- Raises flags of the running thread. -/
def flags (f : Flags) : Sem Unit := modify (fun s => s.raiseFlags s.cur f)

end Sys2Proof.Machine
end

