-- ==== Sys2Proof/Machine/Rename.lean ====
section
/-! DEFINITION. The physical register files and the register frames (R61 to R66): which registers an
instruction names, fills of framed values, spills of the least recently used ones, and the frame
writes of a suspension. -/

namespace Sys2Proof.Machine

/-- Entries a commit area holds in use (R313): one for each store, atomic, reduction and relabelling, one for
each frame sector that spills have written. -/
def entryCount (es : List Entry) : Nat :=
  (es.filter (fun e => match e with
    | .spill _ _ => false
    | _ => true)).length +
  (es.filterMap (fun e => match e with
    | .spill sec _ => some sec
    | _ => none)).eraseDups.length

/-- The s and f registers an instruction reads and writes. -/
structure Uses where
  rs : List Nat := []
  rf : List Nat := []
  ws : List Nat := []
  wf : List Nat := []
  deriving DecidableEq, Repr

/-- `n` register numbers from `d`. -/
def runFrom (d : Reg) (n : Nat) : List Nat := (List.range n).map (fun k => d.toNat + k)

/-- The registers of an instruction (R61 to R63). -/
def usesOf : Instr → Uses
  | .add o | .sub o | .and o | .or o | .xor o | .sll o | .srl o | .sra o | .slt o | .sltu o | .mul o
  | .mulh o | .min o | .max o | .mulhu o | .div o | .divu o | .rem o | .remu o | .minu o | .maxu o
  | .bext o | .bdep o | .mapx o | .unmapx o | .flmap o | .ticket o | .rseq o | .pshuf o =>
    { rs := [o.a.toNat, o.b.toNat], ws := [o.d.toNat] }
  | .pdot o => { rs := [o.a.toNat, o.b.toNat, o.d.toNat], ws := [o.d.toNat] }
  | .padd o _ | .psub o _ | .pmin o _ | .pmax o _ =>
    { rs := [o.a.toNat, o.b.toNat], ws := [o.d.toNat] }
  | .mov o | .clz o | .ctz o | .popc o | .brev o | .flstat o | .talloc o | .vcfg o | .wid o | .forq o
  | .dvstat o | .dvref o => { rs := [o.a.toNat], ws := [o.d.toNat] }
  | .sext o _ | .zext o _ => { rs := [o.a.toNat], ws := [o.d.toNat] }
  | .psat o _ => { rs := [o.a.toNat], ws := [o.d.toNat] }
  | .addi o | .andi o | .ori o | .xori o | .slli o | .srli o | .srai o | .slti o | .sltiu o | .muli o
  | .mini o | .maxi o | .cmpeqi o => { rs := [o.a.toNat], ws := [o.d.toNat] }
  | .li d _ | .addpc d _ | .sysr d _ | .erd d _ => { ws := [d.toNat] }
  | .fctlRead d | .copyLaunch d | .tsget d => { ws := [d.toNat] }
  | .twm d _ | .sstat d _ => { ws := [d.toNat] }
  | .barq d _ => { ws := [d.toNat] }
  | .beqz o _ | .bnez o _ | .bltz o _ | .bgez o _ | .sysw o _ | .ewr o _ => { rs := [o.a.toNat] }
  | .repdatWrite o | .prfdatWrite o | .vctlWrite o | .flagorWrite o | .xstatWrite o | .lotseedWrite o
  | .ecauseWrite o | .pinqWrite o | .trctlWrite o | .devidWrite o | .slewWrite o | .devstatWrite o
  | .reListWrite o | .reHdrWrite o | .reBufRegister o | .reFlush o | .launch o | .spawn o | .suspend o
  | .tsset o | .rngj o | .rpbar o | .rpwait o | .flfree o | .dvdrop o => { rs := [o.a.toNat] }
  | .tlbinv o _ _ | .cacheop o _ _ => { rs := [o.a.toNat] }
  | .beq o _ | .bne o _ | .blt o _ | .bge o _ | .bltu o _ | .bgeu o _ =>
    { rs := [o.a.toNat, o.b.toNat] }
  | .fldef o | .flperm o | .flswap o | .axcopy o | .bmask o | .smark o | .dvreg o =>
    { rs := [o.a.toNat, o.b.toNat] }
  | .flxch o | .msend o | .rtsend o => { rs := [o.a.toNat, o.b.toNat, o.c.toNat] }
  | .axsum o _ => { rs := [o.a.toNat, o.b.toNat, o.c.toNat] }
  | .axphase o _ => { rs := [o.a.toNat, o.b.toNat], rf := [o.c.toNat] }
  | .axscale o => { rs := [o.a.toNat, o.b.toNat], rf := [o.c.toNat] }
  | .axapply h _ l _ _ _ => { rs := [h.toNat, l.toNat] }
  | .mma _ o _ _ _ | .mmaz _ o _ _ _ => { rs := [o.a.toNat] }
  | .j _ | .nop | .pause | .eret | .wfi | .halt | .mwait | .waitm | .yield | .commit
  | .xphaseLeave => {}
  | .trap _ | .bkpt _ | .illegal _ => {}
  | .tclr _ | .barr _ | .barw _ | .xphaseEnter _ | .fence _ | .fencer _ => {}
  | .jal _ => { ws := [1] }
  | .jr o | .feset o | .feclr o | .clean o | .inval o | .flush o | .tbarr o => { rs := [o.base.toNat] }
  | .pref _ o => { rs := [o.base.toNat] }
  | .jalr o => { rs := [o.base.toNat], ws := [1] }
  | .loop a _ => { rs := [a.toNat], ws := [a.toNat] }
  | .lb o | .lbu o | .lh o | .lhu o | .lw o | .lwu o | .ld o | .pin o | .unpin o =>
    { rs := [o.base.toNat], ws := [o.d.toNat] }
  | .ldfe o _ => { rs := [o.base.toNat], ws := [o.d.toNat] }
  | .tbwait o => { rs := [o.base.toNat, o.d.toNat], ws := [o.d.toNat] }
  | .ldf o | .lwf o => { rs := [o.base.toNat], wf := [o.d.toNat] }
  | .ldx o => { rs := [o.base.toNat, o.t.toNat], wf := [o.d.toNat] }
  | .stx o => { rs := [o.base.toNat, o.t.toNat], rf := [o.d.toNat] }
  | .sb o | .sh o | .sw o | .sd o | .stfe o | .tbinit o | .tbexp o | .xsend o =>
    { rs := [o.d.toNat, o.base.toNat] }
  | .sdf o | .swf o => { rs := [o.base.toNat], rf := [o.d.toNat] }
  | .tldb o | .tst o => { rs := [o.base.toNat] }
  | .axld o _ _ => { rs := [o.base.toNat] }
  | .fadd o _ | .fsub o _ | .fmul o _ | .fdiv o _ | .fmin o _ | .fmax o _ =>
    { rf := [o.a.toNat, o.b.toNat], wf := [o.d.toNat] }
  | .fma o _ | .fms o _ | .fnma o _ => { rf := [o.a.toNat, o.b.toNat, o.d.toNat], wf := [o.d.toNat] }
  | .cmac o => { rf := [o.a.toNat, o.b.toNat, o.d.toNat], wf := [o.d.toNat] }
  | .fsqrt o _ | .fabs o _ | .fneg o _ | .frnd o _ => { rf := [o.a.toNat], wf := [o.d.toNat] }
  | .fcvt o _ _ => { rf := [o.a.toNat], wf := [o.d.toNat] }
  | .conj o | .cswap o => { rf := [o.a.toNat], wf := [o.d.toNat] }
  | .fmvfs o | .fcvti o => { rf := [o.a.toNat], ws := [o.d.toNat] }
  | .fclass o _ => { rf := [o.a.toNat], ws := [o.d.toNat] }
  | .fmvsf o | .fcvtf o => { rs := [o.a.toNat], wf := [o.d.toNat] }
  | .fcmp o _ _ => { rf := [o.a.toNat, o.b.toNat], ws := [o.d.toNat] }
  | .frng d _ => { wf := [d.toNat] }
  | .vadd _ | .vsub _ | .vmul _ | .vfma _ | .vmax _ | .vmin _ | .vdiv _ | .vsel _ | .vperm _ => {}
  | .vsf _ _ | .vcvt _ _ => {}
  | .vcmp _ _ | .vred _ _ | .vscan _ _ => {}
  | .vabs _ => {}
  | .vrand _ _ => {}
  | .vbcst o _ | .vmsk o _ => { rs := [o.a.toNat] }
  | .vld o | .vst o => { rs := [o.base.toNat] }
  | .vlds o | .vsts o => { rs := [o.base.toNat, o.t.toNat] }
  | .vldx o | .vstx o => { rs := [o.base.toNat] }
  | .scfg o => { rs := [o.a.toNat] }
  | .repv _ o _ _ => { rs := [o.a.toNat] }
  | .vext o _ => { rs := [o.b.toNat] }
  | .vins o _ _ => { rs := [o.a.toNat, o.b.toNat] }
  | .mrecv d t => { ws := d.toNat :: (match t with
    | some t => [t.toNat]
    | none => []) }
  | .xsel o => { rs := [o.d.toNat, o.base.toNat, o.t.toNat] }
  | .amo o _ _ => { rs := [o.base.toNat, o.t.toNat], ws := [o.d.toNat] }
  | .cas o _ => { rs := [o.base.toNat, o.t.toNat, o.d.toNat], ws := [o.d.toNat] }
  | .redf o _ => { rs := [o.base.toNat, o.t.toNat], rf := [o.d.toNat] }
  | .rwr o _ => { rs := [o.d.toNat, o.base.toNat, o.t.toNat] }
  | .rwrb o _ | .renq o _ => { rs := [o.base.toNat, o.t.toNat], rf := runFrom o.d 8 }
  | .rred o _ => { rs := [o.base.toNat, o.t.toNat], rf := runFrom o.d 4 }
  | .ramo o _ _ _ => { rs := [o.d.toNat, o.base.toNat, o.t.toNat], ws := [o.d.toNat] }
  | .rcas o _ _ => { rs := [o.d.toNat, o.d.toNat + 1, o.base.toNat, o.t.toNat], ws := [o.d.toNat] }
  | .powerUp | .marchTimeout | .readyClockRaise | .coreRestart | .carveInterval | .carveMoveDone
  | .registerFill | .queueStallTimeout | .vuPopStallTimeout | .vuInstructionStart
  | .vuInstructionComplete | .mauCommandStart | .tileRowFinal | .mauCommandComplete
  | .flxchCopyPhase | .flxchPartnerTimeout | .ldfeSuspendTimeout | .barrierArrivalCounted
  | .barrierRelease | .barrierWaitSpill | .mailboxDelivery | .mailboxPortDrain | .wfiTimeout
  | .pauseExpiry | .copyCommandStart | .copyCommandComplete | .unitCreate | .lotteryDraw
  | .gangStart | .domainMinimumUpdate | .preemptMessage | .resumeMessage | .launchComplete
  | .endlWrite | .digestRequestWrite | .digestComplete | .xsendTransmit | .xselCapture
  | .phaseForcedEnd | .segmentCommitComplete | .redfEntryArrival | .redfEntryRetry
  | .reduceStallTimeout | .remoteOpArrival | .remoteAckArrival | .remoteResponseArrival
  | .requestRecordArrival | .packetNakResend | .packetForward | .multicastForward
  | .linkFlitReceive | .linkModeSet | .routingTableInstall | .routingTableSwitch
  | .routingGenerationRetire | .routerPowerDown | .routerWake | .streamEntryWrite
  | .markerArrival | .reductionPacketArrival | .reduceLimitExpiry | .endpointReductionArrival
  | .endpointIncompleteTimeout | .closedRecordExpiry | .podDeviceArrival | .podRootComplete
  | .podRelease | .routeRecordSend | .tokenArrival | .flushSummary | .staleNoticeArrival
  | .staleNoticeAck | .recomputeComplete | .l1MissReturn | .memoryScrub | .governorWindow
  | .mauRampArm | .hostWrite | .hostRead | .hostLaunch | .hostSpawn | .hostMsg | .hostFence
  | .hostAttestation | .captureStream | .partitionCreate | .partitionSuspend | .partitionRestore
  | .partitionEnd | .clusterHandover | .registerWrite | .scratchpadAccessArrival
  | .tlbAcknowledgement | .cacheLineOperationPerformed | .eventQueueRegistration
  | .podBarrierConfiguration | .linkKeyReplacement => {}

/-- Only s1 to s55 and f0 to f63 are renamed (R61). -/
def Uses.renamed (u : Uses) : Uses :=
  let ok (n : Nat) : Bool := decide (0 < n ∧ n < 56)
  { u with rs := u.rs.filter ok, ws := u.ws.filter ok }

/-- Does a register state hold a physical entry? -/
def RegSt.isResident : RegSt → Bool
  | .resident _ => true
  | .owed _ _ => true
  | _ => false

/-- The architectural registers that hold physical entries in a thread, by number. -/
def Thread.residents (t : Thread) (isF : Bool) : List Nat :=
  (if isF then t.fregs else t.sregs).filterMap (fun x => if x.2.isResident then some x.1 else none)

/-- Those whose value is there, so that it can be spilled. -/
def Thread.spillable (t : Thread) (isF : Bool) : List Nat :=
  (if isF then t.fregs else t.sregs).filterMap (fun x => match x.2 with
    | .resident _ => some x.1
    | _ => none)

/-- Code of a register of a slot in a core's recency list. -/
def lruCode (slot n : Nat) (isF : Bool) : Nat := slot * 128 + b2n isF * 64 + n

/-- The addresses of a register's frame slot and of its live-bit word (R64). -/
def frameSlot (frame : Word) (n : Nat) (isF : Bool) : Word :=
  frame + BitVec.ofNat 64 (if isF then 0x200 + 8 * n else 8 * n)
def frameLive (frame : Word) (isF : Bool) : Word := frame + (if isF then 0x1D0 else 0)

/-- The latest byte that a thread's held spills give a place, else `b` (R65). -/
def heldByte (es : List Entry) (pa : Nat) (b : Byte) : Byte :=
  es.foldl (fun b e => match e with
    | .spill _ cs => match cs.find? (fun c => c.1 == pa) with
      | some c => c.2
      | none => b
    | _ => b) b

def readHeld (es : List Entry) (m : List Host.Cell) (pa : Nat) : Nat → Nat
  | 0 => 0
  | n + 1 => (heldByte es pa (smGet 0 m pa)).toNat + 256 * readHeld es m (pa + 1) n

/-- A place of a frame as the spills of a speculative segment name it: a TCM or scratchpad place stands above every
physical address (R65). -/
def FramePlace.code (cid : Nat) : FramePlace → Nat
  | .chip pa => pa
  | .tcm off => 2 ^ 64 + cid * 0x400000 + off
  | .spad cl off => 2 ^ 80 + cl * 0x400000 + off

def placeOfCode (c : Nat) : FramePlace :=
  if c < 2 ^ 64 then .chip c
  else if c < 2 ^ 80 then .tcm ((c - 2 ^ 64) % 0x400000)
  else .spad ((c - 2 ^ 80) / 0x400000) ((c - 2 ^ 80) % 0x400000)

/-- A frame byte as it stands. -/
def State.placeByte (s : State) (cid : Nat) : FramePlace → Nat → Byte
  | .chip pa, k => smGet 0 s.mem (pa + k)
  | .tcm off, k => s.tcmByte cid (off + k)
  | .spad cl off, k => smGet 0 (s.cluster cl).spad ((s.cluster cl).key (off + k))

/-- Reads a frame doubleword, seeing the spills that a speculative segment holds back (R65). -/
def State.frameSee (s : State) (tid : Nat) (a : Word) : Word :=
  let t := s.thread tid
  match s.framePlace t.part (tid / 4) .load a with
  | .ok p => BitVec.ofNat 64 ((List.range 8).foldr (fun k n =>
      (heldByte t.entries (p.code (tid / 4) + k) (s.placeByte (tid / 4) p k)).toNat + 256 * n) 0)
  | .error _ => 0

/-- Writes the bytes of a frame place, performed at once (R66). -/
def State.placeWrite (s : State) (cid : Nat) (cs : List Host.Cell) : FramePlace → State
  | .chip _ => s.chipWrite {} cs
  | .tcm off => cs.foldl (fun (s : State) c => s.tcmStore cid (off + (c.1 - (cs.headD (0, 0)).1)) 1 c.2.toNat) s
  | .spad cl off => cs.foldl (fun (s : State) c => s.spadWrite cl (off + (c.1 - (cs.headD (0, 0)).1)) 1 c.2.toNat) s

/-- The frame writes of a thread are held in its commit area: its segment is speculative, or spills are held there still
(R65, R66). -/
def State.holdsSpills (s : State) (t : Thread) : Bool :=
  s.speculative t || t.entries.any (fun e => match e with
    | .spill _ _ => true
    | _ => false)

/-- A frame write of a thread: performed, or held in the commit area (R65, R66). -/
def State.frameStore (s : State) (tid : Nat) (a v : Word) : Except Nat State :=
  let t := s.thread tid
  if s.holdsSpills t then
    match s.framePlace t.part (tid / 4) .store a with
    | .ok p =>
      let c := p.code (tid / 4)
      .ok (s.setThread tid { t with entries := t.entries ++ [.spill (c / 64) (cellsOf c 8 v.toNat)] })
    | .error c => .error c
  else s.frameWrite t.part (tid / 4) a v

/-- Is the entry of a register poisoned (R418)? -/
def State.regPoison (s : State) (tid n : Nat) (isF : Bool) : Bool := s.poison.contains (.reg tid n isF)

/-- EINFO of MACHINE_CHECK for a register (R420): SRC 1 and the physical entry. -/
def entryInfo (tid n : Nat) (isF : Bool) : Word :=
  BitVec.ofNat 64 (2 ^ 62 + (Config.entryOf tid (lruCode (tid % 4) n isF)).toNat * 2 ^ 48)

/-- The first poisoned register that an instruction reads, or poisoned port that it pops (R419). -/
def State.poisonedUse (s : State) (tid : Nat) (u : Uses) : Option (Nat × Bool) :=
  if s.poison = [] then none
  else
    let t := s.thread tid
    let ok (n : Nat) (isF : Bool) : Bool := s.regPoison tid n isF && (decide (!isF && 56 ≤ n) || (t.residents isF).contains n)
    match u.rs.find? (fun n => ok n false) with
    | some n => some (n, false)
    | none => (u.rf.find? (fun n => ok n true)).map (fun n => (n, true))

/-- Registers that an instruction has written hold good values again (R418). -/
def State.clearRegs (s : State) (tid : Nat) (u : Uses) : State :=
  if s.poison = [] then s
  else { s with poison := s.poison.filter (fun p => match p with
    | .reg t n isF => !(t == tid && (if isF then u.wf else u.ws).contains n)
    | _ => true) }

/-- A poisoned register leaves its entry for its frame slot at `a`: the error goes along (R418). -/
def State.poisonOut (s : State) (tid n : Nat) (isF : Bool) (a : Word) : State :=
  if !(s.regPoison tid n isF) then s
  else
    let t := s.thread tid
    let sites : List ScrubSite :=
      match t.entries.getLast?, s.framePlace t.part (tid / 4) .store a with
      | some (.spill _ _), _ => [.area tid (t.entries.length - 1)]
      | _, .ok (.chip pa) => [.chip pa, .chip (pa + 4)]
      | _, .ok (.tcm off) => [.tcm (tid / 4) off, .tcm (tid / 4) (off + 4)]
      | _, .ok (.spad cl off) => [.spad cl off, .spad cl (off + 4)]
      | _, .error _ => []
    { s with poison := sites ++ s.poison.erase (.reg tid n isF) }

/-- Spills one resident register: its slot, its live bit, and the register becomes framed (R62). A bad
frame address stops the thread that owns the value (R66). -/
def State.spillReg (s : State) (tid n : Nat) (isF : Bool) : State :=
  let t := s.thread tid
  let v := if isF then t.getF n else t.getS n
  let live := frameLive t.frame isF
  let frame (s : State) : State := s.modThread tid (fun t =>
    if isF then { t with fregs := smSet .dead t.fregs n .framed }
    else { t with sregs := smSet .dead t.sregs n .framed })
  match s.frameStore tid (frameSlot t.frame n isF) v with
  | .error c => (frame s).frameFault tid ⟨c, frameSlot t.frame n isF⟩
  | .ok s => let s := s.poisonOut tid n isF (frameSlot t.frame n isF)
    match s.frameStore tid live (s.frameSee tid live ||| BitVec.ofNat 64 (2 ^ n)) with
    | .error c => (frame s).frameFault tid ⟨c, live⟩
    | .ok s => frame s

/-- The number of physical entries in use in one file of a core. -/
def State.entriesUsed (s : State) (cid : Nat) (isF : Bool) : Nat :=
  (List.range 4).foldl (fun n k => n + ((s.thread (4 * cid + k)).residents isF).length) 0

/-- The values that give way so that `need` entries of a file are free: the least recently used ones that are not
named, as codes (R62). -/
def State.victims (s : State) (cid need : Nat) (isF : Bool) (keep : List Nat) : List Nat :=
  let ok (c : Nat) : Bool :=
    decide (c % 128 / 64 = b2n isF) && !(keep.contains c) &&
    ((s.thread (4 * cid + c / 128)).spillable isF).contains (c % 64)
  ((s.core cid).lru.filter ok).take (s.entriesUsed cid isF + need - 128)

/-- Spills the values of some codes. -/
def State.spillAllOf (s : State) (cid : Nat) (isF : Bool) (codes : List Nat) : State :=
  codes.foldl (fun (s : State) c =>
    if ((s.thread (4 * cid + c / 128)).spillable isF).contains (c % 64) then
      s.spillReg (4 * cid + c / 128) (c % 64) isF
    else s) s

/-- The first framed register an instruction reads (R63). -/
def Thread.firstFramed (t : Thread) (u : Uses) : Option (Nat × Bool) :=
  match u.rs.find? (fun n => smGet .dead t.sregs n == .framed) with
  | some n => some (n, false)
  | none => (u.rf.find? (fun n => smGet .dead t.fregs n == .framed)).map (fun n => (n, true))

/-- The first register an instruction reads whose RAMO or RCAS is not answered (R348). -/
def Thread.firstOwed (t : Thread) (u : Uses) : Option Nat :=
  u.rs.find? (fun n => match smGet .dead t.sregs n with
    | .owed _ _ => true
    | _ => false)

/-- Codes of everything an instruction names. -/
def Uses.codes (u : Uses) (slot : Nat) : List Nat :=
  (u.rs ++ u.ws).map (fun n => lruCode slot n false) ++ (u.rf ++ u.wf).map (fun n => lruCode slot n true)

/-- The registers of an instruction at `pc` that is followed by `next`: at the back-edge of an active loop its count is
read and written as well (R94). -/
def Thread.uses (t : Thread) (i : Instr) (pc next : Word) : Uses :=
  let u := (usesOf i).renamed
  if inBody t.loopst pc && next == loopEnd t.loopst then
    { u with rs := loopReg t.loopst :: u.rs, ws := loopReg t.loopst :: u.ws }
  else u

/-- Fewer values than must give way can be spilled, the others waiting for the responses of RAMO and RCAS: the instruction
waits (R62, R348). -/
def State.victimsShort (s : State) (cid need : Nat) (isF : Bool) (keep : List Nat) : Bool :=
  decide ((s.victims cid need isF keep).length + 128 < s.entriesUsed cid isF + need)

/-- The values that an instruction's results displace, of the s file and of the f file (R62). The entries are counted
before the instruction's own last-use marks free any (DESIGN CHOICE, log 92). -/
def State.displaced (s : State) (tid : Nat) (u : Uses) : List Nat × List Nat :=
  let cid := tid / 4
  let codes := u.codes (tid % 4)
  if (s.core cid).test then ([], [])
  else (if u.ws = [] then [] else s.victims cid u.ws.eraseDups.length false codes,
        if u.wf = [] then [] else s.victims cid u.wf.eraseDups.length true codes)

/-- Too few values can give way for an instruction's results. -/
def State.displacedShort (s : State) (tid : Nat) (u : Uses) : Bool :=
  let cid := tid / 4
  let codes := u.codes (tid % 4)
  !(s.core cid).test && ((u.ws != [] && s.victimsShort cid u.ws.eraseDups.length false codes) ||
    (u.wf != [] && s.victimsShort cid u.wf.eraseDups.length true codes))

/-- The entries that spills of some registers of a thread write: their slots' sectors and those of the live bits (R64,
R313). -/
def State.spillEntries (s : State) (tid : Nat) (codes : List Nat) : List Entry :=
  let t := s.thread tid
  let sector (a : Word) : List Entry := match s.framePlace t.part (tid / 4) .store a with
    | .ok p => [.spill (p.code (tid / 4) / 64) []]
    | .error _ => []
  codes.flatMap (fun c =>
    let isF := decide (c % 128 / 64 = 1)
    sector (frameSlot t.frame (c % 64) isF) ++ sector (frameLive t.frame isF))

/-- Held spills of a thread find its commit area full (R313, R315). -/
def State.spillFull (s : State) (tid : Nat) (codes : List Nat) : Bool :=
  let t := s.thread tid
  s.holdsSpills t && decide (480 < entryCount (t.entries ++ s.spillEntries tid codes))

/-- Of some values of a core that would be spilled, the thread of one whose commit area has no room. -/
def State.spillWait (s : State) (cid : Nat) (codes : List Nat) : Option Nat :=
  ((List.range 4).map (fun k => 4 * cid + k)).find? (fun k =>
    s.spillFull k (codes.filter (fun c => c / 128 == k % 4)))

/-- The instruction of a thread waits for room in the commit area of thread `k`: that one's segment commits as at a COMMIT,
once it is not speculative, and goes on in a new segment with the same stamp (R313, R315). -/
def State.awaitRoom (s : State) (tid k : Nat) : State :=
  let s := if s.agenda.any (fun x => x.2.1 == .segmentCommitComplete && x.2.2.tid == k) then s
    else s.post 0 .segmentCommitComplete { tid := k }
  { s with cur := tid }.park (if s.speculative (s.thread k) then .spec else .room)

/-- The values displaced are spilled, and the registers that an issued instruction named are the most recently used
(R62). -/
def State.rename (s : State) (tid : Nat) (u : Uses) (d : List Nat × List Nat) : State :=
  let cid := tid / 4
  let codes := u.codes (tid % 4)
  if (s.core cid).test || codes = [] then s
  else ((s.spillAllOf cid false d.1).spillAllOf cid true d.2).modCore cid (fun c =>
    { c with lru := c.lru.filter (fun x => !(codes.contains x)) ++ codes.eraseDups })

/-- A run of frame and record writes: the state after them, or the write that cannot be performed with its own address, and
the state that the writes before it have left (R66). -/
abbrev Saved := Except (Flt × State) State

def State.put (s : State) (p cid : Nat) (a v : Word) : Saved :=
  match s.frameWrite p cid a v with
  | .ok s' => .ok s'
  | .error c => .error (⟨c, a⟩, s)

/-- The frame writes of a suspension (R64): every resident value to its slot, the live bits of resident
and framed registers set, those of dead ones clear; the generator state; the vector extension apart. A register that
waits for a response (R348) has its bit set; no suspension finds one. -/
def State.saveRegs (s : State) (tid : Nat) : Saved := do
  let t := s.thread tid
  let put (s : State) (isF : Bool) (x : Nat × RegSt) : Saved :=
    match x.2 with
    | .resident v => do
      let s ← s.put t.part (tid / 4) (frameSlot t.frame x.1 isF) v
      pure (s.poisonOut tid x.1 isF (frameSlot t.frame x.1 isF))
    | _ => .ok s
  let live (m : SMap RegSt) : Word :=
    BitVec.ofNat 64 (m.foldl (fun n x => match x.2 with
      | .dead => n
      | _ => n + 2 ^ x.1) 0)
  let s ← t.sregs.foldlM (fun s x => put s false x) s
  let s ← t.fregs.foldlM (fun s x => put s true x) s
  let s ← s.put t.part (tid / 4) (frameLive t.frame false) (live t.sregs)
  let s ← s.put t.part (tid / 4) (frameLive t.frame true) (live t.fregs)
  let s ← s.put t.part (tid / 4) (t.frame + 0x1C0) t.genLo
  s.put t.part (tid / 4) (t.frame + 0x1C8) t.genHi

/-- The registers after a suspension: every live one is framed (R64). -/
def frameAll (m : SMap RegSt) : SMap RegSt := m.map (fun x => (x.1, match x.2 with
  | .resident _ => RegSt.framed
  | y => y))

/-- The register states a live-bit word gives on resumption (R64). -/
def fromLive (w : Word) (n : Nat) : SMap RegSt :=
  ((List.range n).filter (fun k => w.toNat.testBit k)).map (fun k => (k, RegSt.framed))

end Sys2Proof.Machine
end

