-- ==== Sys2Proof/Machine/Records.lean ====
section
/-! DEFINITION. Continuation records (R277 to R280): suspension (R281, R282), becoming ready (R274),
resumption (R282), the vector frame extension (R242), and the pending faults and drains that a suspension
point begins with (R68, R206, R209, R241, R349, R398). -/

namespace Sys2Proof.Machine

/-! ### Launches and stamps -/

def State.findLaunch (s : State) (p : Nat) (h : Word) : Option Launch :=
  (s.part p).launches.find? (fun l => l.addr == h)

def State.modLaunch (s : State) (p : Nat) (h : Word) (f : Launch → Launch) : State :=
  s.modPart p (fun q => { q with launches := q.launches.map (fun l => if l.addr == h then f l else l) })

/-- Header fields (R265 to R268). -/
def Launch.entry (l : Launch) : Word := l.hdr.getD 0 0
def Launch.param (l : Launch) : Word := l.hdr.getD 1 0
def Launch.shape (l : Launch) : Nat := (l.hdr.getD 2 0).toNat
def Launch.nf (l : Launch) : Nat := bitsN l.shape 38 36
def Launch.width (l : Launch) (k : Nat) : Nat := bitsN l.shape (6 * k + 5) (6 * k)
def Launch.place (l : Launch) (k : Nat) : Nat := bitsN l.shape (39 + 3 * k + 2) (39 + 3 * k)
def Launch.count (l : Launch) (k : Nat) : Nat :=
  let w := (l.hdr.getD (3 + k / 2) 0).toNat
  if k % 2 = 0 then bitsN w 31 0 else bitsN w 63 32
def Launch.stamp (l : Launch) : Nat := (l.hdr.getD 6 0).toNat
def Launch.done (l : Launch) : Word := l.hdr.getD 8 0
def Launch.doneval (l : Launch) : Word := l.hdr.getD 9 0
def Launch.frames (l : Launch) : Nat := (l.hdr.getD 10 0).toNat
def Launch.barriers (l : Launch) : Nat := (l.hdr.getD 11 0).toNat
def Launch.seed (l : Launch) : Word := l.hdr.getD 12 0
def Launch.queue (l : Launch) : Nat := bitsN l.ctl 3 0
def Launch.vshare (l : Launch) : Nat := max 1 (bitsN l.ctl 31 24)
def Launch.mshare (l : Launch) : Nat := max 1 (bitsN l.ctl 39 32)
def Launch.tcmMin (l : Launch) : Nat := bitsN l.ctl 47 40
def Launch.tcmMax (l : Launch) : Nat := bitsN l.ctl 55 48

/-- The number of units (R270). -/
def Launch.units (l : Launch) : Nat :=
  (List.range l.nf).foldl (fun n k => n * l.count k) 1

/-- Unit u's timestamp (R267). -/
def Launch.unitStamp (l : Launch) (u : Nat) : Nat :=
  if l.smode = 1 then (l.stamp + u) % 2 ^ 64 else l.stamp

/-- The digits of x over some counts, the first most significant (R270). -/
def mixed (cs : List Nat) (x : Nat) : List Nat :=
  (cs.foldr (fun c (r : List Nat × Nat) => ((r.2 % c) :: r.1, r.2 / c)) ([], x)).1

/-- A launch with a field of code 2 to 4 has gangs (R271). -/
def Launch.isMember (l : Launch) (k : Nat) : Bool := decide (2 ≤ l.place k)
def Launch.gangFields (l : Launch) : List Nat := (List.range l.nf).filter (fun k => !l.isMember k)
def Launch.memberFields (l : Launch) : List Nat := (List.range l.nf).filter (fun k => l.isMember k)
def Launch.isGang (l : Launch) : Bool := l.memberFields != []
def Launch.prodOf (l : Launch) (ks : List Nat) : Nat := ks.foldl (fun n k => n * l.count k) 1
def Launch.gangSize (l : Launch) : Nat := l.prodOf l.memberFields

/-- The field values of unit u (R270). -/
def Launch.fields (l : Launch) (u : Nat) : List Nat := mixed ((List.range l.nf).map l.count) u

/-- WID and ordinal of field values (R270). -/
def Launch.widOf (l : Launch) (fs : List Nat) : Nat :=
  (fs.zip (List.range l.nf)).foldl (fun w x => w * 2 ^ l.width x.2 + x.1) 0
def Launch.ordinal (l : Launch) (fs : List Nat) : Nat :=
  (fs.zip (List.range l.nf)).foldl (fun u x => u * l.count x.2 + x.1) 0

/-- The field values of member m of gang g (R271). -/
def Launch.memberOf (l : Launch) (g m : Nat) : List Nat :=
  let vs := l.gangFields.zip (mixed (l.gangFields.map l.count) g) ++
    l.memberFields.zip (mixed (l.memberFields.map l.count) m)
  (List.range l.nf).map (fun k => match vs.find? (fun x => x.1 == k) with
    | some x => x.2
    | none => 0)

/-- The ordinal of the next unit that has not been created; gangs are created whole. -/
def Launch.nextUnit (l : Launch) : Nat :=
  if l.isGang then l.ordinal (l.memberOf (l.created / max 1 l.gangSize) 0) else l.created

/-- The header address of a launch key. -/
def launchAddr (key : Word) : Word := sextW key.toNat 48

/-- The least timestamp of the uncommitted segments of a launch (R314); its own when there is none. -/
def State.launchMin (s : State) (p : Nat) (l : Launch) : Nat :=
  let inSlots := s.threads.filterMap (fun x =>
    let t := x.2
    if t.occ && t.inLaunch && t.part == p && t.launch == l.addr && (t.st == 2 || t.st == 6) then
      some t.tstamp.toNat else none)
  let inRecs := (s.part p).conts.filterMap (fun x => match x.2 with
    | some c => if c.inLaunch && c.launch == l.addr && (c.st == 1 || c.st == 2 || c.st == 6) then some c.stamp
                else none
    | none => none)
  let next := if l.created < l.units && !l.ended then [l.unitStamp l.nextUnit] else []
  match inSlots ++ inRecs ++ next with
  | [] => l.minimum
  | x :: xs => xs.foldl min x

/-- The minimum tree of a domain follows a change (R314): DOMAIN_MINIMUM_UPDATE settles it. -/
def State.refreshMin (s : State) (p : Nat) (h : Word) : State :=
  match s.findLaunch p h with
  | some l => if s.launchMin p l = l.minimum then s
      else s.post 0 .domainMinimumUpdate { part := p, v := h }
  | none => s

/-- The same for the launch of a thread. -/
def State.refreshOf (s : State) (tid : Nat) : State :=
  let t := s.thread tid
  if t.inLaunch then s.refreshMin t.part t.launch else s

/-- DOMAIN_MINIMUM_UPDATE (R314). -/
def execDomainMinimumUpdate (s : State) : Host.Outcome State Fault Refusal :=
  event (fun s => match s.findLaunch s.ev.part s.ev.v with
    | some l => s.modLaunch s.ev.part s.ev.v (fun l' => { l' with minimum := s.launchMin s.ev.part l })
    | none => s) s

/-! ### The words of a record -/

/-- The STATE word of a thread (R278). -/
def Thread.stateWord (t : Thread) (st : Nat) (lvl : Nat) (loop : Word) : Word :=
  let lend := (loopEnd loop).toNat
  BitVec.ofNat 64 (st * 2 ^ 61 + t.queue % 16 * 2 ^ 57 + lvl % 2 * 2 ^ 56
    + bitsN t.vctl.toNat 6 0 * 2 ^ 49 + bitsN t.vctl.toNat 10 8 * 2 ^ 46
    + bitsN t.fctl.toNat 7 5 * 2 ^ 43 + bitsN t.fctl.toNat 4 0 * 2 ^ 38
    + b2n (loopActive loop) * 2 ^ 37 + loopReg loop * 2 ^ 31 + loopLen loop * 2 ^ 22
    + bitsN lend 15 1 * 2)

/-- LOOPST from a record's words (R98, R277, R278). -/
def loopOf (pcw st lw : Nat) : Word :=
  if st.testBit 37 then
    let lend := bitsN pcw 63 48 * 2 ^ 32 + bitsN lw 63 48 * 2 ^ 16 + bitsN st 15 1 * 2
    loopWord (bitsN st 36 31) (bitsN st 30 22) (BitVec.ofNat 64 lend)
  else 0

/-- Writes a record: PC, WID, TSTAMP, FRAME, WAIT, STATE, LAUNCH (R277, R282). -/
def State.writeRecord (s : State) (tid st kind obj lvl : Nat) (pc loop : Word) : Saved := do
  let t := s.thread tid
  let p := t.part
  let c := tid / 4
  let lend := (loopEnd loop).toNat
  let act := b2n (loopActive loop)
  let pcw := BitVec.ofNat 64 (pc.toNat % 2 ^ 48 + act * bitsN lend 47 32 * 2 ^ 48)
  let lw := BitVec.ofNat 64 (t.launch.toNat % 2 ^ 48 + act * bitsN lend 31 16 * 2 ^ 48)
  let s ← s.put p c t.record pcw
  let s ← s.put p c (t.record + 0x08) t.wid
  let s ← s.put p c (t.record + 0x10) t.tstamp
  let s ← s.put p c (t.record + 0x18) (t.frame + BitVec.ofNat 64 (b2n t.vx))
  let s ← s.put p c (t.record + 0x20) (BitVec.ofNat 64 (kind * 2 ^ 60 + obj % 2 ^ 48))
  let s ← s.put p c (t.record + 0x28) (t.stateWord st lvl loop)
  s.put p c (t.record + 0x30) lw

/-! ### The vector extension of the frame (R242) -/

/-- A stream record of 64 bytes. -/
def Stream.words (x : Stream) : List Word :=
  [x.base, x.bounds, x.strides, x.ctl, BitVec.ofNat 64 x.pos,
   BitVec.ofNat 64 (b2n x.bound + 2 * b2n (x.ctl.toNat.testBit 8))]

/-- Writes the vector state (R242). -/
def State.saveVec (s : State) (tid : Nat) : Saved := do
  let t := s.thread tid
  if !t.vx then .ok s
  else
    let w (s : State) (off : Nat) (v : Word) : Saved :=
      s.put t.part (tid / 4) (t.frame + BitVec.ofNat 64 off) v
    let pair (k : Nat) : Word := (smGet 0 t.vregs (2 * k + 1)).zeroExtend 64 <<< 32 ||| (smGet 0 t.vregs (2 * k)).zeroExtend 64
    let s ← (List.range 1024).foldlM (fun s k => w s (0x400 + 8 * k) (pair k)) s
    let s ← (List.range 8).foldlM (fun s k => w s (0x2400 + 8 * k) (smGet 0 t.masks k)) s
    let str (s : State) (k : Nat) (x : Stream) : Saved :=
      (x.words.zip (List.range 6)).foldlM (fun s p => w s (0x2440 + 64 * k + 8 * p.2) p.1) s
    let s ← str s 0 t.str28
    let s ← str s 1 t.str29
    let s ← str s 2 t.str30
    str s 3 t.str31

/-- Reads the vector state back, through the L1. -/
def State.loadVec (s : State) (tid : Nat) : State :=
  let t := s.thread tid
  if !t.vx then s
  else
    let s := (List.range 133).foldl (fun (s : State) k => s.frameTouch t.part (tid / 4) (t.frame + BitVec.ofNat 64 (0x400 + 64 * k))) s
    let r (off : Nat) : Word := s.frameRead t.part (tid / 4) (t.frame + BitVec.ofNat 64 off)
    let vr := (List.range 1024).foldl (fun m k =>
      let v := r (0x400 + 8 * k)
      smSet 0 (smSet 0 m (2 * k) (v.truncate 32)) (2 * k + 1) ((v >>> 32).truncate 32)) []
    let ms := (List.range 8).foldl (fun m k => smSet 0 m k (r (0x2400 + 8 * k))) []
    let str (k : Nat) : Stream :=
      let o := 0x2440 + 64 * k
      { bound := (r (o + 40)).toNat.testBit 0, base := r o, bounds := r (o + 8), strides := r (o + 16),
        ctl := r (o + 24), pos := (r (o + 32)).toNat }
    s.setThread tid { t with
      vregs := vr, masks := ms, str28 := str 0, str29 := str 1, str30 := str 2, str31 := str 3,
      sb := b2n (str 0).bound + 2 * b2n (str 1).bound + 4 * b2n (str 2).bound + 8 * b2n (str 3).bound }

/-! ### Becoming ready (R274, R282) -/

def State.cont (s : State) (p : Nat) (r : Word) : Option Cont := smGet none (s.part p).conts r.toNat
def State.setCont (s : State) (p : Nat) (r : Word) (c : Option Cont) : State :=
  s.modPart p (fun q => { q with conts := smSet none q.conts r.toNat c })

def readyKey (p q : Nat) : Nat := 16 * p + q

/-- Appends a record to a ready queue of a cluster. -/
def State.enqueue (s : State) (cl p q : Nat) (r : Word) : State :=
  s.modCluster cl (fun k =>
    let x := smGet {} k.ready (readyKey p q)
    { k with ready := smSet {} k.ready (readyKey p q) { x with recs := x.recs ++ [r] } })

/-- A record write of a continuation without a slot cannot be performed: it is faulted (R66, R116, R410). -/
def State.contFault (s : State) (p : Nat) (r : Word) (f : Flt) : State :=
  match s.cont p r with
  | none => s
  | some c =>
    let put (s : State) (a v : Word) : State := match s.frameWrite p c.core a v with
      | .ok s' => s'
      | .error _ => s
    let s := put s (r + 0x38) (faultWord true f)
    let s := put s (r + 0x28) (putBits (s.frameRead p c.core (r + 0x28)) 63 61 7)
    let s := s.setCont p r (some { c with st := 7 })
    let s := if c.inLaunch then
        (s.modLaunch p c.launch (fun l => { l with faulted := l.faulted + 1 })).refreshMin p c.launch
      else s
    s.event p 1 f.cause r f.info

/-- Puts a record's continuation into a thread slot (R282): VCTL, FCTL, LOOPST, the level and the pc come
from the record, registers are framed or dead by the live bits (R64), copy-engine registers are zero. A record or a frame that
holds a poisoned word leaves the continuation faulted (R418: DESIGN CHOICE, log 101). -/
def State.resume (s : State) (tid p : Nat) (r : Word) : State :=
  let c := tid / 4
  let frm : Word := BitVec.ofNat 64 ((s.frameRead p c (r + 0x18)).toNat / 1024 * 1024)
  let words := (List.range 8).map (fun k => r + BitVec.ofNat 64 (8 * k)) ++ [frm, frm + 0x1C0, frm + 0x1C8, frm + 0x1D0]
  match words.findSome? (fun a => s.framePoison p c a) with
  | some a => s.contFault p r ⟨cMCHECK, BitVec.ofNat 64 (a % 2 ^ 48)⟩
  | none =>
  let s := words.foldl (fun (s : State) a => s.frameTouch p c a) s
  let rd (a : Word) : Nat := (s.frameRead p c a).toNat
  let pcw := rd r
  let frw := rd (r + 0x18)
  let st := rd (r + 0x28)
  let lw := rd (r + 0x30)
  let frame : Word := BitVec.ofNat 64 (frw / 1024 * 1024)
  let cont := s.cont p r
  let hdr : Word := match cont with
    | some x => x.launch
    | none => sextW lw 48
  let l := s.findLaunch p hdr
  let fresh := match cont with
    | some x => x.fresh
    | none => false
  let inL := match cont with
    | some x => x.inLaunch && l.isSome
    | none => false
  let sl := fromLive (BitVec.ofNat 64 (rd frame)) 56
  let fl := fromLive (BitVec.ofNat 64 (rd (frame + 0x1D0))) 64
  let t : Thread :=
    { occ := true, st := 2, pc := sextW pcw 48 &&& ~~~1#64, level := if st.testBit 56 then .S else .U,
      part := p,
      sregs := match fresh, l with
        | true, some x => [(4, .resident x.param)]
        | _, _ => sl.filter (fun x => x.1 != 0),
      fregs := if fresh then [] else fl,
      fctl := BitVec.ofNat 64 (bitsN st 45 43 * 32 + bitsN st 42 38),
      vctl := BitVec.ofNat 64 (bitsN st 55 49 + bitsN st 48 46 * 256),
      loopst := loopOf pcw st lw, wid := BitVec.ofNat 64 (rd (r + 0x08)),
      wshape := match l with
        | some x => x.hdr.getD 2 0
        | none => 0,
      tstamp := BitVec.ofNat 64 (rd (r + 0x10)), record := r, frame := frame, vx := frw % 2 == 1,
      launch := hdr, inLaunch := inL, queue := bitsN st 60 57,
      gang := match cont with
        | some x => x.slot.isSome
        | none => false,
      gangNo := match cont with
        | some x => x.gangNo
        | none => 0,
      genLo := BitVec.ofNat 64 (rd (frame + 0x1C0)), genHi := BitVec.ofNat 64 (rd (frame + 0x1C8)),
      pendReduce := match cont with
        | some x => x.pendReduce
        | none => none,
      arrive := (s.thread tid).arrive, segNew := true }
  let s := (s.setThread tid t).loadVec tid
  let s := s.setCont p r none
  -- PARAM in s4 takes a physical entry (R61, R62, R280)
  let s := if fresh then
      let code := lruCode (tid % 4) 4 false
      (s.spillAllOf c false (s.victims c 0 false [code])).modCore c (fun k =>
        { k with lru := k.lru.filter (fun x => x != code) ++ [code] })
    else s
  match s.frameWrite p c (r + 0x28) (putBits (BitVec.ofNat 64 st) 63 61 2) with
  | .error x => s.frameFault tid ⟨x, r + 0x28⟩
  | .ok s =>
    let s := s.refreshOf tid
    -- a REDUCE_STALL that waited for the resumption (R330)
    match (s.thread tid).pendReduce with
    | some f => (s.modThread tid (fun t => { t with pendReduce := none })).raise tid f
    | none => s

/-- DEVSTAT.READY (R431). -/
def State.ready5 (s : State) : Bool := s.devstat.toNat.testBit 5

/-- A cluster that takes continuations of a partition (R77, R407, R408, R430). -/
def State.takes (s : State) (p cl : Nat) : Bool :=
  s.clusterOk p cl && !(s.part p).suspended && !(s.cluster cl).withdrawn && (s.ready5 || (s.devstat.toNat.testBit 4 && decide (cl < 32)))

/-- A core that takes continuations. -/
def State.coreTakes (s : State) (p cid : Nat) : Bool :=
  s.takes p (cid / 8) && !(s.core cid).withdrawn && !(s.core cid).preempted && !(s.core cid).test

/-- A continuation becomes ready: ST 1 and KIND 0, its stamp at least the releaser's, at the tail of its
queue in the cluster where it last ran; a gang member goes back to its own slot (R272, R274, R282). -/
def State.makeReady (s : State) (p : Nat) (r : Word) (stamp : Nat) : State :=
  match s.cont p r with
  | none => s
  | some c =>
    let cid := c.core
    let stamp := max stamp c.stamp
    let written := do
      let s ← s.put p cid (r + 0x28) (putBits (s.frameRead p cid (r + 0x28)) 63 61 1)
      let s ← s.put p cid (r + 0x20) 0
      s.put p cid (r + 0x10) (BitVec.ofNat 64 stamp)
    match written with
    | .error (f, s) => s.contFault p r f
    | .ok s =>
      let s := s.setCont p r (some { c with
        st := 1, stamp := stamp, kind := 0, obj := 0, onCore := c.kind == 3 })
      let s := if c.inLaunch then s.refreshMin p c.launch else s
      match c.slot with
      | some tid => if s.coreTakes p (tid / 4) then s.resume tid p r else s
      | none => s.enqueue c.cluster p c.queue r

/-- Gang members that are ready go back to their slots on a core that takes them again, after a pre-emption, a suspension or
a handing over of their cluster (R272, R283, R407, R408). -/
def State.reseat (s : State) : State :=
  s.parts.foldl (fun (s : State) (x : Nat × Part) =>
    x.2.conts.foldl (fun (s : State) (y : Nat × Option Cont) => match y.2 with
      | some c => match c.slot with
        | some tid => if c.st = 1 && !(s.thread tid).occ && s.coreTakes x.1 (tid / 4) then
            s.resume tid x.1 (BitVec.ofNat 64 y.1) else s
        | none => s
      | none => s) s) s

/-- Every waiting continuation of a kind and object becomes ready. -/
def State.wakeAll (s : State) (ok : Nat → Cont → Bool) (stamp : Nat) : State :=
  s.parts.foldl (fun (s : State) (x : Nat × Part) =>
    x.2.conts.foldl (fun (s : State) (y : Nat × Option Cont) => match y.2 with
      | some c => if ok x.1 c then s.makeReady x.1 (BitVec.ofNat 64 y.1) stamp else s
      | none => s) s) s

/-- The granule of an address, as a cluster and a number, for a continuation of a cluster. -/
def granuleOf (cl : Nat) (ea : Word) : Option (Nat × Nat) :=
  match regionOf ea with
  | .own off => some (cl, off / 16)
  | .cluster c off => some (c, off / 16)
  | _ => none

/-- GRANULE_FILL_WAKE: continuations suspended on a granule become ready when it fills (R107). -/
def State.wakeGranule (s : State) (cl g : Nat) : State :=
  s.wakeAll (fun _ c => c.st == 3 && c.kind == 4 && granuleOf c.cluster (BitVec.ofNat 64 c.obj) == some (cl, g)) 0

/-- A continuation waiting for its core's mailbox becomes ready (R256). -/
def State.wakeMailbox (s : State) (core stamp : Nat) : State :=
  s.wakeAll (fun _ c => c.st == 3 && c.kind == 3 && c.core == core) stamp

/-- The bank performs the LDFEs that wait on a full granule, in the order in which they reached it, up to the first
that empties it: the value is on its way back to the thread (R107). One that meets an uncorrectable error stays, and
takes its fault at its turn (R419). -/
def State.serveGranule (s : State) (cl g : Nat) : List (Nat × Nat) → State
  | [] => s
  | x :: xs =>
    if !(smGet false (s.cluster cl).full g) then s
    else match (s.thread x.2).wait with
      | some ⟨.granule c h ea keep, _⟩ =>
        let off := 16 * g + ea.toNat % 16
        if x.1 = g ∧ c = cl ∧ h = g ∧ s.spadPoison cl off 8 = none then
          let s := s.modThread x.2 (fun t => { t with opDone := true, meshVal := some ((s.cluster cl).read off 8) })
          let s := s.modCluster cl (fun k =>
            { (if keep then k else k.setFull g false) with feWait := k.feWait.erase x })
          s.serveGranule cl g xs
        else s.serveGranule cl g xs
      | _ => s.serveGranule cl g xs

/-- A full-empty bit is set: suspended waiters become ready, and those at the bank are served (R107). -/
def State.setFull (s : State) (cl g : Nat) : State :=
  let s := (s.modCluster cl (fun k => k.setFull g true)).wakeGranule cl g
  s.serveGranule cl g (s.cluster cl).feWait

def State.setEmpty (s : State) (cl g : Nat) : State := s.modCluster cl (fun k => k.setFull g false)

/-- Engine, copy and remote writes fill every granule they touch (R247). -/
def State.fillRange (s : State) (cl off n : Nat) : State :=
  if n = 0 then s
  else (List.range ((off + n - 1) / 16 - off / 16 + 1)).foldl (fun s k => s.setFull cl (off / 16 + k)) s

/-! ### Suspension (R281, R282) -/

/-- The arrival record of a slot: A and RP (R249). -/
def Thread.setArr (t : Thread) (ch : Nat) (a rp : Bool) : Thread :=
  { t with arrive := smSet 0 t.arrive ch (b2n a + 2 * b2n rp) }

/-- Sets the members of a channel on one core: slots that change have no arrival (R249). -/
def State.setMembers (s : State) (ch core m : Nat) : State :=
  let old := smGet 0 s.members (1024 * ch + core)
  let s := { s with members := smSet 0 s.members (1024 * ch + core) (m % 16) }
  (List.range 4).foldl (fun (s : State) k =>
    if old.testBit k = m.testBit k then s else s.modThread (4 * core + k) (fun t => t.setArr ch false false)) s

/-- The wired channels of a launch's gangs (R268). -/
def Launch.channels (l : Launch) : List Nat :=
  (List.range (bitsN l.barriers 31 16)).map (fun k => bitsN l.barriers 15 0 + k)

/-- A channel loses all its members (R272). -/
def State.clearChannel (s : State) (ch : Nat) : State :=
  (s.members.filter (fun x => x.1 / 1024 == ch)).foldl (fun (s : State) x => s.setMembers ch (x.1 % 1024) 0) s

/-- The frame slot that a frame address is in (R268). -/
def Launch.frameSlot (l : Launch) (frame : Word) : Nat := (frame.toNat - l.frames / 16384 * 16384) / 16384

/-- A unit of a launch is finished: its frame slot is free, its gang may be over, the launch may be complete (R268,
R272, R287). -/
def State.unitDone (s : State) (p : Nat) (key frame : Word) (gang : Bool) : State :=
  let s := s.modLaunch p key (fun l =>
    { l with finished := l.finished + 1, pool := l.pool.filter (fun k => k != l.frameSlot frame),
             gangLeft := l.gangLeft - b2n gang })
  match s.findLaunch p key with
  | none => s
  | some l =>
    let s := if gang && l.gangLeft = 0 then l.channels.foldl (fun (s : State) ch => s.clearChannel ch) s else s
    if l.finished = l.units then s.post 0 .launchComplete { part := p, v := key } else s

/-- Leaves a thread slot: it is idle, or kept reserved for a gang member (R281). -/
def State.freeSlot (s : State) (tid : Nat) (keep : Bool) : State :=
  let t := s.thread tid
  let cl := tid / 32
  let s := s.modCluster cl (fun k => { k with feWait := k.feWait.filter (fun x => x.2 != tid) })
  s.setThread tid { reserved := if keep && t.gang then some t.record else none, arrive := t.arrive }

/-- Suspends thread `tid` with a freed slot: registers, vector state and record are written, then the slot
is free. A write that cannot be performed leaves the continuation faulted (R66). -/
def State.suspendSlot (s : State) (tid st kind obj lvl : Nat) (pc loop : Word) : State :=
  let t := s.thread tid
  let r := do
    let s ← s.saveRegs tid
    let s ← s.saveVec tid
    s.writeRecord tid st kind obj lvl pc loop
  match r with
  | .error (f, s) => s.frameFault tid f
  | .ok s =>
    let c : Cont := { st := st, stamp := t.tstamp.toNat, launch := t.launch, inLaunch := t.inLaunch,
                      cluster := tid / 32, core := tid / 4, kind := kind, obj := obj, queue := t.queue,
                      slot := if t.gang then some tid else none, gangNo := t.gangNo, pendReduce := t.pendReduce }
    let s := s.freeSlot tid (st != 0)
    if st = 0 then
      let s := s.setCont t.part t.record none
      let s := if t.inLaunch then s.unitDone t.part t.launch t.frame t.gang else s
      if t.inLaunch then s.refreshMin t.part t.launch else s
    else
      let s := s.setCont t.part t.record (some c)
      let s := if t.inLaunch then s.refreshMin t.part t.launch else s
      if st = 1 then (match c.slot with
        | some k => s.resume k t.part t.record
        | none => s.enqueue c.cluster t.part t.queue t.record)
      else s

/-- The thread's registers go to the frame while it keeps its slot (R251): a wait of more than 4,096 clk. -/
def State.spillAll (s : State) (tid : Nat) : State :=
  match s.saveRegs tid with
  | .error (f, s) => s.frameFault tid f
  | .ok s => s.modThread tid (fun t =>
      { t with sregs := frameAll t.sregs, fregs := frameAll t.fregs, spilled := true })

/-! ### Drains and pending faults -/

/-- The thread's earlier vector instructions have completed (R243), those that an open REPV capture still holds among
them: it is closed, as at a suspension point (DESIGN CHOICE, log 74). -/
def vuDone : Sem Unit := do
  let s ← get
  if s.th.capture.left ≠ 0 then block .capture
  if s.th.vuq ≠ [] then block .vu

/-- A pending vector fault alone, for BARW and the like. -/
def deliverVec : Sem Unit := do
  let s ← get
  match s.th.pendVec with
  | some (f, _) => throw (.pending .vec f)
  | none => pure ()

/-- The VU queue has drained and a pending vector fault is delivered (R241). -/
def syncVec : Sem Unit := do
  vuDone
  deliverVec

/-- A pending MAU fault (R206). -/
def deliverMau : Sem Unit := do
  let s ← get
  match s.th.pendMau with
  | some f => throw (.pending .mau f)
  | none => pure ()

/-- Has the thread MAU commands that are not complete? -/
def State.mauBusy (s : State) (tid : Nat) : Bool := (s.core (tid / 4)).mauq.any (fun c => c.tid == tid)

/-- MWAIT's wait and delivery (R205, R206). -/
def waitMau : Sem Unit := do
  let s ← get
  if s.mauBusy s.cur then block .axis
  deliverMau

/-- A pending remote error (R349). -/
def deliverRemote : Sem Unit := do
  let s ← get
  match s.th.pendRemote with
  | some f => throw (.pending .remote f)
  | none => pure ()

/-- Some RAMO or RCAS of the thread is not answered (R348). -/
def Thread.owes (t : Thread) : Bool :=
  t.awaiting || t.sregs.any (fun x => match x.2 with
    | .owed _ _ => true
    | _ => false)

/-- An instruction in flight whose effect has been performed and only its end is left: the value of its LDFE or of its RAMO
or RCAS has come back, or its SUSPEND has stored its word (R107, R290, R348). -/
def Thread.landing (t : Thread) : Bool :=
  t.response.isSome || t.suspVal.isSome || (t.opDone && (match t.wait with
    | some ⟨.granule _ _ _ _, _⟩ => true
    | _ => false))

/-- Remote operations that are not acknowledged or not answered. -/
def Thread.remoteBusy (t : Thread) : Bool := decide (t.outOM + t.outAD + t.outRT ≠ 0) || t.owes

/-- Remote operations of every class are acknowledged, and responses have arrived (R353, R355). -/
def waitRemote : Sem Unit := do
  let s ← get
  if s.th.remoteBusy then block .remote

/-- Earlier stores to other clusters' scratchpads are performed (R213, R310). -/
def storesDone : Sem Unit := do
  let s ← get
  if s.th.meshOut ≠ 0 then block .stores

/-- Every earlier store of the thread to a scratchpad or TCM is performed, those of its vector instructions too: what a
release waits for (R213, R254, R262, R318, R320). -/
def storesPerformed : Sem Unit := do
  vuDone
  storesDone

/-- A pending REDUCE_STALL, at a commit point or a suspension point (R330). -/
def deliverReduce : Sem Unit := do
  let s ← get
  match s.th.pendReduce with
  | some f => throw (.pending .reduce f)
  | none => pure ()

/-- A pending fault of a thread is delivered where it stands (R398). -/
def State.deliverPending (s : State) (tid : Nat) (k : Pend) (f : Flt) : State :=
  ({ s with cur := tid }.clearPending k).raise tid f

/-- Values are left in q0 to q3. -/
def Thread.queued (t : Thread) : Bool := t.q0 ≠ [] || t.q1 ≠ [] || t.q2 ≠ [] || t.q3 ≠ []

/-- The port that a QUEUE_STALL of such a wait names: the first that holds a value (DESIGN CHOICE, log 75). -/
def Thread.stallPort (t : Thread) : Nat :=
  if t.q0 ≠ [] then 56 else if t.q1 ≠ [] then 57 else if t.q2 ≠ [] then 58 else 59

/-- A wait at a suspension point: while vector instructions or values in q0 to q3 are left it is the wait that ends in
QUEUE_STALL (R68). -/
def drainFor (w : Why) : Sem Unit := do
  let s ← get
  block (if s.th.vuq ≠ [] || s.th.queued then .drain else w)

/-- What every suspension point but a fault begins with: the VU queue drains, MAU commands, stores and remote
operations complete, pending faults are delivered, q0 to q3 are empty (R68, R209, R213, R241, R349, R355). -/
def drainAll : Sem Unit := do
  let s ← get
  if s.th.capture.left ≠ 0 then block .capture
  if s.th.vuq ≠ [] then block .drain
  deliverVec
  if s.mauBusy s.cur then drainFor .axis
  deliverMau
  if s.th.remoteBusy then drainFor .remote
  deliverRemote
  if s.th.meshOut ≠ 0 then drainFor .stores
  deliverReduce
  if s.th.queued then block .drain

/-- A suspension point: the drains and the commit (R281). -/
def suspensionPoint : Sem Unit := do
  drainAll
  commitPoint

/-- A commit point that is no suspension point: the segment's vector stores are among its entries, so the thread's earlier
vector instructions complete first (R312, R313, R330). -/
def commitOnly : Sem Unit := do
  vuDone
  deliverReduce
  commitPoint

/-- A wait in the slot is over, and a new segment begins after the instruction (R312). -/
def passed : Sem Unit :=
  modify (fun s => s.modTh (fun t => { t with segNew := t.segNew || t.between }))

end Sys2Proof.Machine
end

