-- ==== Sys2Proof/Machine/Field.lean ====
section
/-! DEFINITION. Fields: descriptors (R125 to R130), where an element lives (R131 to R133, R154), and the
descriptor as a thread sees it (R156). -/

namespace Sys2Proof.Machine

/-- A descriptor (R126 to R128). -/
structure Desc where
  base : Word
  state : Nat
  pin : Nat
  s : Nat
  n : Nat
  fmt : Nat
  map : List Nat
  shift : Nat
  aux : Word
  /-- The reserved bits of SHAPE. -/
  rsv : Nat
  deriving DecidableEq, Repr

/-- A descriptor from its 64 bytes, as a little-endian number. -/
def Desc.ofNat (w : Nat) : Desc :=
  { base := BitVec.ofNat 64 (bitsN w 63 0), state := bitsN w 127 120, pin := bitsN w 119 108,
    s := bitsN w 99 96, n := bitsN w 93 88, fmt := bitsN w 66 64,
    map := (List.range 48).map (fun j => bitsN w (128 + 6 * j + 5) (128 + 6 * j)),
    shift := bitsN w 447 416, aux := BitVec.ofNat 64 (bitsN w 511 448),
    rsv := bitsN w 107 100 + bitsN w 95 94 + bitsN w 87 67 }

/-- The 288-bit MAP as a number. -/
def mapNat (m : List Nat) : Nat := m.foldr (fun x acc => x + 64 * acc) 0

namespace Desc

def busy (d : Desc) : Bool := d.shift.testBit 31
def active (d : Desc) : Bool := d.shift.testBit 30
def halted (d : Desc) : Bool := d.shift.testBit 29
def phase (d : Desc) : Bool := d.shift.testBit 28
def exch (d : Desc) : Bool := d.shift.testBit 27
def xcopy (d : Desc) : Bool := d.shift.testBit 26
def pv (d : Desc) : Nat := bitsN d.shift 11 6
def pc (d : Desc) : Nat := bitsN d.shift 5 0
/-- L = N - S (R131). -/
def l (d : Desc) : Nat := d.n - d.s
/-- The number of near bits. -/
def near (d : Desc) : Nat := min d.l 12
def mapBit (d : Desc) (j : Nat) : Nat := d.map.getD j 0

/-- A SHIFT word (R128). -/
def shiftOf (busy active halted phase exch xcopy : Bool) (pv pc : Nat) : Nat :=
  b2n busy * 2 ^ 31 + b2n active * 2 ^ 30 + b2n halted * 2 ^ 29 + b2n phase * 2 ^ 28
  + b2n exch * 2 ^ 27 + b2n xcopy * 2 ^ 26 + pv * 64 + pc

/-- A list is a permutation of 0 to n - 1. -/
def isPerm (m : List Nat) (n : Nat) : Bool :=
  m.length == n && (List.range n).all (fun k => m.contains k)

/-- R130: a valid descriptor image. -/
def valid (d : Desc) : Bool :=
  d.fmt != 6 && decide (d.n ≤ 48) && decide (d.s ≤ 14) && decide (d.s ≤ d.n) && decide (d.l ≤ 36)
  && isPerm (d.map.take d.n) d.n && (d.map.drop d.n).all (fun x => x == 0)
  && d.pin >>> d.near == 0
  && d.base.toNat % 64 == 0 && decide (0x100000000 ≤ d.base.toNat)
  && (decide (d.base.toNat < 0x800000000000) || decide (0xFFFF800000000000 ≤ d.base.toNat))
  && (d.aux != 0 || !(decide (0 < d.s) || decide (12 < d.l)))
  && bitsN d.aux.toNat 15 0 == 0
  && d.state == 0 && d.shift == 0 && d.rsv == 0

/-- A number with bit k as given. -/
def putBit (r k : Nat) (b : Bool) : Nat := (r ||| 2 ^ k) ^^^ (if b then 0 else 2 ^ k)

/-- MAPX: bit j of the logical index moves to bit map(j), j by j (R87). -/
def mapx (d : Desc) (x : Nat) : Nat :=
  (List.range d.n).foldl (fun r j => putBit r (d.mapBit j) (x.testBit j)) 0

/-- UNMAPX (R87). -/
def unmapx (d : Desc) (x : Nat) : Nat :=
  (List.range d.n).foldl (fun r j => if x.testBit (d.mapBit j) then r ||| 2 ^ j else r) 0

/-- Exchanges two bits of an index. -/
def swapBits (p a b : Nat) : Nat :=
  if p.testBit a = p.testBit b then p else p ^^^ (2 ^ a ||| 2 ^ b)

/-- The map with two physical bits exchanged. -/
def swapMap (m : List Nat) (n a b : Nat) : List Nat :=
  m.zip (List.range m.length) |>.map (fun x =>
    if x.2 < n then (if x.1 = a then b else if x.1 = b then a else x.1) else x.1)

/-- The number of the block of a physical index (R133). -/
def blockOf (d : Desc) (p : Nat) : Nat := p % 2 ^ d.l / 4096


/-- Bytes of one element in memory (R129); I4 takes one byte here, of which a nibble counts. -/
def size (d : Desc) : Nat := if d.fmt = 5 ∨ d.fmt = 4 then 1 else fmtBits d.fmt / 8

/-- Offset of local element p from BASE. -/
def offset (d : Desc) (p : Nat) : Nat := if d.fmt = 5 then p / 2 else p * d.size

/-- Local storage in bytes (R129). -/
def span (d : Desc) : Nat := if d.fmt = 5 then (2 ^ d.l + 1) / 2 else 2 ^ d.l * d.size

/-- The element bits of p in the bytes read at its place (R129). -/
def pick (d : Desc) (p v : Nat) : Nat :=
  if d.fmt = 5 then (if p % 2 = 0 then v % 16 else v / 16 % 16)
  else if d.fmt = 4 then v % 64 else v % 2 ^ (8 * d.size)

/-- The bytes at p's place with its element replaced (R129). -/
def place (d : Desc) (p old v : Nat) : Nat :=
  if d.fmt = 5 then (if p % 2 = 0 then old / 16 * 16 + v % 16 else v % 16 * 16 + old % 16)
  else if d.fmt = 4 then v % 64 else v % 2 ^ (8 * d.size)

end Desc

/-- The table address of handle h (R125). -/
def descAddr (ftbase : Word) (h : Nat) : Word := ftbase + BitVec.ofNat 64 (64 * h)

/-- EINFO of FIELD_BAD and FIELD_SPREAD (R144). -/
def fieldInfo (code bit reason h : Nat) : Word :=
  BitVec.ofNat 64 (code * 2 ^ 24 + bit % 64 * 2 ^ 16 + reason * 2 ^ 12 + h % 4096)

/-- FIELD_BAD with a reason (R145). -/
def fieldBad {α : Type} (reason : Nat) (h : Word) (bit : Nat := 0) : Sem α :=
  trap cFBAD (fieldInfo cFBAD bit reason h.toNat)

/-- Applies the thread's own buffered writes to `n` bytes read at `pa`, in program order: stored bytes, and
relabellings of the map (R104, R156). -/
def seeOwn (es : List Entry) (pa n v : Nat) : Nat :=
  es.foldl (fun v e => match e with
    | .store _ cs _ _ => cs.foldl (fun v c =>
        if pa ≤ c.1 ∧ c.1 < pa + n then
          let k := 8 * (c.1 - pa)
          let old := BitVec.ofNat 8 (v >>> k)
          v - old.toNat * 2 ^ k + ((old &&& ~~~c.2.2) ||| (c.2.1 &&& c.2.2)).toNat * 2 ^ k
        else v) v
    | .perm a l => if a = pa ∧ n = 64 then
        let d := Desc.ofNat v
        let m := (l.map (fun j => d.mapBit j)) ++ d.map.drop l.length
        v % 2 ^ 128 + mapNat m * 2 ^ 128 + v / 2 ^ 416 * 2 ^ 416
      else v
    | _ => v) v

/-- A chip-memory read of the running thread: its page checked, poisoned words refused, its read recorded
and its own buffered bytes merged (R104, R315, R419). -/
def chipLoad (pa n : Nat) : Sem Nat := do
  let s ← get
  match s.chipPoison pa n with
  | some a => trap cMCHECK (BitVec.ofNat 64 a)
  | none =>
    set (s.recordRead s.cur pa)
    pure (seeOwn s.th.entries pa n (s.pread pa n))

/-- The physical address of a chip-memory address for a load of the running thread; PROT elsewhere. -/
def chipAt (k : Acc) (ea : Word) : Sem Nat := do
  let p ← placeOf { kind := k, bytes := 8 } ea
  match p with
  | .chip pa => pure pa
  | _ => trap cPROT ea

/-- A valid handle (reason 1). -/
def handleOk (h : Word) : Sem Unit := do
  let s ← get
  if 4096 ≤ h.toNat ∨ s.myPart.ftbase = 0 then fieldBad 1 h

/-- The field is the base of a registered derived tensor, or one itself (R137). -/
def State.isBound (s : State) (p h : Nat) (d : Desc) : Bool :=
  d.state == 2 || s.rules.any (fun r => r.part == p && bitsN (r.image.getD 0 0).toNat 11 0 == h)

/-- The device's own spread position: the lowest entry that names it (R132). The reader gives 16-bit entries
of the spread table. -/
def ownSpread (devid : Nat) (rd : Nat → Nat) : Nat → Nat → Option Nat
  | 0, _ => none
  | n + 1, k => if rd k % 2 ^ 14 = devid then some k else ownSpread devid rd n (k + 1)

/-! ### Reads by other agents, at a level (R441) -/

/-- A read of `n` bytes of chip memory through a partition's tables, as performed: a value, or a cause. -/
def State.vread (s : State) (p : Nat) (lv : Level) (ea : Word) (n : Nat) : Except Nat Nat :=
  match regionOf ea with
  | .chip => match s.xlate p lv .load ea with
    | .error c => .error c
    | .ok pa => match s.chipPoison pa n with
      | some _ => .error cMCHECK
      | none => .ok (s.pread pa n)
  | _ => .error cPROT

/-- The descriptor of h as performed, and its physical address. -/
def State.descOf (s : State) (p : Nat) (lv : Level) (h : Nat) : Except Nat (Desc × Nat) :=
  let a := descAddr (s.part p).ftbase h
  match regionOf a with
  | .chip => match s.xlate p lv .load a with
    | .error c => .error c
    | .ok pa => if (s.chipPoison pa 64).isSome then .error cMCHECK else .ok (Desc.ofNat (s.pread pa 64), pa)
  | _ => .error cPROT

/-- An engine reads a spread table as loads at its home slices (R376). -/
def State.spreadLoads (s : State) (p : Nat) (lv : Level) (d : Desc) : State :=
  (List.range (2 ^ d.s)).foldl (fun (s : State) k =>
    let a := d.aux + BitVec.ofNat 64 (2 * k)
    match regionOf a, s.xlate p lv .load a with
    | .chip, .ok pa => s.sliceLoad pa 2
    | _, _ => s) s

/-- The own spread position of a field for an engine. -/
def State.spreadOf (s : State) (p : Nat) (lv : Level) (d : Desc) : Except Nat (Option Nat) :=
  if d.s = 0 then .ok (some 0)
  else
    (List.range (2 ^ d.s)).foldlM (fun (r : Option Nat) k => match r with
      | some x => .ok (some x)
      | none => do
        let v ← s.vread p lv (d.aux + BitVec.ofNat 64 (2 * k)) 2
        pure (if v % 2 ^ 14 = s.devid then some k else none)) none

/-- Is block b in the new layout (R133)? A field of one block is in the old one while ACTIVE = 1. -/
def State.blockNew (s : State) (p : Nat) (lv : Level) (d : Desc) (b : Nat) : Except Nat Bool :=
  if d.l ≤ 12 then .ok (!d.active)
  else do
    let v ← s.vread p lv (d.aux + BitVec.ofNat 64 (0x8000 + b / 8)) 1
    pure (v.testBit (b % 8) == d.phase)

/-- The physical runs of `n` bytes of storage from a virtual base, page by page, at level S. Pages that do
not translate leave gaps (R379). -/
def State.runsOf (s : State) (p : Nat) (base : Word) (n : Nat) : List Seg :=
  let first := base.toNat % 65536
  let pages := (first + n + 65535) / 65536
  (List.range pages).filterMap (fun k =>
    let off := if k = 0 then 0 else k * 65536 - first
    let len := min (n - off) (if k = 0 then 65536 - first else 65536)
    match s.xlate p .S .load (base + BitVec.ofNat 64 off) with
    | .ok pa => some ⟨off, pa, len⟩
    | .error _ => none)

/-- The physical runs that chip-memory pages map, whatever they permit (R261). -/
def State.mappedRuns (s : State) (p : Nat) (base : Word) (n : Nat) : List Seg :=
  let first := base.toNat % 65536
  let pages := (first + n + 65535) / 65536
  (List.range pages).filterMap (fun k =>
    let off := if k = 0 then 0 else k * 65536 - first
    let len := min (n - off) (if k = 0 then 65536 - first else 65536)
    let ea := base + BitVec.ofNat 64 off
    match regionOf ea, s.walk p ea.toNat with
    | .chip, some (leaf, big) => some ⟨off, leafPA leaf big ea.toNat, len⟩
    | _, _ => none)

/-- The offset in a field's storage of a physical address. -/
def offsetIn (gs : List Seg) (pa : Nat) : Option Nat :=
  gs.findSome? (fun g => if g.pa ≤ pa ∧ pa < g.pa + g.len then some (g.off + (pa - g.pa)) else none)

/-- The physical address of an offset. -/
def addrIn (gs : List Seg) (off : Nat) : Option Nat :=
  gs.findSome? (fun g => if g.off ≤ off ∧ off < g.off + g.len then some (g.pa + (off - g.off)) else none)

end Sys2Proof.Machine
end

