-- ==== Sys2Proof/Machine/Slice.lean ====
section
/-! DEFINITION. The cache slices: writes performed at home slices with their stale notices (R384 to R386),
recompute of derived lines (R387, R388), the trace rings (R317, R421). -/

namespace Sys2Proof.Machine

/-! ### Rules of derived tensors (R371, R382) -/

namespace Rule

def base (r : Rule) : Nat := bitsN (r.image.getD 0 0).toNat 11 0
def depth (r : Rule) : Nat := bitsN (r.image.getD 0 0).toNat 23 20
def kind (r : Rule) : Nat := bitsN (r.image.getD 1 0).toNat 1 0
/-- Byte j of ARG. -/
def arg (r : Rule) (j : Nat) : Nat := bitsN (r.image.getD (2 + j / 8) 0).toNat (8 * (j % 8) + 7) (8 * (j % 8))
def mask (r : Rule) : Nat := (r.image.getD 2 0).toNat
/-- The captured I4 table: at 0x10 for CAST, at 0x18 for SUMB (R382). -/
def tbl (r : Rule) : Tbl4 :=
  if r.kind = 1 then ⟨r.image.getD 2 0, r.image.getD 3 0⟩ else ⟨r.image.getD 3 0, r.image.getD 4 0⟩

/-- Packs the bits of y that the mask leaves, over `n` bits. -/
def squeeze (mask y i k : Nat) : Nat → Nat
  | 0 => 0
  | n + 1 => if mask.testBit i then squeeze mask y (i + 1) k n
             else b2n (y.testBit i) * 2 ^ k + squeeze mask y (i + 1) (k + 1) n

/-- Spreads x over the bits that the mask leaves, and z over the bits of the mask. -/
def unsqueeze (mask x z i k m : Nat) : Nat → Nat
  | 0 => 0
  | n + 1 => if mask.testBit i then b2n (z.testBit m) * 2 ^ i + unsqueeze mask x z (i + 1) k (m + 1) n
             else b2n (x.testBit k) * 2 ^ i + unsqueeze mask x z (i + 1) (k + 1) m n

/-- The derived logical index that base logical index y feeds (R383). -/
def forward (r : Rule) (n y : Nat) : Nat :=
  match r.kind with
  | 0 => (List.range n).foldl (fun x j => if y.testBit (r.arg j) then x ||| 2 ^ j else x) 0
  | 1 => y
  | _ => squeeze r.mask y 0 0 n

/-- The base logical indices that derived logical index x comes from (R383). -/
def backward (r : Rule) (n x : Nat) : List Nat :=
  match r.kind with
  | 0 => [(List.range n).foldl (fun y j => if x.testBit j then y ||| 2 ^ (r.arg j) else y) 0]
  | 1 => [x]
  | _ => (List.range (2 ^ popW r.mask 48)).map (fun z => unsqueeze r.mask x z 0 0 0 n)
where
  popW (m : Nat) : Nat → Nat
    | 0 => 0
    | k + 1 => b2n (m.testBit k) + popW m k

end Rule

/-- Where a position stands: the other layout's place while a halted remap has not reached its block. -/
def State.settleAt (s : State) (p : Nat) (d : Desc) (x : Nat) : Nat :=
  if d.active then
    match s.blockNew p .S d (d.blockOf x) with
    | .ok true => x
    | _ => Desc.swapBits x d.pc d.pv
  else x

/-- The descriptors of a rule: derived and base. -/
def State.ruleDescs (s : State) (r : Rule) : Except Nat (Desc × Desc) := do
  let (d, _) ← s.descOf r.part .S r.h
  let (b, _) ← s.descOf r.part .S r.base
  pure (d, b)

/-- The elements of a field that have a byte in a 256-byte line. -/
def elemsIn (d : Desc) (gs : List Seg) (line : Nat) : List Nat :=
  ((List.range 256).flatMap (fun i => match offsetIn gs (line * 256 + i) with
    | none => []
    | some o => if d.fmt = 5 then [2 * o, 2 * o + 1] else [o / d.size])).eraseDups.filter
      (fun x => decide (x < 2 ^ d.l))

/-- The 256-byte lines of derived storage that base line `line` feeds under one rule (R383). -/
def State.feeds (s : State) (r : Rule) (line : Nat) : List Nat :=
  match s.ruleDescs r with
  | .error _ => []
  | .ok (d, b) =>
    ((elemsIn b r.bsegs line).filterMap (fun x =>
      let y := b.unmapx (s.settleAt r.part b x)
      let q := d.mapx (r.forward b.n y)
      (addrIn r.segs (d.offset q)).map (fun a => a / 256))).eraseDups

/-- The closure of a line (R383): every derived line it feeds, through every level. -/
def State.closure (s : State) (line : Nat) : Nat → List Nat
  | 0 => []
  | n + 1 =>
    let direct := (s.rules.flatMap (fun r =>
      if r.bsegs.any (fun g => decide (g.pa / 256 ≤ line ∧ line * 256 < g.pa + g.len)) then s.feeds r line
      else [])).eraseDups
    (direct ++ direct.flatMap (fun l => s.closure l n)).eraseDups

/-- Would a notice of writes to some lines reach a line that its home slice no longer recomputes anew (R388)? The writes are
held back until it is installed, and so no other party sees them before their notices are acknowledged (R385; DEDUCED,
log 26). -/
def State.writeHeld (s : State) (lines : List Nat) : Bool :=
  s.rules != [] && s.recomputing.any (fun r => decide (16 ≤ r.2.1)) &&
    lines.any (fun l => (s.closure l 5).any (fun x => s.recomputing.any (fun r => r.1 == x && decide (16 ≤ r.2.1))))

/-- The lines of a run of storage. -/
def linesIn (gs : List Seg) : List Nat :=
  (gs.flatMap (fun g => (List.range ((g.pa + g.len + 255) / 256 - g.pa / 256)).map (fun k => g.pa / 256 + k))).eraseDups

/-! ### Notices (R384 to R386) -/

/-- A fresh number for a notice. -/
def State.noticeId (s : State) : Nat := s.notices.foldl (fun m n => max m (n.id + 1)) 0

/-- Sends a stale notice to one derived line. -/
def State.sendNotice (s : State) (w : Writer) (line : Nat) : State :=
  let id := s.noticeId
  let n : Notice := { id := id, line := line, waiting := w.tid, domain := w.domain, stamp := w.stamp }
  { s with notices := s.notices ++ [n] }.postNow .staleNoticeArrival { id := id }

/-- Every L1 copy of a 256-byte line is invalidated; a pin on it is released. -/
def Core.dropLine (c : Core) (line : Nat) : Core :=
  let gone := c.l1.filter (fun x => !x.tcm && x.line / 4 == line)
  if gone = [] then c
  else
    let pins := (gone.filter (fun x => x.pinned)).length
    { c with l1 := c.l1.filter (fun x => x.tcm || x.line / 4 != line),
             used := smSet 0 c.used c.part (smGet 0 c.used c.part - pins) }

def State.dropL1 (s : State) (line : Nat) : State :=
  s.cores.foldl (fun (s : State) x => s.setCore x.1 ((s.core x.1).dropLine line)) s

/-- STALE_NOTICE_ARRIVAL (R384, R386, R388). -/
def execStaleNoticeArrival (s : State) : Host.Outcome State Fault Refusal :=
  event (fun s => match s.notices.find? (fun n => n.id == s.ev.id) with
    | none => s
    | some n =>
      let s := { s with current := s.current.filter (fun l => l != n.line) }
      let s := (s.dropL1 n.line).abortReaders (Writer.mk n.domain n.stamp none) (n.line * 256)
      let late := s.recomputing.any (fun r => r.1 == n.line && decide (16 ≤ r.2.1))
      let s := { s with recomputing := s.recomputing.map (fun r =>
        if r.1 = n.line then (r.1, r.2.1, true) else r) }
      if late then s else s.postNow .staleNoticeAck { id := n.id }) s

/-- Remote operations whose stale notices are all acknowledged are acknowledged themselves (R346, R385). -/
def State.settleAcks (s : State) : State :=
  let waits (a : Nat × Packet) : Bool := s.notices.any (fun n => n.waiting == some a.1)
  (s.fabric.acks.filter (fun a => !(waits a))).foldl
    (fun (s : State) a => s.post 120 .packetForward { pkt := some a.2, port := 8 })
    { s with fabric := { s.fabric with acks := s.fabric.acks.filter waits } }

/-- STALE_NOTICE_ACK (R385): the notice is acknowledged; with its last one the write is visible, and acknowledged if it
is a remote one. -/
def execStaleNoticeAck (s : State) : Host.Outcome State Fault Refusal :=
  event (fun s => { s with notices := s.notices.filter (fun n => n.id != s.ev.id) }.settleAcks) s

/-! ### Trace rings (R317, R421) -/

/-- Writes an entry of a ring; a ring that wraps before it was drained posts an event of kind 3, with the count of the entries
that are lost then, one (R410). -/
def State.ringWrite (s : State) (p : Nat) (fab : Bool) (ws : List Word) : State :=
  let q := s.part p
  let n := if fab then q.fabn else q.racen
  let gone := if fab then q.fabGone else q.raceGone
  let base : Word := (q.trctl &&& ~~~0x3FFFF#64) + (if fab then 0x20000 else 0)
  let a := base + BitVec.ofNat 64 (32 * (n % 4096))
  let s := match regionOf a with
    | .chip => match s.xlate p .S .store a with
      | .ok pa =>
        let cs := (ws.zip (List.range 4)).flatMap (fun (x : Word × Nat) => cellsOf (pa + 8 * x.2) 8 x.1.toNat)
        s.chipWrite {} cs
      | .error _ => s
    | _ => s
  let s := s.modPart p (fun q => if fab then { q with fabn := n + 1 } else { q with racen := n + 1 })
  if n - gone = 4096 then s.event p 3 0 base 1 else s

/-- Does a thread's uncommitted segment write, or has it read, a 256-byte line (R317)? -/
def Thread.touches (t : Thread) (line : Nat) : Bool :=
  t.sig.contains (sigBit (line * 256)) ||
  t.entries.any (fun e => match e with
    | .store sec _ _ _ => sec / 4 == line
    | .amo pa _ _ _ => pa / 256 == line
    | .redf pa _ _ _ => pa / 256 == line
    | .perm pa _ => pa / 256 == line
    | .spill _ _ => false)

/-- The writer's word of a ring entry (R421). -/
def ringSource (dev cls core slot kind low : Nat) : Word :=
  BitVec.ofNat 64 (dev * 2 ^ 50 + cls * 2 ^ 48 + core * 2 ^ 38 + slot * 2 ^ 36 + kind * 2 ^ 32 + low % 2 ^ 32)

/-- RACE_LOG (R317): a committed write whose line an uncommitted segment of equal stamp has touched. -/
def State.raceLog (s : State) (w : Writer) (line : Nat) : State :=
  match w.domain, w.tid with
  | some (p, h), some tid =>
    if !((s.part p).trctl.toNat.testBit 0) then s
    else if s.threads.any (fun x => x.1 != tid && x.2.occ && x.2.inLaunch && x.2.part == p && x.2.launch == h
        && x.2.tstamp.toNat == w.stamp && x.2.touches line) then
      s.ringWrite p false [BitVec.ofNat 64 (line * 256), ringSource s.devid 0 (tid / 4) (tid % 4) 0 w.stamp,
        BitVec.ofNat 64 (smGet 0 s.orders (homeSlice (line * 256))), sextW h.toNat 48]
    else s
  | _, _ => s

/-! ### Writes at home slices -/

/-- A committed store, engine write, atomic or remote write, performed at its home slices: bytes, aborts,
the race log of a commit, and one stale notice to each line of the closure (R313, R316, R317, R384). -/
def State.homeWrite (s : State) (w : Writer) (cs : List Host.Cell) : State :=
  let s := s.chipWrite w cs
  (linesOf cs).foldl (fun (s : State) l =>
    let s := s.raceLog w l
    if s.rules = [] then s else (s.closure l 5).foldl (fun s x => s.sendNotice w x) s) s

/-- The writer that an engine of a thread is: no segment (R316, R324). -/
def engineWriter : Writer := {}

/-! ### Recompute (R387) -/

/-- Reads `n` bytes at an offset of runs of storage. -/
def State.segRead (s : State) (gs : List Seg) (off : Nat) : Nat → Except Nat Nat
  | 0 => .ok 0
  | n + 1 => match addrIn gs off with
    | none => .error cLOAD
    | some pa => match s.chipPoison pa 1 with
      | some _ => .error cMCHECK
      | none => do
        let rest ← s.segRead gs (off + 1) n
        pure ((smGet 0 s.mem pa).toNat + 256 * rest)

/-- The address of a base element: its page is translated as the recompute reaches it, at level S; one that does not
translate, or is not readable, is a page fault (R387, R404, R441). -/
def State.baseAt (s : State) (r : Rule) (b : Desc) (x : Nat) : Except Nat Nat :=
  let ea := b.base + BitVec.ofNat 64 (b.offset x)
  match regionOf ea with
  | .chip => match s.xlate r.part .S .load ea with
    | .ok pa => if isBlock pa then .error cLOAD else .ok pa
    | .error c => .error (if c = cMCHECK then cMCHECK else cLOAD)
  | _ => .error cLOAD

/-- The code of base element at logical index y. -/
def State.baseElem (s : State) (r : Rule) (b : Desc) (y : Nat) : Except Nat Nat := do
  let x := s.settleAt r.part b (b.mapx y)
  let pa ← s.baseAt r b x
  if (s.chipPoison pa b.size).isSome then throw cMCHECK
  pure (b.pick x (s.pread pa b.size))

/-- One element of a derived line (R387): PERM moves the code, CAST converts it, SUMB rounds the exact sum. -/
def State.derivedElem (s : State) (r : Rule) (d b : Desc) (x : Nat) : Except Nat Nat := do
  let codes ← (r.backward b.n x).mapM (fun y => s.baseElem r b y)
  match r.kind with
  | 0 => pure (codes.headD 0)
  | 1 => pure (convElem b.fmt d.fmt r.tbl 0 (codes.headD 0)).1
  | _ =>
    let vs := codes.map (fun c => decodeElem b.fmt r.tbl c)
    let re := sumVals 0 (vs.map (fun v => (v.1, false)))
    let im := sumVals 0 (vs.map (fun v => (v.2, false)))
    pure (roundElem d.fmt r.tbl 0 re im).1

/-- The addresses of the base elements that a derived line is computed from (R383). -/
def State.feedAddrs (s : State) (r : Rule) (d b : Desc) (line : Nat) : List Nat :=
  (elemsIn d r.segs line).flatMap (fun q =>
    (r.backward b.n (d.unmapx q)).filterMap (fun y => match s.baseAt r b (s.settleAt r.part b (b.mapx y)) with
      | .ok pa => some pa
      | .error _ => none))

/-- The base lines that a derived line is computed from (R383). -/
def State.feedSet (s : State) (r : Rule) (d b : Desc) (line : Nat) : List Nat :=
  ((s.feedAddrs r d b line).map (fun a => a / 256)).eraseDups

/-- What a recompute reads are loads at the home slices: both descriptors and the sectors of its base lines (R376, R396). -/
def State.feedLoads (s : State) (r : Rule) (d b : Desc) (line : Nat) : State :=
  let descs := [r.h, r.base].filterMap (fun h => match s.descOf r.part .S h with
    | .ok (_, pa) => some (pa / 64)
    | .error _ => none)
  ((descs ++ (s.feedAddrs r d b line).map (fun a => a / 64)).eraseDups).foldl (fun (s : State) x => s.sliceLoad (64 * x) 64) s

/-- The bytes of a derived line as its base stands: elements in place, zero beyond them (R379). -/
def State.lineBytes (s : State) (r : Rule) (d b : Desc) (line : Nat) : Except Nat Nat :=
  (elemsIn d r.segs line).foldlM (fun v q => do
    let c ← s.derivedElem r d b (d.unmapx q)
    match addrIn r.segs (d.offset q) with
    | none => pure v
    | some a =>
      let k := 8 * (a - line * 256)
      let old := bitsN v (k + 8 * d.size - 1) k
      pure (v - old * 2 ^ k + d.place q old c * 2 ^ k)) 0

/-- The rule whose derived storage holds a line. -/
def State.ruleAt (s : State) (line : Nat) : Option Rule :=
  s.rules.find? (fun r => r.segs.any (fun g => decide (g.pa / 256 ≤ line ∧ line * 256 < g.pa + g.len)))

/-- Installs a recomputed line: it is current. -/
def State.install (s : State) (line v : Nat) : State :=
  let cs := cellsOf (line * 256) 256 v
  let s := (s.sliceUse line (fun x => { x with v := 15 })).soil cs
  { s with mem := writeCells s.mem cs, current := line :: s.current.filter (fun l => l != line) }

/-- A recompute carried through at once, feeds first; for the reads of engines (R387). -/
def State.freshen (s : State) (line : Nat) : Nat → Except Nat State
  | 0 => .ok s
  | n + 1 =>
    if !(s.isStale (line * 256)) then .ok s
    else match s.ruleAt line with
      | none => .ok s
      | some r => do
        let (d, b) ← s.ruleDescs r
        let s ← (s.feedSet r d b line).foldlM (fun (s : State) f => s.freshen f n) s
        let v ← s.lineBytes r d b line
        pure ((s.feedLoads r d b line).install line v)

/-- The notices that a line's recompute has held back are acknowledged as it is over (R388, R393). -/
def State.ackLate (s : State) (line : Nat) : State :=
  (s.notices.filter (fun n => n.line == line)).foldl (fun (s : State) n => s.postNow .staleNoticeAck { id := n.id }) s

/-- Lines whose recompute waits for one of their feeds (R387). -/
def State.feeding (s : State) (line : Nat) : List Nat :=
  (s.recomputing.map (fun x => x.1)).filter (fun x => match s.ruleAt x with
    | some r => match s.ruleDescs r with
      | .ok (d, b) => (s.feedSet r d b x).contains line
      | .error _ => false
    | none => false)

/-- A recompute fails: its waiting loads learn it, and so do those of the lines that it feeds (R387); an uncorrectable error
posts an event of kind 2 (R419). -/
def State.failLine (s : State) (line cause : Nat) : Nat → State
  | 0 => s
  | n + 1 =>
    let hit (t : Thread) : Thread := match t.wait with
      | some ⟨.stale l, _⟩ => if l = line then { t with lineFault := some cause } else t
      | _ => t
    let outer := s.feeding line
    let s := if cause = cMCHECK then (match s.ruleAt line with
        | some r => s.event r.part 2 cMCHECK 0 (BitVec.ofNat 64 (line * 256))
        | none => s) else s
    let s := { s with threads := s.threads.map (fun (x : Nat × Thread) => (x.1, hit x.2)) }
    outer.foldl (fun (s : State) l => s.failLine l cause n) ((s.endRecompute line).ackLate line)

/-- RECOMPUTE_COMPLETE (R387, R388): stale feeds are recomputed first and the recompute starts over on its
restart flag; otherwise the line is installed, its late notices are acknowledged, waiting loads go on. -/
def execRecomputeComplete (s : State) : Host.Outcome State Fault Refusal :=
  event (fun s =>
    let line := s.ev.pa
    let again (s : State) : State := s.post 16 .recomputeComplete { pa := line }
    match s.recomputing.find? (fun r => r.1 == line), s.ruleAt line with
    | none, _ => s
    | some _, none => (s.endRecompute line).ackLate line
    | some (_, k, flag), some r => match s.ruleDescs r with
      | .error e => s.failLine line (if e = cMCHECK then cMCHECK else cLOAD) 5
      | .ok (d, b) =>
        let stale := (s.feedSet r d b line).filter (fun f => s.isStale (f * 256))
        if stale ≠ [] then again (stale.foldl (fun s f => s.startRecompute f) s)
        else if flag && decide (k < 16) then
          again { s with recomputing := s.recomputing.map (fun x =>
            if x.1 = line then (line, k + 1, false) else x) }
        else match s.lineBytes r d b line with
          | .error c => s.failLine line c 5
          | .ok v =>
            let s := ((s.feedLoads r d b line).install line v).endRecompute line
            if 16 ≤ k then s.ackLate line else s) s

/-! ### Reads and writes of engines, through a partition's tables (R324, R441) -/

/-- A read by an engine at a level: stale derived lines are recomputed first. A control block or a partition block, which
takes the accesses of threads only (R346), gives PROT (R246, R401; DEDUCED, log 97). -/
def State.engineRead (s : State) (p : Nat) (lv : Level) (ea : Word) (n : Nat) : Except Nat (Nat × State) :=
  match s.xlate p lv .load ea with
  | .error c => .error c
  | .ok pa => if isBlock pa then .error cPROT else do
    let s ← (s.walkLoads p ea.toNat).freshen (pa / 256) 5
    let s ← s.freshen ((pa + n - 1) / 256) 5
    match s.chipPoison pa n with
    | some _ => .error cMCHECK
    | none => pure (s.pread pa n, s.sliceLoad pa n)

/-- A write by an engine at a level: refused in derived storage; an engine write under R316. -/
def State.engineWrite (s : State) (p : Nat) (lv : Level) (ea : Word) (n v : Nat) : Except Nat State :=
  match s.xlate p lv .store ea with
  | .error c => .error c
  | .ok pa => if s.isDerived pa then .error cDWRITE
    else .ok ((s.walkLoads p ea.toNat).homeWrite engineWriter (cellsOf pa n v))

end Sys2Proof.Machine
end

