-- ==== Sys2Proof/Machine/Commit.lean ====
section
/-! DEFINITION. The commit area and segment commit (R312 to R317), the atomics' arithmetic (R326), and
sequence-indexed reductions at their home slices (R327 to R330). -/

namespace Sys2Proof.Machine

/-! ### Entries -/

/-- Does an entry stand in a 64-byte sector? -/
def Entry.inSector (e : Entry) (sec : Nat) : Bool :=
  match e with
  | .store s _ _ _ => s == sec
  | .amo pa _ _ _ => pa / 64 == sec
  | .redf pa _ _ _ => pa / 64 == sec
  | .perm pa _ => pa / 64 == sec
  | .spill _ _ => false

/-- Buffered bits: address, value, mask. -/
abbrev MCell := Nat × Byte × Byte

/-- New bits over old ones. -/
def mergeCells (old new : List MCell) : List MCell :=
  new.foldl (fun m c =>
    match m.find? (fun d => d.1 == c.1) with
    | some d => m.map (fun x => if x.1 = c.1 then
        (c.1, (d.2.1 &&& ~~~c.2.2) ||| (c.2.1 &&& c.2.2), d.2.2 ||| c.2.2) else x)
    | none => m ++ [c]) old

/-- The bytes that buffered bits leave over memory. -/
def State.settleCells (s : State) (cs : List MCell) : List Host.Cell :=
  cs.map (fun c => (c.1, (smGet 0 s.mem c.1 &&& ~~~c.2.2) ||| (c.2.1 &&& c.2.2)))

/-- Adds stored bytes to the last entry of the sector if it is a store (entries newest first). -/
def joinStore (sec : Nat) (cs : List MCell) (ws : List Nat) (xs : List ElemStore) : List Entry → Option (List Entry)
  | [] => none
  | e :: es =>
    if e.inSector sec then
      match e with
      | .store s old ow ox =>
        some (.store s (mergeCells old cs) (ow ++ ws.filter (fun w => !(ow.contains w))) (ox ++ xs) :: es)
      | _ => none
    else (joinStore sec cs ws xs es).map (fun r => e :: r)

/-- The commit area holds 480 entries; a full one makes the segment commit, a speculative one wait (R313,
R315). -/
def areaRoom : Sem Unit := do
  let s ← get
  if entryCount s.th.entries ≥ 480 then
    if s.above s.th then block .spec else block .commit

/-- Buffers stored bits within one sector of chip memory (R104, R313). -/
def bufferCells (pa : Nat) (cs : List MCell) (waits : List Nat) (elems : List ElemStore := []) : Sem Unit := do
  let s ← get
  match joinStore (pa / 64) cs waits elems s.th.entries.reverse with
  | some es => set (s.modTh (fun t => { t with entries := es.reverse }))
  | none =>
    areaRoom
    set (s.modTh (fun t => { t with entries := t.entries ++ [.store (pa / 64) cs waits elems] }))

/-- Buffers `n` stored bytes. -/
def bufferStore (pa n v : Nat) (waits : List Nat) : Sem Unit :=
  bufferCells pa ((cellsOf pa n v).map (fun c => (c.1, c.2, 0xFF))) waits

/-- Buffers an entry of its own (R313). -/
def bufferEntry (e : Entry) : Sem Unit := do
  areaRoom
  modify (fun s => s.modTh (fun t => { t with entries := t.entries ++ [e] }))

/-! ### Atomics (R326) -/

/-- new := old op t over w bytes; the operations in the order of R51. -/
def amoNew (op w old t : Nat) : Nat :=
  let m : Nat := 2 ^ (8 * w)
  let sg (x : Nat) : Int := if x.testBit (8 * w - 1) then (x : Int) - (m : Int) else x
  match op with
  | 0 => (old + t) % m
  | 1 => old &&& t
  | 2 => old ||| t
  | 3 => old ^^^ t
  | 4 => if sg t < sg old then t else old
  | 5 => if sg old < sg t then t else old
  | 6 => min old t
  | 7 => max old t
  | _ => t

/-! ### Reductions (R327, R328) -/

/-- The writer of a REDF entry. -/
def redfWriter (e : RedfEntry) : Writer :=
  ⟨if e.inLaunch then some (e.part, e.launch) else none, e.stamp, some e.tid⟩

/-- mem := round(exact mem + value, FP32, RM); the flags go to the issuing cluster's STICKY (R327). A poisoned word stays as it
is, with an event of kind 2 (R418, R419). -/
def State.redfApply (s : State) (e : RedfEntry) : State :=
  if (s.chipPoison e.pa 4).isSome then
    s.event e.part 2 cMCHECK (s.thread e.tid).record (BitVec.ofNat 64 (e.pa % 2 ^ 48))
  else
  let s := s.sliceLoad e.pa 4
  let old := s.pread e.pa 4
  let r := roundIeee 24 e.rm (sumVals e.rm [(decodeIeee 23 old, false), (decodeIeee 23 e.val.toNat, false)]).1
  let nv := (sumVals e.rm [(decodeIeee 23 old, false), (decodeIeee 23 e.val.toNat, false)]).2
  let s := s.homeWrite (redfWriter e) (cellsOf e.pa 4 r.1)
  s.modCluster (e.tid / 32) (fun k => if r.2 ||| flagIf nv fNV = 0 then k else k.stick s.clk (r.2 ||| flagIf nv fNV))

def State.slotAt (s : State) (pa : Nat) : Option Slot := s.slots.find? (fun x => x.pa == pa)
def State.setSlot (s : State) (x : Slot) : State :=
  { s with slots := s.slots.map (fun y => if y.pa = x.pa then x else y) }

/-- Applies the buffered entries that have come due (R328). -/
def State.drainSlot (s : State) (pa : Nat) : Nat → State
  | 0 => s
  | n + 1 => match s.slotAt pa with
    | none => s
    | some x => match x.held.find? (fun e => e.idx.toNat == x.next) with
      | none => s
      | some e =>
        let s := s.redfApply e
        let s := s.setSlot { x with next := x.next + 1, since := s.clk,
                                    held := x.held.erase e }
        s.drainSlot pa n

/-- While a slot holds entries, the time without progress runs from `since` (R330). -/
def State.stallTimer (s : State) (pa : Nat) : State :=
  match s.slotAt pa with
  | some x => if x.held = [] then s else s.post (2 ^ 20) .reduceStallTimeout { pa := pa, since := x.since }
  | none => s

/-- What becomes of an entry at its home slice: the state, and whether it was refused (R328). -/
def State.redfArrive (s : State) (e : RedfEntry) : State × Bool :=
  match s.slotAt e.pa with
  | none => (s.redfApply e, false)
  | some x =>
    let i := e.idx.toNat
    if i < x.next then (s.setSlot { x with drop := x.drop + 1 }, false)
    else if i = x.next then
      let s := s.redfApply e
      (((s.setSlot { x with next := x.next + 1, since := s.clk }).drainSlot e.pa 64).stallTimer e.pa, false)
    else
      let used : Nat := s.slots.foldl (fun n y => if homeSlice y.pa = homeSlice e.pa then n + y.held.length else n) 0
      if x.next + 64 ≤ i ∨ 64 ≤ used then (s, true)
      else
        let s' := s.setSlot { x with held := x.held ++ [e], since := if x.held = [] then s.clk else x.since }
        (if x.held = [] then s'.stallTimer e.pa else s', false)

/-- A write to a line in replay mode (R423): the captured entries that are left, or nothing where it is held, because its line
is logged and the slice's next entry is not this writer's. The writer is told by its core, slot and stamp (DESIGN CHOICE,
log 104). -/
def replayWrite (key : Word) (rs : List (Nat × Nat × Word)) (a : Nat) : Option (List (Nat × Nat × Word)) :=
  let a := a / 256 * 256
  let logged := rs.filter (fun r => r.1 == homeSlice a)
  if !(logged.any (fun r => r.2.1 == a)) then some rs
  else match logged with
    | r :: _ => if r.2.1 = a ∧ r.2.2 = key then some (rs.erase r) else none
    | [] => some rs

/-- The replay of writes of a thread at some addresses: the entries that are left, or nothing where they are held. -/
def State.replayWrites (s : State) (tid stamp : Nat) (as : List Nat) : Option (List (Nat × Nat × Word)) :=
  let q := s.part (s.thread tid).part
  if q.trctl.toNat.testBit 3 then as.foldlM (replayWrite (ringSource s.devid 0 (tid / 4) (tid % 4) 0 stamp)) q.replay
  else some q.replay

/-- Logged writes that have been performed leave the list that replay follows. -/
def State.replayDone (s : State) (tid stamp : Nat) (as : List Nat) : State :=
  if (s.part (s.thread tid).part).trctl.toNat.testBit 3 then
    match s.replayWrites tid stamp as with
    | some rs => s.modPart (s.thread tid).part (fun q => { q with replay := rs })
    | none => s
  else s

/-- An entry reaches its slice: the committing thread has one fewer outstanding, or the port tries again. -/
def State.redfStep (s : State) (e : RedfEntry) : State :=
  if s.writeHeld [e.pa / 256] || (s.replayWrites e.tid e.stamp [e.pa]).isNone then s.post 1 .redfEntryArrival { tid := e.tid, redf := some e }
  else match (s.replayDone e.tid e.stamp [e.pa]).redfArrive e with
  | (_, true) => s.post Config.redfRetry .redfEntryRetry { tid := e.tid, redf := some e }
  | (s, false) => s.modThread e.tid (fun t => { t with redfOut := t.redfOut - 1 })

/-- REDF_ENTRY_ARRIVAL (R328). -/
def execRedfEntryArrival (s : State) : Host.Outcome State Fault Refusal :=
  event (fun s => match s.ev.redf with
    | some e => s.redfStep e
    | none => s) s

/-- REDF_ENTRY_RETRY (R328): 64 clk after its refusal the entry is sent again. -/
def execRedfEntryRetry (s : State) : Host.Outcome State Fault Refusal :=
  event (fun s => match s.ev.redf with
    | some e => s.redfStep e
    | none => s) s

/-- A pending REDUCE_STALL for a continuation: in its slot, or kept until its resumption (R330). -/
def State.stallOwner (s : State) (p : Nat) (r : Word) (f : Flt) : State :=
  match s.threads.find? (fun x => x.2.occ && x.2.part == p && x.2.record == r) with
  | some (tid, t) => s.setThread tid { t with pendReduce := t.pendReduce <|> some f }
  | none => match s.cont p r with
    | some c => s.setCont p r (some { c with pendReduce := c.pendReduce <|> some f })
    | none => s

/-- REDUCE_STALL_TIMEOUT (R330): no progress for 2^20 clk while entries are held. -/
def execReduceStallTimeout (s : State) : Host.Outcome State Fault Refusal :=
  event (fun s => match s.slotAt s.ev.pa with
    | none => s
    | some x =>
      if x.held ≠ [] && x.since == s.ev.since then
        s.stallOwner x.ownerPart x.owner ⟨cRSTALL, BitVec.ofNat 64 x.pa⟩
      else s) s

/-! ### Commit (R313) -/

/-- A field's BUSY bit, at the descriptor's physical address (R128). -/
def State.descBusy (s : State) (pa : Nat) : Bool := (s.pread (pa + 0x34) 4).testBit 31

/-- May every entry be performed now (R140, R152)? -/
def State.entriesFree (s : State) (es : List Entry) : Bool :=
  es.all (fun e => match e with
    | .store _ _ ws _ => ws.all (fun w => !(s.descBusy w))
    | _ => true)

/-- The 256-byte lines that the entries of a commit write. -/
def entryLines (es : List Entry) : List Nat :=
  (es.filterMap (fun e => match e with
    | .store sec _ _ _ => some (sec / 4)
    | .amo pa _ _ _ => some (pa / 256)
    | .redf pa _ _ _ => some (pa / 256)
    | .perm pa _ => some (pa / 256)
    | .spill _ _ => none)).eraseDups

/-- Performs one entry that is no REDF: stores, atomics, relabellings composed onto the map as it stands, frame
writes of spills (R65, R147, R313, R326). -/
def State.performEntry (s : State) (w : Writer) (e : Entry) : State :=
  match e with
  | .store _ cs _ _ => s.homeWrite w (s.settleCells cs)
  | .amo pa op n t =>
    (s.sliceLoad pa n).homeWrite w (cellsOf pa n (amoNew op n (s.pread pa n) (t.toNat % 2 ^ (8 * n))))
  | .perm pa l =>
    let d := Desc.ofNat (s.pread pa 64)
    let m := l.map (fun j => d.mapBit j) ++ d.map.drop l.length
    s.homeWrite w (cellsOf (pa + 0x10) 36 (mapNat m))
  | .spill _ cs => s.placeWrite (w.tid.getD 0 / 4) cs (placeOfCode (cs.headD (0, 0)).1)
  | .redf _ _ _ _ => s

/-- Performs entries in program order up to the first REDF, which is sent to its slice; the rest follow it. -/
def State.commitRun (s : State) (tid : Nat) (w : Writer) : List Entry → State × List Entry
  | [] => (s, [])
  | .redf pa v i rm :: es =>
    let t := s.thread tid
    let e : RedfEntry := ⟨pa, v, i, rm, tid, t.part, t.launch, t.inLaunch, t.tstamp.toNat⟩
    let s := s.postNow .segmentCommitComplete { tid := tid }
    let s := s.postNow .redfEntryArrival { tid := tid, redf := some e }
    (s.modThread tid (fun t => { t with redfOut := t.redfOut + 1 }), es)
  | e :: es => (s.performEntry w e).commitRun tid w es

/-- The addresses of what a commit performs before its first REDF. -/
def replayAddrs : List Entry → List Nat
  | [] => []
  | .redf _ _ _ _ :: _ => []
  | .store sec _ _ _ :: es => 64 * sec :: replayAddrs es
  | .amo pa _ _ _ :: es => pa :: replayAddrs es
  | .perm pa _ :: es => pa :: replayAddrs es
  | .spill _ _ :: es => replayAddrs es

/-- Replay holds a committed write back until the logged writes before it have been performed (R423). -/
def State.replayHolds (s : State) (tid : Nat) : Bool :=
  (s.replayWrites tid (s.thread tid).tstamp.toNat (replayAddrs (s.thread tid).entries)).isNone

/-- A segment above its domain minimum does not commit (R314), but for a pre-emption, at which every segment that is not
speculative does (R283). -/
def State.commitHeld (s : State) (tid : Nat) : Bool :=
  let t := s.thread tid
  s.speculative t || (s.above t && !(s.core (tid / 4)).preempted)

/-- The first poisoned entry of a commit area, else the first poisoned word that one of its entries would read at its home
slice: EINFO of the MACHINE_CHECK that ends the commit before any of its entries is performed (R419, R420). -/
def State.badEntry (s : State) (tid : Nat) : Option Word :=
  if s.poison = [] then none
  else
    let es := (s.thread tid).entries
    match s.poison.findSome? (fun p => match p with
      | .area t n => if t = tid ∧ n < es.length then some n else none
      | _ => none) with
    | some n => some (BitVec.ofNat 64 (2 ^ 63 + n % 1024 * 2 ^ 48))
    | none => (es.findSome? (fun e => match e with
      | .amo pa _ n _ => s.chipPoison pa n
      | .redf pa _ _ _ => s.chipPoison pa 4
      | .perm pa _ => s.chipPoison pa 64
      | _ => none)).map (fun a => BitVec.ofNat 64 (a % 2 ^ 48))

/-- SEGMENT_COMMIT_COMPLETE (R313, R314): every entry is performed in program order, all together; a new segment
then begins at the waiting instruction. A segment above its domain minimum, one whose field is busy, one that replay holds
back and one whose notices would be late (R388) wait, and try again after 16 clk (DESIGN CHOICE, log 94). -/
def execSegmentCommitComplete (s : State) : Host.Outcome State Fault Refusal :=
  event (fun s =>
    let tid := s.ev.tid
    let t := s.thread tid
    if t.entries = [] then s
    else if s.commitHeld tid || !(s.entriesFree t.entries) || s.replayHolds tid || s.writeHeld (entryLines t.entries) then
      s.post 16 .segmentCommitComplete { tid := tid }
    else if let some info := s.badEntry tid then (s.clearArea tid).raise tid ⟨cMCHECK, info⟩
    else
      let s := s.replayDone tid t.tstamp.toNat (replayAddrs t.entries)
      let (s, rest) := s.commitRun tid (s.writerOf tid) t.entries
      let s := s.modThread tid (fun t => { t with entries := rest })
      if rest = [] then s.newSegment tid else s) s

end Sys2Proof.Machine
end

