-- ==== Sys2Proof/Machine/Memory.lean ====
section
/-! DEFINITION. Scalar memory instructions (R101 to R110), the full-empty instructions (R107), pinning and
line operations (R75, R108, R109), and accesses of chip memory through the L1 (R104, R106). -/

namespace Sys2Proof.Machine

/-! ### Accesses -/

/-- A line is in the L1, or the access waits for it (R106). -/
def l1Need (line : Nat) (isTcm dirty : Bool) : Sem Unit := do
  let s ← get
  if s.myCore.hasLine line isTcm || s.th.opDone then
    set ((s.modTh (fun t => { t with opDone := false })).l1Touch s.cid line isTcm dirty)
  else block (.miss line isTcm)

/-- `n` bytes that an access over the mesh has brought back; without them it is sent, once the thread's earlier stores
to other clusters have arrived (R310). -/
def meshFetch (cl off n : Nat) : Sem Nat := do
  let s ← get
  match s.th.meshVal with
  | some v => do
    set (s.modTh (fun t => { t with meshVal := none }))
    pure v
  | none =>
    if s.th.meshOut ≠ 0 then block .stores
    block (.mesh cl off n)

/-- An access to another cluster's scratchpad: it is performed once it has arrived there (R310). The value that a load
brought back, if it was a load. -/
def meshAccess (cl off n : Nat) : Sem Nat := do
  let s ← get
  if cl = s.kid then pure 0 else meshFetch cl off n

/-- MACHINE_CHECK on a poisoned word (R419, R420): SRC 0 and its address. -/
def refusePoison (p : Option Nat) : Sem Unit :=
  match p with
  | some a => trap cMCHECK (BitVec.ofNat 64 a)
  | none => pure ()

/-- A chip-memory load: a stale derived line is recomputed first, a missing line is fetched (R104, R380). -/
def chipLoadThrough (ea : Word) (pa n : Nat) : Sem Nat := do
  let s ← get
  match s.th.lineFault with
  | some c => trap c ea
  | none => pure ()
  if s.isStale pa then block (.stale (pa / 256))
  l1Need (pa / 64) false false
  chipLoad pa n

/-- While the boundary moves, accesses to the unit concerned wait (R72). -/
def unitFree (off : Nat) : Sem Unit := do
  let s ← get
  if s.myCore.unitMoving off then block .room

/-- The value of `n` bytes where a checked load falls (R104). -/
def loadPlace (p : Place) (ea : Word) (n : Nat) : Sem Nat := do
  let s ← get
  match p with
  | .tcm off =>
    unitFree off
    if off ≥ s.myCore.tcmUnits * 0x10000 && !s.myCore.test then
      l1Need (overflowLine s.cid off) true false
    let s ← get
    refusePoison (s.tcmPoison s.cid off n)
    pure (readB s.myCore.tcm off n)
  | .spad cl off =>
    let v ← meshAccess cl off n
    let s ← get
    refusePoison (s.spadPoison cl off n)
    pure (if cl = s.kid then s.myCluster.read off n else v)
  | .bank key => pure (readB s.myCluster.spad key n)
  | .chip pa => chipLoadThrough ea pa n
  | .ctl cl off => pure (s.ctlRead cl off).toNat
  | .block p off => pure (s.blockRead p off).toNat

/-- A load: its checks, then its value (R102, R103). -/
def loadN (ea : Word) (n : Nat) : Sem Nat := do
  let p ← check (.load n) ea
  loadPlace p ea n

/-- The place of a byte that a thread can store to, as one number (R309). -/
def Place.code (cid : Nat) : Place → Option Nat
  | .chip pa => some ((FramePlace.chip pa).code cid)
  | .tcm off => some ((FramePlace.tcm off).code cid)
  | .spad cl off => some ((FramePlace.spad cl off).code cid)
  | _ => none

/-- A scalar store issued while the thread's vector instructions are queued is placed behind their stores (R243, R309):
its bytes are kept in mind until the queue is empty. -/
def noteStored (p : Place) (n : Nat) (mask : Byte) : Sem Unit := do
  let s ← get
  if s.th.vuq = [] && s.th.capture.cmds = [] then pure ()
  else match p.code s.cid with
    | none => pure ()
    | some c => set (s.modTh (fun t => { t with
        stored := t.stored ++ (List.range n).map (fun k => (c + k, mask.toNat, s.clk)) }))

/-- The bits of a byte that a thread's scalar stores after clk `c` have taken (R309). -/
def Thread.storedAfter (t : Thread) (c code : Nat) : Byte :=
  BitVec.ofNat 8 (t.stored.foldl (fun m x => if x.1 = code ∧ c < x.2.2 then m ||| x.2.1 else m) 0)

/-- A store where its checks let it fall: buffered in chip memory, performed elsewhere, where it is
irrevocable (R104, R315). -/
def storePlace (p : Place) (n v : Nat) : Sem Unit := do
  noteStored p n 0xFF
  match p with
  | .chip pa => bufferStore pa n v []
  | .tcm off =>
    irrevocable
    unitFree off
    let s ← get
    if off ≥ s.myCore.tcmUnits * 0x10000 && !s.myCore.test then
      l1Need (overflowLine s.cid off) true true
    modify (fun s => s.tcmWrite s.cid off n v)
  | .spad cl off =>
    irrevocable
    let s ← get
    if cl = s.kid then set (s.spadWrite cl off n v)
    else set ((s.modTh (fun t => { t with meshOut := t.meshOut + 1 })).post 12 .scratchpadAccessArrival
      { tid := s.cur, spad := some ⟨s.cur, cl, off, n, BitVec.ofNat 64 v⟩ })
  | .bank key => modify (fun s => s.bankWrite s.kid key v)
  | .ctl cl off =>
    irrevocable
    modify (fun s => s.ctlWrite cl off (BitVec.ofNat 64 v))
  | .block p off =>
    irrevocable
    modify (fun s => s.blockWrite p off (BitVec.ofNat 64 v))

/-- A store: its checks, then its effect. -/
def storeN (ea : Word) (n v : Nat) : Sem Unit := do
  let p ← check (.store n) ea
  storePlace p n v

/-- `n` bytes of the scratchpads, whose windows follow one another (R103). -/
def State.spadsRead (s : State) (cl off : Nat) : Nat → Nat
  | 0 => 0
  | n + 1 => (s.cluster (cl + off / 0x400000)).read (off % 0x400000) 1 + 256 * s.spadsRead cl (off + 1) n

/-- SCRATCHPAD_ACCESS_ARRIVAL (R310): a store is performed at the bank; a load's value goes back. -/
def execScratchpadAccessArrival (s : State) : Host.Outcome State Fault Refusal :=
  event (fun s => match s.ev.spad with
    | some x =>
      (s.spadWrite x.cl x.off x.bytes x.val.toNat).modThread x.tid (fun t => { t with meshOut := t.meshOut - 1 })
    | none =>
      match (s.thread s.ev.tid).wait with
      | some ⟨.mesh _ _ _, since⟩ =>
        if since = s.ev.since then
          let v := s.spadsRead s.ev.cl s.ev.off s.ev.n
          s.modThread s.ev.tid (fun t => { t with meshVal := some v })
        else s
      | _ => s) s

/-- L1_MISS_RETURN (R106): the line is in the core's L1, and the load that waits for it goes on. What a PREF or CACHEOP op 3
brings in is no sampled access of R71 (DESIGN CHOICE, log 100); a load samples as it completes. -/
def execL1MissReturn (s : State) : Host.Outcome State Fault Refusal :=
  event (fun s =>
    let s := s.l1Install s.ev.core s.ev.pa s.ev.ok false
    match (s.thread s.ev.tid).wait with
    | some ⟨.miss line _, since⟩ =>
      if line = s.ev.pa ∧ since = s.ev.since then s.modThread s.ev.tid (fun t => { t with opDone := true }) else s
    | _ => s) s

/-! ### Loads -/

/-- A load into an s register. -/
def loadS (n : Nat) (f : Nat → Word) (o : Mem) (s : State) : Host.Outcome State Fault Refusal :=
  plain (do
    let ea ← o.loadEa
    let v ← loadN ea n
    writeS o.d (f v)) s

/-- A load into an f register. -/
def loadF (n : Nat) (o : Mem) (s : State) : Host.Outcome State Fault Refusal :=
  plain (do
    noTest
    let ea ← o.loadEa
    let v ← loadN ea n
    writeF o.d (BitVec.ofNat 64 v)) s

/-- LB (R101). -/
def execLb (o : Mem) (s : State) : Host.Outcome State Fault Refusal := loadS 1 (fun v => sextW v 8) o s
/-- LBU (R101). -/
def execLbu (o : Mem) (s : State) : Host.Outcome State Fault Refusal := loadS 1 (fun v => BitVec.ofNat 64 v) o s
/-- LH (R101). -/
def execLh (o : Mem) (s : State) : Host.Outcome State Fault Refusal := loadS 2 (fun v => sextW v 16) o s
/-- LHU (R101). -/
def execLhu (o : Mem) (s : State) : Host.Outcome State Fault Refusal := loadS 2 (fun v => BitVec.ofNat 64 v) o s
/-- LW (R101). -/
def execLw (o : Mem) (s : State) : Host.Outcome State Fault Refusal := loadS 4 (fun v => sextW v 32) o s
/-- LWU (R101). -/
def execLwu (o : Mem) (s : State) : Host.Outcome State Fault Refusal := loadS 4 (fun v => BitVec.ofNat 64 v) o s
/-- LD (R101). -/
def execLd (o : Mem) (s : State) : Host.Outcome State Fault Refusal := loadS 8 (fun v => BitVec.ofNat 64 v) o s
/-- LDF: all 64 bits (R101). -/
def execLdf (o : Mem) (s : State) : Host.Outcome State Fault Refusal := loadF 8 o s
/-- LWF: bits [63:32] become zero (R101). -/
def execLwf (o : Mem) (s : State) : Host.Outcome State Fault Refusal := loadF 4 o s

/-! ### Stores -/

/-- A store of an s register. -/
def storeS (n : Nat) (o : Mem) (s : State) : Host.Outcome State Fault Refusal :=
  plain (do
    let (v, ea) ← o.storeEa
    storeN ea n v.toNat) s

/-- A store of an f register. -/
def storeF (n : Nat) (o : Mem) (s : State) : Host.Outcome State Fault Refusal :=
  plain (do
    let (v, ea) ← o.storeEaF
    storeN ea n v.toNat) s

/-- SB (R101). -/
def execSb (o : Mem) (s : State) : Host.Outcome State Fault Refusal := storeS 1 o s
/-- SH (R101). -/
def execSh (o : Mem) (s : State) : Host.Outcome State Fault Refusal := storeS 2 o s
/-- SW (R101). -/
def execSw (o : Mem) (s : State) : Host.Outcome State Fault Refusal := storeS 4 o s
/-- SD (R101). -/
def execSd (o : Mem) (s : State) : Host.Outcome State Fault Refusal := storeS 8 o s
/-- SDF (R101). -/
def execSdf (o : Mem) (s : State) : Host.Outcome State Fault Refusal := storeF 8 o s
/-- SWF (R101). -/
def execSwf (o : Mem) (s : State) : Host.Outcome State Fault Refusal := storeF 4 o s

/-! ### Full-empty instructions (R107) -/

/-- The scratchpad place of a full-empty access, with its checks. -/
def fePlace (k : AccKind) (ea : Word) : Sem (Nat × Nat) := do
  let p ← check { k with fe := true } ea
  match p with
  | .spad cl off => pure (cl, off)
  | _ => trap cPROT ea

/-- LDFE (R107): waits until the granule is full; .c empties it. One that has waited finds the value that the bank has
sent it. -/
def execLdfe (o : Mem) (keep : Bool) (s : State) : Host.Outcome State Fault Refusal :=
  plain (do
    let ea ← o.loadEa
    let (cl, off) ← fePlace (.load 8) ea
    if !keep then irrevocable
    destFree (writeS o.d 0)
    let s ← get
    match s.th.meshVal with
    | some v =>
      set (s.modTh (fun t => { t with meshVal := none }))
      writeS o.d (BitVec.ofNat 64 v)
    | none =>
      if cl ≠ s.kid && s.th.meshOut ≠ 0 then block .stores
      if !(smGet false (s.cluster cl).full (off / 16)) then block (.granule cl (off / 16) ea keep)
      refusePoison (s.spadPoison cl off 8)
      if !keep then set (s.setEmpty cl (off / 16))
      writeS o.d (BitVec.ofNat 64 ((s.cluster cl).read off 8))) s

/-- STFE: stores and sets the granule full, full or not (R107). -/
def execStfe (o : Mem) (s : State) : Host.Outcome State Fault Refusal :=
  plain (do
    let (v, ea) ← o.storeEa
    let (cl, off) ← fePlace (.store 8) ea
    irrevocable
    let _ ← meshAccess cl off 0
    noteStored (.spad cl off) 8 0xFF
    modify (fun s => (s.spadWrite cl off 8 v.toNat).setFull cl (off / 16))) s

/-- FESET (R107). -/
def execFeset (o : Line) (s : State) : Host.Outcome State Fault Refusal :=
  plain (do
    let ea ← o.ea
    let (cl, off) ← fePlace { kind := .store, bytes := 1, aligned := false } ea
    irrevocable
    let _ ← meshAccess cl off 0
    modify (fun s => s.setFull cl (off / 16))) s

/-- FECLR (R107). -/
def execFeclr (o : Line) (s : State) : Host.Outcome State Fault Refusal :=
  plain (do
    let ea ← o.ea
    let (cl, off) ← fePlace { kind := .store, bytes := 1, aligned := false } ea
    irrevocable
    let _ ← meshAccess cl off 0
    modify (fun s => s.setEmpty cl (off / 16))) s

/-- The thread is in its core's exchange phase: its waits keep the slot (R304). -/
def State.inPhase (s : State) (tid : Nat) : Bool :=
  let c := s.core (tid / 4)
  c.inph && c.phaseTid == tid

/-- LDFE_SUSPEND_TIMEOUT (R68, R107, R281, R304): the drains and the commit of a suspension point come first, then the
continuation suspends with KIND 4 and the granule address; its pc is the LDFE itself. In the core's phase the time runs on
until the phase ends; firmware at level F, which is no continuation, waits on in its slot (PRESUMED, log 33). -/
def execLdfeSuspendTimeout (s : State) : Host.Outcome State Fault Refusal :=
  event (fun s =>
    let tid := s.ev.tid
    let t := s.thread tid
    let again (s : State) : State := s.post 16 .ldfeSuspendTimeout s.ev
    match t.wait with
    | some ⟨.granule _ _ ea _, since⟩ =>
      if since ≠ s.ev.since || t.opDone || t.level = .F then s
      else if s.inPhase tid then again s
      else if (t.queued || t.vuq ≠ []) && decide (since + 4096 + 2 ^ 24 ≤ s.clk) then
        s.raise tid ⟨cQSTALL, BitVec.ofNat 64 t.stallPort⟩
      else if t.capture.left ≠ 0 then again (s.setThread tid t.closeCapture)
      else if s.speculative t || t.entries ≠ [] || t.redfOut ≠ 0 || t.vuq ≠ [] || s.mauBusy tid || t.remoteBusy
          || t.meshOut ≠ 0 then
        again (if t.entries ≠ [] then s.post 0 .segmentCommitComplete { tid := tid } else s)
      else match t.pendVec, t.pendMau, t.pendRemote, t.pendReduce with
        | some (f, _), _, _, _ => s.deliverPending tid .vec f
        | none, some f, _, _ => s.deliverPending tid .mau f
        | none, none, some f, _ => s.deliverPending tid .remote f
        | none, none, none, some f => s.deliverPending tid .reduce f
        | none, none, none, none =>
          if t.queued then again s
          else (s.leaveBank tid).suspendSlot
            tid 3 4 (ea &&& ~~~15#64).toNat t.level.toNat t.pc t.loopst
    | _ => s) s

/-! ### Register fills (R63) -/

/-- The load of a frame slot through the L1, checked at level S, with what held spills have put there (R63, R65, R66). -/
def fillLoad (a : Word) : Sem Word := do
  let s ← get
  match s.framePlace s.th.part s.cid .load a with
  | .error c => trap c a
  | .ok (.tcm off) =>
    let _ ← loadPlace (.tcm off) a 8
    pure ()
  | .ok (.spad cl off) =>
    let _ ← loadPlace (.spad cl off) a 8
    pure ()
  | .ok (.chip pa) =>
    match s.th.lineFault with
    | some c => trap c a
    | none => pure ()
    if s.isStale pa then block (.stale (pa / 256))
    l1Need (pa / 64) false false
    refusePoison (s.chipPoison pa 8)
  let s ← get
  pure (s.frameSee s.cur a)

/-- A framed register gets its value and a physical entry, which may spill another value; `keep` are the codes that
the waiting instruction names (R62, R63). -/
def fillReg (n : Nat) (isF : Bool) (keep : List Nat) : Sem Unit := do
  let s ← get
  let v ← fillLoad (frameSlot s.th.frame n isF)
  let s ← get
  let code := lruCode (s.cur % 4) n isF
  let s := s.spillAllOf s.cid isF (s.victims s.cid 1 isF (code :: keep))
  let s := s.modTh (fun t => { (if isF then t.setF n v else t.setS n v) with wait := none, opDone := false })
  set (s.modMyCore (fun c => { c with lru := c.lru.filter (fun x => x != code) ++ [code] }))

/-- REGISTER_FILL: an 8-byte load of the frame slot into a physical entry (R63); the instruction that reads the register
waits, and takes the faults of that load. Where the value that gives way for it cannot be spilled now, it waits (R62, R313). -/
def execRegisterFill (s : State) : Host.Outcome State Fault Refusal :=
  let tid := s.ev.tid
  let cid := tid / 4
  let keep := lruCode (tid % 4) s.ev.n s.ev.ok :: s.ev.nums
  match s.spillWait cid (s.victims cid 1 s.ev.ok keep) with
  | some k => .next (s.awaitRoom tid k)
  | none =>
    if s.victimsShort cid 1 s.ev.ok keep then .next ({ s with cur := tid }.park .room)
    else Sem.run (fillReg s.ev.n s.ev.ok s.ev.nums) { s with cur := tid, pc := (s.thread tid).pc }

/-! ### Pinning and line operations (R75, R108, R109) -/

/-- The checks of R103 steps 2 to 4 for a line instruction. On an address that maps a control block or a partition
block, of which R246 and R401 tell loads and stores only, it raises PROT (R109; DESIGN CHOICE, log 77). -/
def linePlace (ea : Word) : Sem Place := placeOf { kind := .load, bytes := 1, aligned := false } ea

/-- The L1 line of a place, if it is L1-cacheable. -/
def State.lineOf (s : State) (p : Place) : Option (Nat × Bool) :=
  match p with
  | .tcm off => if off ≥ s.myCore.tcmUnits * 0x10000 && !s.myCore.test then some (overflowLine s.cid off, true) else none
  | .chip pa => some (pa / 64, false)
  | _ => none

/-- Lines pinned in the set of a line. -/
def Core.pinnedIn (c : Core) (line : Nat) : Nat :=
  (c.l1.filter (fun x => x.pinned && x.line % 1024 == line % 1024)).length

def Core.isPinned (c : Core) (line : Nat) (isTcm : Bool) : Bool :=
  c.l1.any (fun x => x.line == line && x.tcm == isTcm && x.pinned)

def Core.setPin (c : Core) (line : Nat) (isTcm pin : Bool) : Core :=
  { c with l1 := c.l1.map (fun x => if x.line = line ∧ x.tcm = isTcm then { x with pinned := pin } else x) }

/-- A line operation on the TCM unit that moves waits (R72). -/
def placeFree (p : Place) : Sem Unit :=
  match p with
  | .tcm off => unitFree off
  | _ => pure ()

/-- PIN (R75, R108): a missing line is filled first. A stale derived line is recomputed for it as for a load, and a recompute
that fails gives the fault that a waiting load takes (R387 names loads only: DESIGN CHOICE, log 76). -/
def execPin (o : Mem) (s : State) : Host.Outcome State Fault Refusal :=
  plain (do
    let ea ← o.loadEa
    let p ← linePlace ea
    let s ← get
    match s.lineOf p with
    | none => writeS o.d 4
    | some (line, isTcm) =>
      match s.th.lineFault with
      | some c => trap c ea
      | none => pure ()
      if s.isStale (line * 64) && !isTcm then block (.stale (line / 4))
      placeFree p
      l1Need line isTcm false
      let s ← get
      let c := s.myCore
      let q := s.th.part
      if c.isPinned line isTcm then writeS o.d 1
      else if c.pinnedIn line + 1 ≥ 16 - c.tcmUnits then writeS o.d 2
      else if smGet 0 c.used q ≥ smGet 0 c.quota q then writeS o.d 3
      else
        set (s.modMyCore (fun c => { c.setPin line isTcm true with used := smSet 0 c.used q (smGet 0 c.used q + 1) }))
        writeS o.d 0) s

/-- UNPIN (R75, R108). -/
def execUnpin (o : Mem) (s : State) : Host.Outcome State Fault Refusal :=
  plain (do
    let ea ← o.loadEa
    let p ← linePlace ea
    let s ← get
    match s.lineOf p with
    | none => writeS o.d 4
    | some (line, isTcm) =>
      placeFree p
      let s ← get
      let q := s.th.part
      if s.myCore.isPinned line isTcm then
        set (s.modMyCore (fun c => { c.setPin line isTcm false with used := smSet 0 c.used q (smGet 0 c.used q - 1) }))
        writeS o.d 0
      else writeS o.d 1) s

/-- A line leaves a core's L1; a pin on it is released (R109). -/
def State.l1Drop (s : State) (cid line : Nat) (isTcm : Bool) : State :=
  let c := s.core cid
  let pin := c.isPinned line isTcm
  s.setCore cid { c with
    l1 := c.l1.filter (fun x => !(x.line == line && x.tcm == isTcm)),
    used := if pin then smSet 0 c.used c.part (smGet 0 c.used c.part - 1) else c.used }

/-- A dirty overflow line goes to the backing window and is clean (R109). -/
def State.l1Clean (s : State) (cid line : Nat) : State :=
  let c := s.core cid
  if c.l1.any (fun x => x.line == line && x.tcm && x.dirty) then
    (s.writeBack cid line).modCore cid (fun c => { c with l1 := c.l1.map (fun x =>
      if x.line = line ∧ x.tcm then { x with dirty := false } else x) })
  else s

/-- One line operation in one core's L1: 0 CLEAN, 1 INVAL, 2 FLUSH (R109). -/
def State.l1Op (s : State) (cid op line : Nat) (isTcm : Bool) : State :=
  let s := if op = 0 ∨ op = 2 then (if isTcm then s.l1Clean cid line else s) else s
  if op = 1 ∨ op = 2 then s.l1Drop cid line isTcm else s

/-- CLEAN, INVAL and FLUSH: a write-back completes at CACHE_LINE_OPERATION_PERFORMED (R109). -/
def lineInstr (op : Nat) (o : Line) (s : State) : Host.Outcome State Fault Refusal :=
  plain (do
    let ea ← o.ea
    let p ← linePlace ea
    let s ← get
    match s.lineOf p with
    | none => pure ()
    | some (line, isTcm) =>
      placeFree p
      let s ← get
      let dirty := s.myCore.l1.any (fun x => x.line == line && x.tcm == isTcm && x.dirty)
      if s.th.opDone then set (s.modTh (fun t => { t with opDone := false }))
      else if dirty && op != 1 then block (.lineOp op 8 line isTcm)
      else set (s.l1Op s.cid op line isTcm)) s

/-- CLEAN (R109). -/
def execClean (o : Line) (s : State) : Host.Outcome State Fault Refusal := lineInstr 0 o s
/-- INVAL (R109). -/
def execInval (o : Line) (s : State) : Host.Outcome State Fault Refusal := lineInstr 1 o s
/-- FLUSH (R109). -/
def execFlush (o : Line) (s : State) : Host.Outcome State Fault Refusal := lineInstr 2 o s

/-- What a prefetch sets going: the line comes into the L1 or, whole, into its home slice (an overflow line's is that of its
place in the backing window, R70), or its derived line is recomputed (R110, R380). -/
def prefetch (hint : BitVec 1) (ea : Word) : Sem Unit := do
  let p ← linePlace ea
  let s ← get
  match p with
  | .chip pa => if s.isStale pa then set (s.startRecompute (pa / 256))
  | _ => pure ()
  let s ← get
  match s.lineOf p with
  | none => pure ()
  | some (line, isTcm) =>
    if hint = 1 then (if s.isStale (line * 64) && !isTcm then pure () else set (s.sliceFill (line / 4)))
    else
      if s.myCore.hasLine line isTcm then pure ()
      else set (s.post (s.missClk s.cid line) .l1MissReturn { tid := s.cur, core := s.cid, pa := line, ok := isTcm, since := s.clk })

/-- PREF: an address that would fault is dropped (R110). -/
def execPref (hint : BitVec 1) (o : Line) (s : State) : Host.Outcome State Fault Refusal :=
  plain (do
    let ea ← o.ea
    let s ← get
    match prefetch hint ea s with
    | .ok _ s' => set s'
    | .error _ _ => pure ()) s

/-! ### LDX and STX (R154) -/

/-- A chip-memory load of an instruction that has others to make: what a miss has brought in still counts for them. -/
def chipLoadMore (ea : Word) (pa n : Nat) : Sem Nat := do
  let s ← get
  match s.th.lineFault with
  | some c => trap c ea
  | none => pure ()
  if s.isStale pa then block (.stale (pa / 256))
  if !(s.myCore.hasLine (pa / 64) false) && !s.th.opDone then block (.miss (pa / 64) false)
  set (s.l1Touch s.cid (pa / 64) false false)
  chipLoad pa n

/-- The descriptor of h as the thread sees it, loaded as any other 64 bytes, and its physical address (R87, R156). -/
def descSeen (h : Word) : Sem (Desc × Nat) := do
  handleOk h
  let s ← get
  let pa ← chipAt .load (descAddr s.myPart.ftbase h.toNat)
  let v ← chipLoadMore (descAddr s.myPart.ftbase h.toNat) pa 64
  pure (Desc.ofNat v, pa)

/-- A defined descriptor (reasons 1 and 2). -/
def descDefined (h : Word) : Sem (Desc × Nat) := do
  let (d, pa) ← descSeen h
  if d.state = 0 then fieldBad 2 h
  pure (d, pa)


/-- The address of the logical element k of field h, its descriptor's place and its physical index. -/
def elemPlace (h k : Word) : Sem (Word × Nat × Desc × Nat) := do
  let (d, dpa) ← descDefined h
  if 2 ^ d.n ≤ k.toNat then fieldBad 10 h
  if d.halted && d.exch then fieldBad 11 h
  if d.busy then block .field
  let s ← get
  let p := d.mapx k.toNat
  let old ← if d.active then do
      if d.l ≤ 12 then pure true
      else
        let b := d.blockOf p
        let a ← chipAt .load (d.aux + BitVec.ofNat 64 (0x8000 + b / 8))
        let v ← chipLoadMore (d.aux + BitVec.ofNat 64 (0x8000 + b / 8)) a 1
        pure (v.testBit (b % 8) != d.phase)
    else pure false
  let p := if old then Desc.swapBits p d.pc d.pv else p
  if d.s ≠ 0 then
    let a ← chipAt .load d.aux
    let _ ← chipLoadMore d.aux a 2
    let own := ownSpread s.devid (fun i => s.pread (a + 2 * i) 2) (2 ^ d.s) 0
    if own ≠ some (p / 2 ^ d.l) then trap cSPREAD (fieldInfo cSPREAD 0 0 h.toNat)
  let q := p % 2 ^ d.l
  pure (d.base + BitVec.ofNat 64 (d.offset q), dpa, d, q)

/-- LDX (R154): no conversion. -/
def execLdx (o : MemT) (s : State) : Host.Outcome State Fault Refusal :=
  plain (do
    noTest
    let (h, t) ← Src2.read ⟨o.base, o.t, o.ub, o.ut⟩
    let (ea, _, d, q) ← elemPlace h (t + o.off)
    let p ← check { kind := .load, bytes := d.size } ea
    let v ← loadPlace p ea d.size
    writeF o.d (BitVec.ofNat 64 (d.pick q v))) s

/-- STX (R154): a chip-level store whose commit waits while the field is busy (R140); a command that moves the
element meanwhile takes the store along (R141). -/
def execStx (o : MemT) (s : State) : Host.Outcome State Fault Refusal :=
  plain (do
    noTest
    let v ← readF o.d
    let (h, t) ← Src2.read ⟨o.base, o.t, o.ub, o.ut⟩
    killF o.d o.ud
    let (ea, dpa, d, q) ← elemPlace h (t + o.off)
    let p ← check (.store d.size) ea
    match p with
    | .chip pa =>
      let mask : Byte := if d.fmt = 5 then (if q % 2 = 0 then 0x0F else 0xF0) else 0xFF
      noteStored p d.size mask
      bufferCells pa ((cellsOf pa d.size (d.place q 0 v.toNat)).map (fun c => (c.1, c.2, mask))) [dpa] [⟨dpa, q, pa, v.toNat % 2 ^ 64⟩]
    | _ => storePlace p d.size (d.place q 0 v.toNat)) s

/-- MAPX and UNMAPX read the descriptor as a load (R87). -/
def mapInstr (f : Desc → Nat → Nat) (o : Bin) (s : State) : Host.Outcome State Fault Refusal :=
  plain (do
    let (x, h) ← o.read
    let (d, _) ← descDefined h
    writeS o.d (BitVec.ofNat 64 (f d x.toNat))) s

/-- MAPX (R87). -/
def execMapx (o : Bin) (s : State) : Host.Outcome State Fault Refusal := mapInstr (fun d x => d.mapx x) o s
/-- UNMAPX (R87). -/
def execUnmapx (o : Bin) (s : State) : Host.Outcome State Fault Refusal := mapInstr (fun d x => d.unmapx x) o s

end Sys2Proof.Machine
end

