-- ==== Sys2Proof/Machine/Atomics.lean ====
section
/-! DEFINITION. Ordering instructions (R321 to R323), atomics (R325, R326) and sequence-indexed reductions
(R327 to R330). -/

namespace Sys2Proof.Machine

/-- Scope numbers of a P.M (R41): 0 th, 1 co, 2 cl, 3 gr, 4 ch, 5 sy. -/
def scopeCh : Nat := 4
def scopeSy : Nat := 5

def Ctl.releases (c : Ctl) : Bool := c.order.toNat.testBit 1

/-- FENCE (R322). Every earlier load of the thread has returned its value, since its instructions run one at a
time. -/
def execFence (c : Ctl) (s : State) : Host.Outcome State Fault Refusal :=
  plain (do
    if c.order = 0 ∨ 6 ≤ c.scope.toNat then illegalOp
    syncVec
    if scopeCh ≤ c.scope.toNat then commitOnly
    if Ctl.releases c then
      storesDone
      if c.scope.toNat = scopeSy then
        waitRemote
        deliverRemote) s

/-- COMMIT (R323). -/
def execCommit (s : State) : Host.Outcome State Fault Refusal :=
  plain (do
    syncVec
    commitOnly) s

/-! ### AMO and CAS (R326) -/

/-- The place of an atomic access: a scratchpad or chip memory, checked as a store (R326). -/
def atomPlace (ea : Word) (w : Nat) : Sem Place := do
  let p ← check (.store w) ea
  match p with
  | .spad cl off => pure (.spad cl off)
  | .chip pa => pure (.chip pa)
  | _ => trap cPROT ea

/-- The read and the write of an atomic at the bank or at the home slice: the old value (R326). -/
def atomAt (p : Place) (w : Nat) (new : Nat → Nat) : Sem Nat := do
  let s ← get
  match p with
  | .spad cl off =>
    refusePoison (s.spadPoison cl off w)
    let old := (s.cluster cl).read off w
    set (s.spadWrite cl off w (new old))
    pure old
  | .chip pa =>
    refusePoison (s.chipPoison pa w)
    if s.writeHeld [pa / 256] || (s.replayWrites s.cur s.th.tstamp.toNat [pa]).isNone then block .room
    let s := s.replayDone s.cur s.th.tstamp.toNat [pa]
    let old := s.pread pa w
    set ((s.sliceLoad pa w).homeWrite (s.writerOf s.cur) (cellsOf pa w (new old)))
    pure old
  | _ => pure 0

/-- An atomic that returns its old value: a commit point, then performed at once (R326). A release waits for
the thread's earlier stores to scratchpads (R320). -/
def atomReturn (c : Ctl) (p : Place) (w : Nat) (new : Nat → Nat) : Sem Nat := do
  commitOnly
  if Ctl.releases c then storesPerformed
  match p with
  | .spad cl off => let _ ← meshAccess cl off w
  | _ => pure ()
  atomAt p w new

/-- Bytes that a queued vector store may still write come before an atomic or a reduction that follows it: it waits for them
(R309; DEDUCED, log 93). -/
def vuStored : Sem Unit := do
  let s ← get
  let t := s.th
  if (t.vuq ++ t.capture.cmds).any (fun c => match c.ins with
      | .vst _ | .vsts _ | .vstx _ => true
      | _ => t.str28.bound || t.str29.bound || t.str30.bound || t.str31.bound || t.sb != 0) then vuDone

/-- AMO (R326). -/
def execAmo (o : MemT) (op : AtomOp) (c : Ctl) (s : State) : Host.Outcome State Fault Refusal :=
  plain (do
    if o.d ≠ 0 then deliverReduce
    let (ea, t) ← o.loadEa
    let w := if op.w32 then 4 else 8
    let p ← atomPlace ea w
    let new (old : Nat) : Nat := amoNew op.op.toNat w old (t.toNat % 2 ^ (8 * w))
    if o.d ≠ 0 then
      let old ← atomReturn c p w new
      writeS o.d (sextW old (8 * w))
    else
      vuStored
      if Ctl.releases c then storesPerformed
      match p with
      | .chip pa => bufferEntry (.amo pa op.op.toNat w t)
      | .spad cl off =>
        irrevocable
        let _ ← meshAccess cl off w
        let _ ← atomAt p w new
      | _ => pure ()) s

/-- CAS (R326): a write in location order even where nothing changes. -/
def execCas (o : MemT) (c : Ctl) (s : State) : Host.Outcome State Fault Refusal :=
  plain (do
    deliverReduce
    let (d, ea, t) ← o.storeEa
    let p ← atomPlace ea 8
    let old ← atomReturn c p 8 (fun old => if old = d.toNat then t.toNat else old)
    writeS o.d (BitVec.ofNat 64 old)) s

/-! ### REDF and RSEQ -/

/-- REDF (R327): buffered, and sent at the commit; the mode captured must be one of R161. -/
def execRedf (o : MemT) (c : Ctl) (s : State) : Host.Outcome State Fault Refusal :=
  plain (do
    let rm ← roundMode
    let (vs, ea, t) ← o.storeEaF 1
    let p ← check (.store 4) ea
    vuStored
    if Ctl.releases c then storesPerformed
    match p with
    | .chip pa => bufferEntry (.redf pa ((vs.getD 0 0).truncate 32) (t.truncate 32) rm)
    | _ => trap cPROT ea) s

/-- Entries in the order of their indices. -/
def byIndex : List RedfEntry → List RedfEntry
  | [] => []
  | e :: es => ins e (byIndex es)
where
  ins (e : RedfEntry) : List RedfEntry → List RedfEntry
    | [] => [e]
    | x :: xs => if x.idx.toNat ≤ e.idx.toNat then x :: ins e xs else e :: x :: xs

/-- A release applies what the slot still holds, in index order, missing indices skipped (R329). -/
def State.flushSlot (s : State) (x : Slot) : State × Nat :=
  (byIndex x.held).foldl (fun (a : State × Nat) e => (a.1.redfApply e, e.idx.toNat + 1)) (s, x.next)

/-- RSEQ (R329). -/
def execRseq (o : Bin) (s : State) : Host.Outcome State Fault Refusal :=
  plain (do
    deliverReduce
    let (a, t) ← o.read
    if bitsN t.toNat 62 32 ≠ 0 then illegalOp
    let p ← check (.store 4) a
    match p with
    | .chip pa =>
      commitOnly
      let s ← get
      match s.slotAt pa, t.toNat.testBit 63 with
      | some _, false => writeS o.d 2
      | none, false =>
        if 16 ≤ (s.slots.filter (fun x => homeSlice x.pa == homeSlice pa)).length then writeS o.d 1
        else
          let x : Slot := { pa := pa, next := bitsN t.toNat 31 0, drop := 0, ownerPart := s.th.part,
                            owner := s.th.record }
          set { s with slots := x :: s.slots }
          writeS o.d 0
      | none, true => writeS o.d (BitVec.ofNat 64 (2 ^ 64 - 1))
      | some x, true =>
        if s.writeHeld [pa / 256] then block .room
        let (s, next) := s.flushSlot x
        set { s with slots := s.slots.filter (fun y => y.pa != pa) }
        writeS o.d (BitVec.ofNat 64 (next % 2 ^ 32 + x.drop % 2 ^ 32 * 2 ^ 32))
    | _ => trap cPROT a) s

end Sys2Proof.Machine
end

