-- ==== Sys2Proof/Machine/Integer.lean ====
section
/-! DEFINITION. Integer and bit instructions (R79 to R86). -/

namespace Sys2Proof.Machine

/-- A binary integer instruction: d := f A B (R80). -/
def intBin (f : Word → Word → Word) (o : Bin) (s : State) : Host.Outcome State Fault Refusal :=
  plain (do let (a, b) ← o.read; writeS o.d (f a b)) s

/-- A single-source instruction: d := f of the source (R45). -/
def intUn (f : Word → Word) (o : Un) (s : State) : Host.Outcome State Fault Refusal :=
  plain (do let a ← o.read; writeS o.d (f a)) s

/-- A register-immediate instruction: d := f S imm (R82). -/
def intImm (f : Word → Word → Word) (o : Imm) (s : State) : Host.Outcome State Fault Refusal :=
  plain (do let a ← o.read; writeS o.d (f a o.imm)) s

/-- A truth value as a register value. -/
def boolW (b : Bool) : Word := if b then 1 else 0

/-- The shift amount: bits [5:0] (R81). -/
def shAmt (b : Word) : Nat := b.toNat % 64

def sllW (a b : Word) : Word := a <<< shAmt b
def srlW (a b : Word) : Word := a >>> shAmt b
def sraW (a b : Word) : Word := a.sshiftRight (shAmt b)
def sltW (a b : Word) : Word := boolW (a.slt b)
def sltuW (a b : Word) : Word := boolW (a.ult b)
/-- Bits [127:64] of the exact signed product (R81). -/
def mulhW (a b : Word) : Word := BitVec.ofInt 64 (a.toInt * b.toInt / 2 ^ 64)
/-- Bits [127:64] of the exact unsigned product (R81). -/
def mulhuW (a b : Word) : Word := BitVec.ofNat 64 (a.toNat * b.toNat / 2 ^ 64)
def minW (a b : Word) : Word := if a.slt b then a else b
def maxW (a b : Word) : Word := if a.slt b then b else a
def minuW (a b : Word) : Word := if a.ult b then a else b
def maxuW (a b : Word) : Word := if a.ult b then b else a

/-- Signed quotient truncated toward zero (R84): division by zero gives all ones; MIN / -1 is MIN. -/
def divW (a b : Word) : Word := if b = 0 then BitVec.allOnes 64 else BitVec.ofInt 64 (a.toInt.tdiv b.toInt)
/-- Signed remainder with the dividend's sign (R84). -/
def remW (a b : Word) : Word := if b = 0 then a else BitVec.ofInt 64 (a.toInt.tmod b.toInt)
def divuW (a b : Word) : Word := if b = 0 then BitVec.allOnes 64 else BitVec.ofNat 64 (a.toNat / b.toNat)
def remuW (a b : Word) : Word := if b = 0 then a else BitVec.ofNat 64 (a.toNat % b.toNat)

/-- The number of one bits among the low `n` bits. -/
def popN (a : Nat) : Nat → Nat
  | 0 => 0
  | n + 1 => b2n (a.testBit n) + popN a n

/-- The number of zero bits from bit `n - 1` downward before the first one bit. -/
def clzN (a : Nat) : Nat → Nat
  | 0 => 0
  | n + 1 => if a.testBit n then 0 else 1 + clzN a n

/-- The number of zero bits from bit `i` upward before the first one bit, over `n` bits. -/
def ctzN (a i : Nat) : Nat → Nat
  | 0 => 0
  | n + 1 => if a.testBit i then 0 else 1 + ctzN a (i + 1) n

/-- The low `n` bits reversed: bit i moves to bit n - 1 - i. -/
def revN (a : Nat) : Nat → Nat
  | 0 => 0
  | n + 1 => revN (a / 2) n + b2n (a.testBit 0) * 2 ^ n

def clzW (a : Word) : Word := BitVec.ofNat 64 (clzN a.toNat 64)
def ctzW (a : Word) : Word := BitVec.ofNat 64 (ctzN a.toNat 0 64)
def popcW (a : Word) : Word := BitVec.ofNat 64 (popN a.toNat 64)
def brevW (a : Word) : Word := BitVec.ofNat 64 (revN a.toNat 64)

/-- BEXT's loop from bit `i` on, with `k` bits packed so far (R85). -/
def bextN (a b i k : Nat) : Nat → Nat
  | 0 => 0
  | n + 1 => if b.testBit i then b2n (a.testBit i) * 2 ^ k + bextN a b (i + 1) (k + 1) n
             else bextN a b (i + 1) k n

/-- BDEP's loop from bit `i` on, with `k` bits taken so far (R85). -/
def bdepN (a b i k : Nat) : Nat → Nat
  | 0 => 0
  | n + 1 => if b.testBit i then b2n (a.testBit k) * 2 ^ i + bdepN a b (i + 1) (k + 1) n
             else bdepN a b (i + 1) k n

def bextW (a b : Word) : Word := BitVec.ofNat 64 (bextN a.toNat b.toNat 0 0 64)
def bdepW (a b : Word) : Word := BitVec.ofNat 64 (bdepN a.toNat b.toNat 0 0 64)

/-- SEXT and ZEXT with w - 1 in xo (R86). -/
def sextOf (w : BitVec 6) (a : Word) : Word := sextW a.toNat (w.toNat + 1)
def zextOf (w : BitVec 6) (a : Word) : Word := BitVec.ofNat 64 (a.toNat % 2 ^ (w.toNat + 1))

/-- ADD (R81). -/
def execAdd (o : Bin) (s : State) : Host.Outcome State Fault Refusal := intBin (fun a b => a + b) o s
/-- SUB (R81). -/
def execSub (o : Bin) (s : State) : Host.Outcome State Fault Refusal := intBin (fun a b => a - b) o s
/-- AND (R81). -/
def execAnd (o : Bin) (s : State) : Host.Outcome State Fault Refusal := intBin (fun a b => a &&& b) o s
/-- OR (R81). -/
def execOr (o : Bin) (s : State) : Host.Outcome State Fault Refusal := intBin (fun a b => a ||| b) o s
/-- XOR (R81). -/
def execXor (o : Bin) (s : State) : Host.Outcome State Fault Refusal := intBin (fun a b => a ^^^ b) o s
/-- SLL (R81). -/
def execSll (o : Bin) (s : State) : Host.Outcome State Fault Refusal := intBin sllW o s
/-- SRL (R81). -/
def execSrl (o : Bin) (s : State) : Host.Outcome State Fault Refusal := intBin srlW o s
/-- SRA (R81). -/
def execSra (o : Bin) (s : State) : Host.Outcome State Fault Refusal := intBin sraW o s
/-- SLT (R81). -/
def execSlt (o : Bin) (s : State) : Host.Outcome State Fault Refusal := intBin sltW o s
/-- SLTU (R81). -/
def execSltu (o : Bin) (s : State) : Host.Outcome State Fault Refusal := intBin sltuW o s
/-- MULH (R81). -/
def execMulh (o : Bin) (s : State) : Host.Outcome State Fault Refusal := intBin mulhW o s
/-- MULHU (R81). -/
def execMulhu (o : Bin) (s : State) : Host.Outcome State Fault Refusal := intBin mulhuW o s
/-- MIN (R81). -/
def execMin (o : Bin) (s : State) : Host.Outcome State Fault Refusal := intBin minW o s
/-- MAX (R81). -/
def execMax (o : Bin) (s : State) : Host.Outcome State Fault Refusal := intBin maxW o s
/-- DIV (R83, R84). -/
def execDiv (o : Bin) (s : State) : Host.Outcome State Fault Refusal := intBin divW o s
/-- DIVU (R83, R84). -/
def execDivu (o : Bin) (s : State) : Host.Outcome State Fault Refusal := intBin divuW o s
/-- REM (R83, R84). -/
def execRem (o : Bin) (s : State) : Host.Outcome State Fault Refusal := intBin remW o s
/-- REMU (R83, R84). -/
def execRemu (o : Bin) (s : State) : Host.Outcome State Fault Refusal := intBin remuW o s
/-- MINU (R83). -/
def execMinu (o : Bin) (s : State) : Host.Outcome State Fault Refusal := intBin minuW o s
/-- MAXU (R83). -/
def execMaxu (o : Bin) (s : State) : Host.Outcome State Fault Refusal := intBin maxuW o s
/-- BEXT (R85). -/
def execBext (o : Bin) (s : State) : Host.Outcome State Fault Refusal := intBin bextW o s
/-- BDEP (R85). -/
def execBdep (o : Bin) (s : State) : Host.Outcome State Fault Refusal := intBin bdepW o s
/-- MUL: bits [63:0] of the product (R81). -/
def execMul (o : Bin) (s : State) : Host.Outcome State Fault Refusal := intBin (fun a b => a * b) o s
/-- MOV (R81). -/
def execMov (o : Un) (s : State) : Host.Outcome State Fault Refusal := intUn (fun a => a) o s
/-- CLZ (R83). -/
def execClz (o : Un) (s : State) : Host.Outcome State Fault Refusal := intUn clzW o s
/-- CTZ (R83). -/
def execCtz (o : Un) (s : State) : Host.Outcome State Fault Refusal := intUn ctzW o s
/-- POPC (R83). -/
def execPopc (o : Un) (s : State) : Host.Outcome State Fault Refusal := intUn popcW o s
/-- BREV (R83). -/
def execBrev (o : Un) (s : State) : Host.Outcome State Fault Refusal := intUn brevW o s
/-- SEXT (R86). -/
def execSext (o : Un) (w : BitVec 6) (s : State) : Host.Outcome State Fault Refusal := intUn (sextOf w) o s
/-- ZEXT (R86). -/
def execZext (o : Un) (w : BitVec 6) (s : State) : Host.Outcome State Fault Refusal := intUn (zextOf w) o s
/-- ADDI (R82). -/
def execAddi (o : Imm) (s : State) : Host.Outcome State Fault Refusal := intImm (fun a b => a + b) o s
/-- ANDI (R82). -/
def execAndi (o : Imm) (s : State) : Host.Outcome State Fault Refusal := intImm (fun a b => a &&& b) o s
/-- ORI (R82). -/
def execOri (o : Imm) (s : State) : Host.Outcome State Fault Refusal := intImm (fun a b => a ||| b) o s
/-- XORI (R82). -/
def execXori (o : Imm) (s : State) : Host.Outcome State Fault Refusal := intImm (fun a b => a ^^^ b) o s
/-- SLLI (R82). -/
def execSlli (o : Imm) (s : State) : Host.Outcome State Fault Refusal := intImm sllW o s
/-- SRLI (R82). -/
def execSrli (o : Imm) (s : State) : Host.Outcome State Fault Refusal := intImm srlW o s
/-- SRAI (R82). -/
def execSrai (o : Imm) (s : State) : Host.Outcome State Fault Refusal := intImm sraW o s
/-- SLTI (R82). -/
def execSlti (o : Imm) (s : State) : Host.Outcome State Fault Refusal := intImm sltW o s
/-- SLTIU (R82). -/
def execSltiu (o : Imm) (s : State) : Host.Outcome State Fault Refusal := intImm sltuW o s
/-- MULI (R82). -/
def execMuli (o : Imm) (s : State) : Host.Outcome State Fault Refusal := intImm (fun a b => a * b) o s
/-- MINI (R82). -/
def execMini (o : Imm) (s : State) : Host.Outcome State Fault Refusal := intImm minW o s
/-- MAXI (R82). -/
def execMaxi (o : Imm) (s : State) : Host.Outcome State Fault Refusal := intImm maxW o s
/-- CMPEQI (R82). -/
def execCmpeqi (o : Imm) (s : State) : Host.Outcome State Fault Refusal := intImm (fun a b => boolW (a == b)) o s
/-- LI (R82). -/
def execLi (d : Reg) (imm : Word) (s : State) : Host.Outcome State Fault Refusal :=
  plain (writeS d imm) s
/-- ADDPC: the address of the first parcel plus imm (R82). -/
def execAddpc (d : Reg) (imm : Word) (s : State) : Host.Outcome State Fault Refusal :=
  plain (writeS d (s.pc + imm)) s

end Sys2Proof.Machine
end

