-- ==== Sys2Proof/Machine/Control.lean ====
section
/-! DEFINITION. Branches, jumps and the hardware loop (R88 to R98). -/

namespace Sys2Proof.Machine

/-- The target of a branch or jump: the first parcel's address plus 2 × offset (R44). -/
def State.target (s : State) (off : Word) : Word := s.pc + 2 * off

/-- A taken BZ, BC or J whose target lies outside an active body clears LOOPST (R97). -/
def Thread.leaveLoop (t : Thread) (target : Word) : Thread :=
  if loopActive t.loopst && !(inBody t.loopst target) then { t with loopst := 0 } else t

/-- A branch: taken or not (R44, R97). -/
def branchTo (cond : Bool) (off : Word) : Sem Unit := do
  let s ← get
  if cond then set ((s.modTh (fun t => t.leaveLoop (s.target off))).taken (s.target off))
  else set (s.modTh (fun t => t.goto s.nextPc))

/-- BZ (R88). -/
def branchZ (c : Word → Bool) (o : Src1) (off : Word) (s : State) : Host.Outcome State Fault Refusal :=
  transfer (do let a ← o.read; branchTo (c a) off) s

/-- BC (R89). -/
def branchC (c : Word → Word → Bool) (o : Src2) (off : Word) (s : State) :
    Host.Outcome State Fault Refusal :=
  transfer (do let (a, b) ← o.read; branchTo (c a b) off) s

/-- BEQZ (R88). -/
def execBeqz (o : Src1) (off : Word) (s : State) : Host.Outcome State Fault Refusal := branchZ (fun a => a == 0) o off s
/-- BNEZ (R88). -/
def execBnez (o : Src1) (off : Word) (s : State) : Host.Outcome State Fault Refusal := branchZ (fun a => a != 0) o off s
/-- BLTZ (R88). -/
def execBltz (o : Src1) (off : Word) (s : State) : Host.Outcome State Fault Refusal := branchZ (fun a => a.msb) o off s
/-- BGEZ (R88). -/
def execBgez (o : Src1) (off : Word) (s : State) : Host.Outcome State Fault Refusal := branchZ (fun a => !a.msb) o off s
/-- BEQ (R89). -/
def execBeq (o : Src2) (off : Word) (s : State) : Host.Outcome State Fault Refusal := branchC (fun a b => a == b) o off s
/-- BNE (R89). -/
def execBne (o : Src2) (off : Word) (s : State) : Host.Outcome State Fault Refusal := branchC (fun a b => a != b) o off s
/-- BLT (R89). -/
def execBlt (o : Src2) (off : Word) (s : State) : Host.Outcome State Fault Refusal := branchC (fun a b => a.slt b) o off s
/-- BGE (R89). -/
def execBge (o : Src2) (off : Word) (s : State) : Host.Outcome State Fault Refusal := branchC (fun a b => !(a.slt b)) o off s
/-- BLTU (R89). -/
def execBltu (o : Src2) (off : Word) (s : State) : Host.Outcome State Fault Refusal := branchC (fun a b => a.ult b) o off s
/-- BGEU (R89). -/
def execBgeu (o : Src2) (off : Word) (s : State) : Host.Outcome State Fault Refusal := branchC (fun a b => !(a.ult b)) o off s
/-- J (R90, R97). -/
def execJ (off : Word) (s : State) : Host.Outcome State Fault Refusal :=
  transfer (branchTo true off) s

/-- JAL: the link goes to s1, then the jump; LOOPST does not change (R90, R97). -/
def execJal (off : Word) (s : State) : Host.Outcome State Fault Refusal :=
  transfer (do
    writeS 1 s.nextPc
    let s' ← get
    set (s'.taken (s.target off))) s

/-- JR: an odd target raises MISALIGN and nothing happens (R37, R91). -/
def execJr (o : Line) (s : State) : Host.Outcome State Fault Refusal :=
  transfer (do
    let a ← o.ea
    if a.toNat % 2 = 1 then trap cMISALIGN a
    let s' ← get
    set (s'.taken a)) s

/-- JALR: the base is read before the link is written (R91). -/
def execJalr (o : Line) (s : State) : Host.Outcome State Fault Refusal :=
  transfer (do
    let a ← o.ea
    if a.toNat % 2 = 1 then trap cMISALIGN a
    writeS 1 s.nextPc
    let s' ← get
    set (s'.taken a)) s

/-- LOOP (R94, R96): no loop may be active, LEN is 1 to 511 and the count register is no port. A zero
count skips the body. -/
def execLoop (a : Reg) (len : Word) (s : State) : Host.Outcome State Fault Refusal :=
  transfer (do
    if loopActive s.th.loopst || decide (len.toInt ≤ 0 ∨ 511 < len.toInt) || decide (56 ≤ a.toNat) then
      illegalOp
    let n ← readS a
    let start := s.nextPc
    let lend := start + 2 * len
    if n = 0 then modify (fun s => s.taken lend)
    else modify (fun s => s.modTh (fun t =>
      { t.goto start with loopst := loopWord a.toNat len.toNat lend }))) s

end Sys2Proof.Machine
end

