-- ==== Sys2Proof/Machine/System.lean ====
section
/-! DEFINITION. System registers (R12 to R17, R74, R76, R95, R112, R113, R115, R165, R167, R225, R276, R299,
R402, R425, R427, R431), the other system instructions (R117 to R120), and their timed ends. -/

namespace Sys2Proof.Machine

/-! ### Test and repair registers (R12 to R18) -/

/-- The repair unit that REPIDX selects: a bank of the own cluster, or a file of the core (R15). -/
def State.repairUnit (s : State) : Option Repair :=
  let u := bitsN s.myCore.repidx.toNat 7 0
  if u < 128 then some (smGet {} s.myCluster.banks u)
  else if u < 130 then some (smGet {} s.myCore.files (u - 128))
  else none

/-- REPDAT as it reads (R16). -/
def Repair.word (r : Repair) : Word :=
  BitVec.ofNat 64 (b2n r.unrep * 2 ^ 63 + b2n r.applied * 2 ^ 62 + r.rows.length % 16 * 2 ^ 20
    + r.bad.length % 16 * 2 ^ 16)

/-- Adds a row to a rising list. -/
def insertRow (x : Nat) : List Nat → List Nat
  | [] => [x]
  | y :: ys => if x < y then x :: y :: ys else if x = y then y :: ys else y :: insertRow x ys

/-- A write of ROW (R16): `main` rows and then `spares` spare rows. -/
def Repair.record (r : Repair) (main spares row : Nat) : Repair :=
  let r :=
    if row < main then
      if r.rows.contains row then r
      else if r.rows.length ≥ 8 then { r with unrep := true }
      else { r with rows := insertRow row r.rows }
    else if row < main + spares then { r with bad := insertRow row r.bad }
    else r
  if r.rows.length > spares - r.bad.length then { r with unrep := true } else r

/-- The physical entry that PRFIDX selects: its place in `prf`, with an applied repair (R12, R18). -/
def Core.prfKey (c : Core) : Option Nat :=
  let e := bitsN c.prfidx.toNat 7 0
  let f := if c.prfidx.toNat.testBit 15 then 1 else 0
  if e ≥ 136 then none else some (256 * f + (smGet {} c.files f).row 128 e fileSpares)

/-! ### Reads -/

/-- VCTL with SB, the bound stream registers (R225). -/
def Thread.vctlWord (t : Thread) : Word :=
  putBits t.vctl 15 12 t.sb

/-- XSTAT (R299). PCLK counts the clk since the phase began while INPH = 1. -/
def State.xstat (s : State) (cid : Nat) : Word :=
  let c := s.core cid
  let pclk := if c.inph then (s.clk - c.phaseStart) % 2 ^ 16 else 0
  BitVec.ofNat 64 (pclk * 2 ^ 48 + c.mcnt % 2 ^ 16 * 2 ^ 16 + c.armedSlots.length * 2 ^ 8
    + b2n c.fend * 4 + b2n c.inph * 2 + b2n (c.miss != 0))

/-- FLAGOR.LIVE: the OR of FCTL over the continuations in the cluster's slots (R167). -/
def State.liveFlags (s : State) (cl : Nat) : Word :=
  s.threads.foldl (fun w x => if x.1 / 32 = cl ∧ x.2.occ then w ||| (x.2.fctl &&& 0x1F) else w) 0

/-- The value a SYSR returns (R113). -/
def State.sysRead (s : State) (num : Nat) : Word :=
  let t := s.th
  let c := s.myCore
  let k := s.myCluster
  let q := s.myPart
  match num with
  | 0x001 => BitVec.ofNat 64 (s.cur % 4)
  | 0x002 => BitVec.ofNat 64 s.cid
  | 0x003 => BitVec.ofNat 64 s.kid
  | 0x005 => BitVec.ofNat 64 s.kid
  | 0x004 => BitVec.ofNat 64 (s.devid % 2 ^ 14)
  | 0x008 => t.wid
  | 0x009 => t.wshape
  | 0x00A => t.tstamp
  | 0x010 => t.fctl
  | 0x011 => t.vctlWord
  | 0x012 => c.tbl4a
  | 0x013 => c.tbl4b
  | 0x014 => t.loopst
  | 0x018 => s.xstat s.cid
  | 0x020 => BitVec.ofNat 64 (b2n c.refused * 2 ^ 28 + c.tcmMax * 2 ^ 16 + c.tcmMin * 2 ^ 8 + c.tcmUnits)
  | 0x021 => BitVec.ofNat 64 (smGet 0 c.quota t.part * 2 ^ 16 + smGet 0 c.used t.part)
  | 0x100 => t.epc
  | 0x101 => t.ecause
  | 0x102 => t.einfo
  | 0x103 => t.erec
  | 0x104 => BitVec.ofNat 64 ((s.liveFlags s.kid).toNat * 2 ^ 16 + k.sticky.toNat)
  | 0x105 => k.lotseed.zeroExtend 64
  | 0x106 => q.ftbase
  | 0x107 => q.dvbase
  | 0x108 => q.trctl
  | 0x109 => BitVec.ofNat 64 (t.part % 256)
  | 0x10A => t.eloop
  | 0x200 => putBits c.status 60 60 (b2n c.test)
  | 0x201 => if c.test then c.prfidx else 0
  | 0x202 => if c.test then (match c.prfKey with
      | some k => smGet 0 c.prf k
      | none => 0) else 0
  | 0x203 => c.repidx
  | 0x204 => match s.repairUnit with
    | some r => r.word
    | none => 0
  | 0x205 => if c.test then c.bankdir else 0
  | 0x206 => s.slew
  | 0x207 => s.shape
  | 0x208 => s.devstat
  | _ => 0

/-- The read level of a number (R113). -/
def sysReadLevel (num : Nat) : Level :=
  if num < 0x100 then .U else if num < 0x200 then .S else .F

/-- The write level of a number (R113). -/
def sysWriteLevel (num : Nat) : Level :=
  if num = 0x010 ∨ num = 0x011 ∨ num = 0x012 ∨ num = 0x013 ∨ num = 0x014 ∨ num = 0x018 ∨ num = 0x020 then .U
  else if num = 0x021 then .S
  else if num < 0x100 then .F
  else if num < 0x200 then (if num = 0x103 ∨ num = 0x104 ∨ num = 0x109 then .F else .S)
  else .F

/-- SYSR (R112). -/
def execSysr (d : Reg) (num : Word) (s : State) : Host.Outcome State Fault Refusal :=
  privileged (sysReadLevel num.toNat) (do
    let s ← get
    writeS d (s.sysRead num.toNat)) s

/-- SYSR of FCTL: every earlier vector instruction and MAU command has delivered its flags (R166), and a pending
vector fault is delivered (R241). -/
def execFctlRead (d : Reg) (s : State) : Host.Outcome State Fault Refusal :=
  plain (do
    syncVec
    let s ← get
    if s.mauBusy s.cur then block .axis
    writeS d (s.sysRead 0x010)) s

/-! ### Writes -/

/-- The effect of a write on a register's writable fields (R112). -/
def State.sysWrite (s : State) (num : Nat) (v : Word) : State :=
  let c := s.myCore
  match num with
  | 0x010 => s.modTh (fun t => { t with fctl := v &&& 0xFF })
  | 0x012 => s.modMyCore (fun c => { c with tbl4a := v })
  | 0x013 => s.modMyCore (fun c => { c with tbl4b := v })
  | 0x100 => s.modTh (fun t => { t with epc := v &&& ~~~1#64 })
  | 0x102 => s.modTh (fun t => { t with einfo := v })
  | 0x106 => s.modPart s.th.part (fun q => { q with ftbase := v &&& ~~~0x3FFFF#64 })
  | 0x107 => s.modPart s.th.part (fun q => { q with dvbase := v &&& ~~~0x3FFFF#64 })
  | 0x109 => s.modTh (fun t => { t with part := v.toNat % 256 })
  | 0x10A => s.modTh (fun t => { t with eloop := v })
  | 0x200 => if c.test then
      s.modMyCore (fun c => { c with status := v &&& 0xE0000000FFFFFFFF })
    else s
  | 0x201 => if c.test then s.modMyCore (fun c => { c with prfidx := v &&& 0x80FF }) else s
  | 0x203 => s.modMyCore (fun c => { c with repidx := v &&& 0xFF })
  | 0x205 => if c.test then s.modMyCore (fun c => { c with bankdir := v &&& 0x8000007F }) else s
  | 0x207 => { s with shape := v &&& 0xFFFFFFFF }
  | _ => s

/-- A SYSW: its level, its irrevocability from 0x100 up (R122), its effect. -/
def sysWriteInstr (num : Nat) (f : Word → State → State) (o : Src1) (s : State) :
    Host.Outcome State Fault Refusal :=
  privileged (sysWriteLevel num) (do
    let v ← o.read
    if 0x100 ≤ num then irrevocable
    modify (f v)) s

/-- SYSW of a register without a row of its own (R112). -/
def execSysw (o : Src1) (num : Word) (s : State) : Host.Outcome State Fault Refusal :=
  sysWriteInstr num.toNat (fun v s => s.sysWrite num.toNat v) o s

/-- REPDAT (R16); outside test mode the write is ignored (R17). -/
def State.repdatWrite (s : State) (v : Word) : State :=
  let u := bitsN s.myCore.repidx.toNat 7 0
  let row := bitsN v.toNat 12 0
  if !s.myCore.test then s
  else if u < 128 then
    s.modMyCluster (fun k => { k with banks := smSet {} k.banks u ((smGet {} k.banks u).record 4096 4 row) })
  else if u < 130 then
    s.modMyCore (fun c => { c with files := smSet {} c.files (u - 128) ((smGet {} c.files (u - 128)).record 128 8 row) })
  else s

/-- REPDAT_WRITE (R16). -/
def execRepdatWrite (o : Src1) (s : State) : Host.Outcome State Fault Refusal :=
  sysWriteInstr 0x204 (fun v s => s.repdatWrite v) o s

/-- PRFDAT (R13); outside test mode the write is ignored (R17). -/
def State.prfdatWrite (s : State) (v : Word) : State :=
  if !s.myCore.test then s
  else match s.myCore.prfKey with
    | some k => s.modMyCore (fun c => { c with prf := smSet 0 c.prf k v })
    | none => s

/-- PRFDAT_WRITE (R13). -/
def execPrfdatWrite (o : Src1) (s : State) : Host.Outcome State Fault Refusal :=
  sysWriteInstr 0x202 (fun v s => s.prfdatWrite v) o s

/-- VCTL: VL and FMT, or nothing (R225). -/
def State.vctlWrite (s : State) (v : Word) : State :=
  let vl := bitsN v.toNat 6 0
  let f := bitsN v.toNat 10 8
  if 1 ≤ vl ∧ vl ≤ 64 ∧ (f = 0 ∨ f = 1 ∨ f = 6) then
    s.modTh (fun t => { t with vctl := putBits (putBits t.vctl 6 0 vl) 10 8 f })
  else s

/-- VCTL_WRITE (R225). -/
def execVctlWrite (o : Src1) (s : State) : Host.Outcome State Fault Refusal :=
  sysWriteInstr 0x011 (fun v s => s.vctlWrite v) o s

/-- FLAGOR_WRITE: STICKY is W1C; what is set in the same clk stays set (R167). -/
def execFlagorWrite (o : Src1) (s : State) : Host.Outcome State Fault Refusal :=
  sysWriteInstr 0x104 (fun v s => s.modMyCluster (fun k => k.unstick s.clk (v.truncate 5))) o s

/-- XSTAT: MISS and FEND are W1C, MCNT is RW (R299). -/
def State.xstatWrite (s : State) (v : Word) : State :=
  s.modMyCore (fun c => { c with
    miss := if v.toNat.testBit 0 then 0 else c.miss,
    fend := c.fend && !(v.toNat.testBit 2),
    mcnt := bitsN v.toNat 31 16 })

/-- XSTAT_WRITE (R299). -/
def execXstatWrite (o : Src1) (s : State) : Host.Outcome State Fault Refusal :=
  sysWriteInstr 0x018 (fun v s => s.xstatWrite v) o s

/-- LOTSEED_WRITE: a write of 0 stores 1 (R276). -/
def execLotseedWrite (o : Src1) (s : State) : Host.Outcome State Fault Refusal :=
  sysWriteInstr 0x105 (fun v s => s.modMyCluster (fun k =>
    { k with lotseed := if v.truncate 32 = 0#32 then 1 else v.truncate 32 })) o s

/-- ECAUSE: CAUSE and PLV; below level F the values 2 and 3 leave PLV unchanged (R115). -/
def State.ecauseWrite (s : State) (v : Word) : State :=
  s.modTh (fun t =>
    let e := putBits t.ecause 7 0 (bitsN v.toNat 7 0)
    let p := bitsN v.toNat 9 8
    { t with ecause := if t.level ≠ .F ∧ 2 ≤ p then e else putBits e 9 8 p })

/-- ECAUSE_WRITE (R115). -/
def execEcauseWrite (o : Src1) (s : State) : Host.Outcome State Fault Refusal :=
  sysWriteInstr 0x101 (fun v s => s.ecauseWrite v) o s

/-- PINQ_WRITE: QUOTA of the thread's partition on this core (R76). -/
def execPinqWrite (o : Src1) (s : State) : Host.Outcome State Fault Refusal :=
  sysWriteInstr 0x021 (fun v s => s.modMyCore (fun c =>
    { c with quota := smSet 0 c.quota s.th.part (bitsN v.toNat 31 16) })) o s

/-- TRCTL_WRITE (R402). -/
def execTrctlWrite (o : Src1) (s : State) : Host.Outcome State Fault Refusal :=
  sysWriteInstr 0x108 (fun v s => s.modPart s.th.part (fun q => { q with trctl := v &&& ~~~0x3FFF0#64 })) o s

/-- DEVID_WRITE: ignored after READY (R402). -/
def execDevidWrite (o : Src1) (s : State) : Host.Outcome State Fault Refusal :=
  sysWriteInstr 0x004 (fun v s => if s.ready5 then s else { s with devid := bitsN v.toNat 13 0 }) o s

def clampSlew (x : Nat) : Nat := min 400 (max 10 x)

/-- SLEW as written: EN, and FALL and RISE clamped to 10 to 400 (R425). -/
def slewWord (v : Word) : Word :=
  BitVec.ofNat 64 (b2n (v.toNat.testBit 31) * 2 ^ 31 + clampSlew (bitsN v.toNat 24 16) * 2 ^ 16
    + clampSlew (bitsN v.toNat 8 0))

/-- SLEW_WRITE (R425). -/
def execSlewWrite (o : Src1) (s : State) : Host.Outcome State Fault Refusal :=
  sysWriteInstr 0x206 (fun v s => { s with slew := slewWord v }) o s

/-- DEVSTAT: SRAMW, clamped to 12, until MEMINIT (R431). -/
def State.devstatWrite (s : State) (v : Word) : State :=
  if s.devstat.toNat.testBit 1 then s
  else { s with devstat := putBits s.devstat 39 36 (min 12 (bitsN v.toNat 39 36)) }

/-- DEVSTAT_WRITE (R431). -/
def execDevstatWrite (o : Src1) (s : State) : Host.Outcome State Fault Refusal :=
  sysWriteInstr 0x208 (fun v s => s.devstatWrite v) o s

/-- What firmware writes in a partition block: the fields marked F as well (R401). -/
def State.blockWriteF (s : State) (p off : Nat) (v : Word) : State :=
  let part128 (old lo : Nat) : Nat := old - bitsN old (lo + 63) lo * 2 ^ lo + v.toNat * 2 ^ lo
  match off with
  | 0x010 => s.modPart p (fun q => { q with wbmask := v })
  | 0x018 => s.modPart p (fun q => { q with pbmask := v })
  | 0x020 => s.modPart p (fun q => { q with rlmask := v })
  | 0x028 => s.modPart p (fun q => { q with stmask := part128 q.stmask 0 })
  | 0x030 => s.modPart p (fun q => { q with stmask := part128 q.stmask 64 })
  | 0x038 => s.modPart p (fun q => { q with stmask := part128 q.stmask 128 })
  | 0x040 => s.modPart p (fun q => { q with stmask := part128 q.stmask 192 })
  | 0x048 => s.modPart p (fun q => { q with faba := v })
  | 0x050 => s.modPart p (fun q => { q with pamin := v })
  | 0x058 => s.modPart p (fun q => { q with pamax := v })
  | 0x068 => s.modPart p (fun q => { q with clmask := part128 q.clmask 0 })
  | 0x070 => s.modPart p (fun q => { q with clmask := part128 q.clmask 64 })
  | _ => s.blockWrite p off v

/-- REGISTER_WRITE (R112): a write by firmware to a register without a row of its own. -/
def execRegisterWrite (s : State) : Host.Outcome State Fault Refusal :=
  event (fun s => match s.ev.target with
    | some (.sys tid num) => { s with cur := tid }.sysWrite num s.ev.v
    | some (.engine tid num) =>
      if num < 7 then s.modThread tid (fun t => { t with ce := smSet 0 t.ce num s.ev.v }) else s
    | some (.cluster cl off) => s.ctlWrite cl off s.ev.v
    | some (.partition p off) => s.blockWriteF p off s.ev.v
    | none => s) s

/-! ### NOP, PAUSE, TRAP, BKPT, ILLEGAL, WFI, ERET (R117, R118) -/

/-- NOP. -/
def execNop (s : State) : Host.Outcome State Fault Refusal := plain (pure ()) s

/-- The thread is a candidate again `n` clk from now. -/
def State.pauseFor (s : State) (n : Nat) : State :=
  (s.modTh (fun t => { t with paused := true })).post n .pauseExpiry { tid := s.cur }

/-- PAUSE: the thread is no candidate in the next 16 clk (R118). -/
def execPause (s : State) : Host.Outcome State Fault Refusal :=
  plain (modify (fun s => s.pauseFor 17)) s

/-- PAUSE_EXPIRY: the thread is a candidate again (R118); after a registration (`ok`) only when its stale notices are
acknowledged (R391). -/
def execPauseExpiry (s : State) : Host.Outcome State Fault Refusal :=
  event (fun s =>
    if s.ev.ok && s.notices.any (fun n => n.waiting == some s.ev.tid) then s.post 1 .pauseExpiry s.ev
    else s.modThread s.ev.tid (fun t => { t with paused := false })) s

/-- TRAP: EINFO is the code (R118); not in the last position of a loop body (R96). -/
def execTrap (code : BitVec 8) (s : State) : Host.Outcome State Fault Refusal :=
  transfer (trap cTRAP (code.zeroExtend 64)) s

/-- BKPT (R118). -/
def execBkpt (code : BitVec 8) (s : State) : Host.Outcome State Fault Refusal :=
  plain (trap cBKPT (code.zeroExtend 64)) s

/-- ILLEGAL (R118). -/
def execIllegal (_ : BitVec 8) (s : State) : Host.Outcome State Fault Refusal := plain illegalOp s

/-- WFI: a mailbox entry, a release, a pre-empt message or the time ends the wait (R118). -/
def execWfi (s : State) : Host.Outcome State Fault Refusal :=
  plain (do
    let s ← get
    if s.myCore.mailbox ≠ [] then pure ()
    else if s.th.opDone then set (s.modTh (fun t => { t with opDone := false }))
    else block .wfi) s

/-- A WFI of a thread is over. -/
def State.endWfi (s : State) (tid : Nat) : State :=
  match (s.thread tid).wait with
  | some ⟨.wfi, _⟩ => s.modThread tid (fun t => { t with opDone := true })
  | _ => s

/-- WFI_TIMEOUT: 65,536 clk with no wake (R118). -/
def execWfiTimeout (s : State) : Host.Outcome State Fault Refusal :=
  event (fun s => match (s.thread s.ev.tid).wait with
    | some w => if w.since = s.ev.since then s.endWfi s.ev.tid else s
    | none => s) s

/-- ERET (R117): its level is tested before its place in a loop body (R55). -/
def execEret (s : State) : Host.Outcome State Fault Refusal :=
  Sem.run (do
    needLevel .S
    loopGuard true
    let s ← get
    let t := s.th
    let plv := bitsN t.ecause.toNat 9 8
    if !(hact t) || plv = 3 then illegalOp
    else if plv = 2 && t.level ≠ .F then priv
    else
      let l : Level := if plv = 0 then .U else if plv = 1 then .S else .F
      set ((s.eretTo l).modTh (fun t => { t with wait := none }))) s

/-- QUEUE_STALL_TIMEOUT (R67, R68): the wait has lasted 2^24 clk; nothing has moved. -/
def execQueueStallTimeout (s : State) : Host.Outcome State Fault Refusal :=
  event (fun s =>
    let tid := s.ev.tid
    let stall (w : Why) : Option Nat := match w with
      | .port r => some r
      | .drain | .entering _ .drain => some (s.thread tid).stallPort
      | _ => none
    match (s.thread tid).wait with
    | some ⟨w, since⟩ => match stall w with
      | some r => if since = s.ev.since then s.raise tid ⟨cQSTALL, BitVec.ofNat 64 r⟩ else s
      | none => s
    | none => s) s

/-! ### HALT and the end of test mode (R10, R18, R77, R118) -/

/-- File units that are not UNREP take their repairs (R18). -/
def Core.applyFiles (c : Core) : Core :=
  let f (r : Repair) : Repair := if r.unrep then r else { r with applied := true }
  { c with files := smSet {} (smSet {} c.files 0 (f (smGet {} c.files 0))) 1 (f (smGet {} c.files 1)) }

/-- Bank units that are not UNREP take their repairs; one that is makes the cluster withdrawn (R18, R77). -/
def State.applyBanks (s : State) (cl : Nat) : State :=
  let k := s.cluster cl
  let s := s.modCluster cl (fun k => { k with banks := (List.range 128).foldl (fun m b =>
    let r := smGet {} m b
    if r.unrep then m else smSet {} m b { r with applied := true }) k.banks })
  if k.banks.any (fun x => x.2.unrep) then s.withdrawCluster cl else s

/-- A core has finished the march: its files are repaired, or withdrawn with an irreparable one; with the last
core of the cluster its banks are repaired (R18, R77). -/
def State.marchDone (s : State) (cid : Nat) : State :=
  let done := (s.core cid).status.toNat.testBit 63
  let s := s.modCore cid (fun c => { c with test := false, haltedDone := done, bankdir := 0 })
  if !done then s.withdrawCluster (cid / 8)
  else
    let s := s.modCore cid Core.applyFiles
    let s := if (s.core cid).files.any (fun x => x.2.unrep) then
        s.modCore cid (fun c => { c with withdrawn := true }) else s
    let cl := cid / 8
    if (List.range 8).all (fun j => (s.core (8 * cl + j)).haltedDone) && !(s.cluster cl).withdrawn then
      s.applyBanks cl
    else s

/-- A cluster has finished steps 5 and 6: every core has halted or failed. -/
def State.clusterTested (s : State) (cl : Nat) : Bool :=
  (List.range 8).all (fun j =>
    let c := s.core (8 * cl + j)
    c.haltedDone || c.testFault || (s.thread (4 * (8 * cl + j))).stopped)

/-- Firmware takes tested cores of some clusters into service: the slot in which the march has halted is idle (R118, R430;
log 70). -/
def State.intoService (s : State) (cls : List Nat) : State :=
  cls.foldl (fun (s : State) cl => (List.range 8).foldl (fun (s : State) j =>
    let c := s.core (8 * cl + j)
    if c.haltedDone && !c.withdrawn then s.modThread (4 * (8 * cl + j)) (fun t => { t with occ := false }) else s) s) s

/-- Bring-up goes on as the march ends (R430): LIMITED with die 0 and a usable cluster, then MARCH and REPAIR with
every cluster, FAULTED when die 0 has none; READY comes with the clock raise. -/
def State.bringUp (s : State) : State :=
  let d := s.devstat.toNat
  if !(d.testBit 1) || d.testBit 2 || d.testBit 6 then s
  else
    let die0 := List.range 32
    let doneDie0 := die0.all (fun c => s.clusterTested c)
    let usable := die0.any (fun c => !(s.cluster c).withdrawn)
    let s := if doneDie0 && usable && !(d.testBit 4) then
        { s with devstat := putBits s.devstat 4 4 1 }.intoService die0 else s
    if (List.range 128).all (fun c => s.clusterTested c) then
      if usable then
        (({ s with devstat := putBits (putBits s.devstat 2 2 1) 3 3 1 }).intoService
          ((List.range 96).map (fun c => 32 + c))).post 1 .readyClockRaise {}
      else { s with devstat := putBits (putBits s.devstat 6 6 1) 35 32 5 }
    else s

/-- HALT (R118): level F; irrevocable; in test mode it ends the core's march (R10). -/
def execHalt (s : State) : Host.Outcome State Fault Refusal :=
  privileged .F (do
    irrevocable
    let s ← get
    let s := s.modTh (fun t => { t with stopped := true })
    set (if s.myCore.test then (s.marchDone s.cid).bringUp else s)) s

/-! ### TLBINV and CACHEOP (R119, R120) -/

/-- TLBINV (R119): the thread goes on once every TLB in scope has acknowledged. -/
def execTlbinv (o : Src1) (kind : BitVec 2) (scope : BitVec 3) (s : State) :
    Host.Outcome State Fault Refusal :=
  privileged (if kind = 3 then .U else if kind = 2 then .F else .S) (do
    if kind = 3 then illegalOp
    let va ← o.read
    irrevocable
    let s ← get
    if s.th.opDone then set (s.modTh (fun t => { t with opDone := false }))
    else block (.tlb kind.toNat scope.toNat va)) s

/-- Does a TLB entry go (R119)? -/
def tlbGone (kind part : Nat) (va : Word) (e : TlbEntry) : Bool :=
  match kind with
  | 0 => e.part == part && e.vpn == (if e.big then bitsN va.toNat 47 25 else bitsN va.toNat 47 16)
  | 1 => e.part == part
  | _ => true

/-- Has an axis command of a core taken descriptors of the partition through a translation that a TLBINV drops (R404)? Of an
address (kind 0) any within 32 MiB counts. -/
def State.descsHeld (s : State) (id : Nat) : Bool :=
  (s.core id).mauq.any (fun c => c.running && c.held != [] &&
    (s.ev.n == 2 || (c.part == s.ev.part && (s.ev.n != 0 || c.args.any (fun h =>
      bitsN (descAddr (s.part c.part).ftbase (h.toNat % 4096)).toNat 47 25 == bitsN s.ev.v.toNat 47 25)))))

/-- TLB_ACKNOWLEDGEMENT (R119): one TLB or the walkers drop their entries and acknowledge, a core only once the axis commands
that hold descriptors through them are done (R404); the last one ends the thread's wait. -/
def execTlbAcknowledgement (s : State) : Host.Outcome State Fault Refusal :=
  event (fun s =>
    let keep (e : TlbEntry) : Bool := !(tlbGone s.ev.n s.ev.part s.ev.v e)
    let id := s.ev.id
    if id < 1024 && s.descsHeld id then s.post 1 .tlbAcknowledgement s.ev
    else
    let s := if id < 1024 then s.modCore id (fun c => { c with tlb := c.tlb.filter keep })
      else if id < 1152 then s.modCluster (id - 1024) (fun k => { k with tlb := k.tlb.filter keep })
      else s
    s.modThread s.ev.tid (fun t => match t.wait with
      | some ⟨.tlb _ _ _, since⟩ =>
        if since = s.ev.since then { t with acks := t.acks - 1, opDone := decide (t.acks ≤ 1) } else t
      | _ => t)) s

/-- CACHEOP (R120). -/
def execCacheop (o : Src1) (op : BitVec 2) (scope : BitVec 3) (s : State) :
    Host.Outcome State Fault Refusal :=
  privileged (if op = 1 && decide (4 ≤ scope.toNat) then .S else .U) (do
    let ea ← o.read
    irrevocable
    let p ← linePlace ea
    placeFree p
    let s ← get
    if s.th.opDone then set (s.modTh (fun t => { t with opDone := false }))
    else match s.lineOf p with
      | none => pure ()
      | some (line, isTcm) =>
        if op = 3 then
          let s := if s.isStale (line * 64) && !isTcm then s.startRecompute (line / 4) else s.sliceFill (line / 4)
          set ((List.range 4).foldl (fun (s : State) j =>
            let l := line / 4 * 4 + j
            if s.myCore.hasLine l isTcm then s
            else s.post (s.missClk s.cid l) .l1MissReturn { tid := s.cur, core := s.cid, pa := l, ok := isTcm, since := s.clk }) s)
        else block (.lineOp op.toNat scope.toNat (line / 4) isTcm)) s

/-- A line leaves its home slice without a write-back: what LPDDR does not hold is lost; a derived line is stale then
(R120). -/
def State.lineLost (s : State) (line : Nat) : State :=
  if inSram (line * 256) then s
  else
    let s := if s.isDerived (line * 256) then s
      else s.behind.foldl (fun (s : State) x =>
        if x.1 / 256 = line then { s with mem := smSet 0 s.mem x.1 (x.2.getD 0) } else s) s
    s.sliceDrop line

/-- What a line operation does at every place in its scope: one 64-byte line of the own L1 (scope 8), the four
sectors in the own L1 (th to gr), the home slice and every L1 (ch, sy) (R109, R120); a shared SRAM way stays as it is. -/
def State.lineOpAll (s : State) (cid op scope line : Nat) (isTcm : Bool) : State :=
  let four (s : State) (c : Nat) (tcm : Bool) : State :=
    (List.range 4).foldl (fun (s : State) j => s.l1Op c op (line * 4 + j) tcm) s
  if scope = 8 then s.l1Op cid op line isTcm
  else if scope < 4 then four s cid isTcm
  else
    let s := if isTcm then four s cid true else s
    let s := s.cores.foldl (fun (s : State) x => four s x.1 false) s
    match op with
    | 0 => s.sliceClean line
    | 1 => s.lineLost line
    | _ => if inSram (line * 256) then s else s.sliceDrop line

/-- CACHE_LINE_OPERATION_PERFORMED (R109, R120). -/
def execCacheLineOperationPerformed (s : State) : Host.Outcome State Fault Refusal :=
  event (fun s =>
    let e := s.ev
    match (s.thread e.tid).wait with
    | some ⟨.lineOp _ _ _ _, since⟩ =>
      if since = e.since then
        (s.lineOpAll e.core e.n e.idx e.pa e.ok).modThread e.tid (fun t => { t with opDone := true })
      else s
    | _ => s) s

end Sys2Proof.Machine
end

