-- ==== Sys2Proof/Machine/Sync.lean ====
section
/-! DEFINITION. Wired barrier channels (R249 to R251), transfer-barrier words (R252 to R254), mailboxes (R255,
R256, R439). -/

namespace Sys2Proof.Machine

/-! ### Suspending instructions -/

/-- A thread that keeps its slot in waits that suspend elsewhere: in an exchange phase (R304), or firmware at
level F, which is no continuation. -/
def State.keepsSlot (s : State) (tid : Nat) : Bool := s.inPhase tid || (s.thread tid).level == .F

/-- The thread in its core's phase may not suspend (R304). -/
def notInPhase : Sem Unit := do
  let s ← get
  if s.inPhase s.cur then illegalOp

/-- The continuation leaves its slot after the instruction, with its back-edge taken (R94, R282). -/
def leaveSlot (st kind obj : Nat) : Sem Unit := do
  let s ← get
  let t := s.th.advance s.pc s.nextPc
  let s := s.modTh (fun _ => t)
  set (s.suspendSlot s.cur st kind obj t.level.toNat t.pc t.loopst)

/-- Suspends after the instruction. -/
def suspendAfter (st kind obj : Nat) : Sem Unit := do
  suspensionPoint
  leaveSlot st kind obj

/-- Suspends at the instruction, which executes again on resumption (R282). -/
def suspendAt (st kind obj : Nat) : Sem Unit := do
  suspensionPoint
  let s ← get
  set (s.suspendSlot s.cur st kind obj s.th.level.toNat s.pc s.th.loopst)

/-- An instruction whose body says itself where the thread goes on. -/
def moving (body : Sem Unit) (s : State) : Host.Outcome State Fault Refusal :=
  Sem.run (do loopGuard false; body) s

/-- The address after the instruction. -/
def goOn : Sem Unit := advance

/-! ### Wired channels -/

/-- Is a slot a member of a channel (R249)? -/
def State.memberOf (s : State) (ch tid : Nat) : Bool := (smGet 0 s.members (1024 * ch + tid / 4)).testBit (tid % 4)

/-- The member slots of a channel. -/
def State.membersOf (s : State) (ch : Nat) : List Nat :=
  (s.members.filter (fun x => x.1 / 1024 == ch)).flatMap (fun x =>
    ((List.range 4).filter (fun k => x.2.testBit k)).map (fun k => 4 * (x.1 % 1024) + k))

/-- The arrival record of a slot: A and RP (R249). -/
def Thread.arrA (t : Thread) (ch : Nat) : Bool := (smGet 0 t.arrive ch).testBit 0
def Thread.arrRP (t : Thread) (ch : Nat) : Bool := (smGet 0 t.arrive ch).testBit 1

/-- Every member has arrived in the current phase (R250). -/
def State.allArrived (s : State) (ch : Nat) : Bool :=
  let ms := s.membersOf ch
  ms != [] && ms.all (fun k => (s.thread k).arrA ch && (s.thread k).arrRP ch == (s.channel ch).phase)

/-- The enabled digest requests that name a channel: partition and handle (R424). -/
def State.digestsOn (s : State) (ch : Nat) : List (Nat × Nat) :=
  s.parts.flatMap (fun x => (List.range 8).filterMap (fun k =>
    let b := (smGet 0 x.2.digest (2 * k + 1)).toNat
    if b.testBit 63 && bitsN b 5 0 == ch && x.2.wbmask.toNat.testBit ch then
      some (x.1, bitsN (smGet 0 x.2.digest (2 * k)).toNat 11 0)
    else none))

/-- BARRIER_ARRIVAL_COUNTED (R250): the last one sets the release going, after the digests that hold it (R424). `n` is
the arriver's timestamp. -/
def execBarrierArrivalCounted (s : State) : Host.Outcome State Fault Refusal :=
  event (fun s =>
    let ch := s.ev.ch
    if s.allArrived ch && !(s.channel ch).releasing then
      let s' := s.setChannel ch { s.channel ch with releasing := true }
      if s.digestsOn ch = [] then s'.post 24 .barrierRelease { ch := ch, n := s.ev.n }
      else s'.post 0 .digestComplete { ch := ch, n := s.ev.n }
    else s) s

/-- A thread's wait in its slot is over: it runs again, with the releaser's timestamp if that is larger (R282). -/
def State.released (s : State) (tid stamp : Nat) : State :=
  let s := s.modThread tid (fun t =>
    { t with opDone := true, tstamp := BitVec.ofNat 64 (max t.tstamp.toNat stamp) })
  let s := if (s.thread tid).st = 4 then s.putWait tid 2 0 0 else s
  s.refreshOf tid

/-- The phase of a core begins (R301): phase clock 0, every other field of XSTAT zero. -/
def State.startPhase (s : State) (tid ch : Nat) : State :=
  let cid := tid / 4
  (s.modCore cid (fun c => { c with
    inph := true, phaseTid := tid, phaseStart := s.clk, phaseCh := ch, mcnt := 0, miss := 0, fend := false,
    armedSlots := [] })).post 65536 .phaseForcedEnd { core := cid, since := s.clk }

/-- BARRIER_RELEASE (R250, R301, R118): the phase flips and every member waiting goes on together. -/
def execBarrierRelease (s : State) : Host.Outcome State Fault Refusal :=
  event (fun s =>
    let ch := s.ev.ch
    let c := s.channel ch
    let s := s.setChannel ch { phase := !c.phase, releasing := false }
    (s.membersOf ch).foldl (fun (s : State) tid =>
      let s := s.endWfi tid
      let t := s.thread tid
      if t.xarr = some ch then ((s.released tid s.ev.n).modThread tid (fun t => t.setArr ch false false)).startPhase tid ch
      else match t.wait with
        | some ⟨.channel k, _⟩ => if k = ch then s.released tid s.ev.n else s
        | some ⟨.phaseEntry k, _⟩ => if k = ch then s.released tid s.ev.n else s
        | _ => s) s) s

/-- BARRIER_WAIT_SPILL (R251): after 4,096 clk the waiting thread's registers go to its frame. -/
def execBarrierWaitSpill (s : State) : Host.Outcome State Fault Refusal :=
  event (fun s =>
    let t := s.thread s.ev.tid
    match t.wait with
    | some ⟨w, since⟩ =>
      let held := match w with
        | .channel _ | .phaseEntry _ | .word _ _ _ | .pod _ => true
        | _ => false
      if held && since == s.ev.since && t.level != .F then s.spillAll s.ev.tid else s
    | none => s) s

/-- The conditions of an arrival, up to the count (R251, R213). -/
def barArrive (ch : Nat) (w : Why) : Sem Unit := do
  deliverVec
  deliverReduce
  let s ← get
  if !(s.memberOf ch s.cur) then illegalOp
  syncVec
  commitOnly
  let s ← get
  if s.th.arrA ch && s.th.arrRP ch == (s.channel ch).phase then
    drainAll
    commitPoint
    block w
  storesDone
  modify (fun s => (s.modTh (fun t => t.setArr ch true (s.channel ch).phase)).postNow .barrierArrivalCounted
    { ch := ch, tid := s.cur, n := s.th.tstamp.toNat })

/-- BARR (R251). -/
def execBarr (ch : BitVec 6) (s : State) : Host.Outcome State Fault Refusal :=
  plain (do
    noTest
    deliverVec
    deliverReduce
    notInPhase
    barArrive ch.toNat (.channel ch.toNat)) s

/-- BARW (R251): it passes when its arrival has been released, or at the next release. -/
def execBarw (ch : BitVec 6) (s : State) : Host.Outcome State Fault Refusal :=
  plain (do
    noTest
    deliverVec
    deliverMau
    notInPhase
    let k := ch.toNat
    let s ← get
    if !(s.memberOf k s.cur) then illegalOp
    if (s.th.arrA k && s.th.arrRP k != (s.channel k).phase) || s.th.opDone then
      modify (fun s => s.modTh (fun t => t.setArr k false (t.arrRP k)))
      passed
    else
      drainAll
      commitPoint
      block (.channel k)) s

/-- BARQ (R251). -/
def execBarq (d : Reg) (ch : BitVec 6) (s : State) : Host.Outcome State Fault Refusal :=
  plain (do
    noTest
    let s ← get
    let k := ch.toNat
    let m := s.memberOf k s.cur
    let ph := (s.channel k).phase
    let a := m && s.th.arrA k
    let rp := s.th.arrRP k
    writeS d (BitVec.ofNat 64 (b2n m * 8 + b2n (a && rp != ph) * 4 + b2n (a && rp == ph) * 2 + b2n ph))) s

/-- BMASK (R249): the change can be the last arrival. -/
def execBmask (o : Src2) (s : State) : Host.Outcome State Fault Refusal :=
  privileged .S (do
    let (a, t) ← o.read
    let ch := bitsN a.toNat 5 0
    if bitsN a.toNat 63 26 ≠ 0 || bitsN a.toNat 15 6 ≠ 0 || bitsN t.toNat 63 4 ≠ 0 then illegalOp
    let s ← get
    if !(s.myPart.wbmask.toNat.testBit ch) then priv
    irrevocable
    modify (fun s => (s.setMembers ch (bitsN a.toNat 25 16) t.toNat).postNow .barrierArrivalCounted
      { ch := ch, tid := s.cur, n := s.th.tstamp.toNat })) s

/-! ### Transfer-barrier words (R252, R253) -/

namespace TbWord

def exp (w : Nat) : Nat := bitsN w 11 0
def arr (w : Nat) : Nat := bitsN w 23 12
def pend (w : Nat) : Nat := bitsN w 43 24
def phase (w : Nat) : Bool := w.testBit 44

/-- A word from its parts: EXP, ARR, PEND, PHASE, ERR, UNDER, EXTRA, and the three L bits. -/
def make (exp arr pend : Nat) (phase err under extra : Bool) (l : Nat) : Nat :=
  exp % 4096 + arr % 4096 * 2 ^ 12 + pend % 2 ^ 20 * 2 ^ 24 + b2n phase * 2 ^ 44 + b2n err * 2 ^ 45
    + b2n under * 2 ^ 46 + b2n extra * 2 ^ 47 + l % 8 * 2 ^ 48

def init (w v : Nat) : Nat := make (bitsN v 11 0) 0 0 (phase w) false false false (bitsN w 50 48)

def addPend (w n : Nat) : Nat :=
  make (exp w) (arr w) (pend w + n) (phase w) (w.testBit 45) (w.testBit 46) (w.testBit 47) (bitsN w 50 48)

/-- The check after an arrival or a landing: a phase completes. -/
def check (w : Nat) : Nat :=
  if arr w = exp w ∧ pend w = 0 then make (exp w) 0 0 (!(phase w)) false false false (bitsN w 47 45) else w

def arrive (w : Nat) : Nat :=
  check (if arr w < exp w then
      make (exp w) (arr w + 1) (pend w) (phase w) (w.testBit 45) (w.testBit 46) (w.testBit 47) (bitsN w 50 48)
    else make (exp w) (arr w) (pend w) (phase w) (w.testBit 45) (w.testBit 46) true (bitsN w 50 48))

def land (w n : Nat) (e : Bool) : Nat :=
  check (make (exp w) (arr w) (pend w - n) (phase w) (w.testBit 45 || e)
    (w.testBit 46 || decide (pend w < n)) (w.testBit 47) (bitsN w 50 48))

end TbWord

/-- Bits [63:0] of the word at a scratchpad offset. -/
def State.tbRead (s : State) (cl off : Nat) : Nat := (s.cluster cl).read off 8
def State.tbWrite (s : State) (cl off w : Nat) : State := s.spadWrite cl off 8 w

/-- A copy or a remote transfer lands `n` bytes at word i of a cluster (R253). -/
def State.tbLand (s : State) (cl i n : Nat) (e : Bool) : State :=
  let off := 0x3FC000 + 16 * i
  s.tbWrite cl off (TbWord.land (s.tbRead cl off) n e)

/-- The operand of a word instruction: its cluster and offset, with the checks of R254. -/
def tbPlace (ea : Word) (own : Bool) : Sem (Nat × Nat) := do
  let s ← get
  if ea.toNat % 16 ≠ 0 then trap cMISALIGN ea
  match regionOf ea with
  | .own off =>
    if !(inBarWindow off 16) || s.myCore.bankdir.toNat.testBit 31 then trap cPROT ea
    pure (s.kid, off)
  | .cluster c off =>
    if !(inBarWindow off 16) || s.myCore.test || !(s.clusterOk s.th.part c) || (own && c != s.kid) then trap cPROT ea
    pure (c, off)
  | _ => trap cPROT ea

/-- TBINIT (R253, R254). -/
def execTbinit (o : Mem) (s : State) : Host.Outcome State Fault Refusal :=
  plain (do
    let (v, ea) ← o.storeEa
    let (cl, off) ← tbPlace ea false
    irrevocable
    let _ ← meshAccess cl off 8
    modify (fun s => s.tbWrite cl off (TbWord.init (s.tbRead cl off) v.toNat))) s

/-- TBEXP (R253, R254): BAR_OVERFLOW leaves the word unchanged. -/
def execTbexp (o : Mem) (s : State) : Host.Outcome State Fault Refusal :=
  plain (do
    let (n, ea) ← o.storeEa
    let (cl, off) ← tbPlace ea false
    irrevocable
    let _ ← meshAccess cl off 8
    let s ← get
    let w := s.tbRead cl off
    if TbWord.pend w + n.toNat > 1048575 then trap cBAROVER ea
    set (s.tbWrite cl off (TbWord.addPend w n.toNat))) s

/-- Threads waiting on a word whose phase an arriver has completed take its timestamp (R282). -/
def State.wordReleased (s : State) (cl off stamp : Nat) : State :=
  s.threads.foldl (fun (s : State) x => match x.2.wait with
    | some ⟨.word c o _, _⟩ => if c = cl ∧ o = off then
        s.modThread x.1 (fun t => { t with tstamp := BitVec.ofNat 64 (max t.tstamp.toNat stamp) }) else s
    | _ => s) s

/-- TBARR (R254): a commit point; it arrives once the thread's earlier stores are performed (R213). -/
def execTbarr (o : Line) (s : State) : Host.Outcome State Fault Refusal :=
  plain (do
    deliverReduce
    let ea ← o.ea
    let (cl, off) ← tbPlace ea false
    commitOnly
    storesDone
    let _ ← meshAccess cl off 8
    let s ← get
    let w := s.tbRead cl off
    let w' := TbWord.arrive w
    let s' := s.tbWrite cl off w'
    set (if TbWord.phase w' = TbWord.phase w then s' else s'.wordReleased cl off s.th.tstamp.toNat)) s

/-- TBWAIT (R254). -/
def execTbwait (o : Mem) (s : State) : Host.Outcome State Fault Refusal :=
  plain (do
    deliverVec
    deliverMau
    notInPhase
    let (d, ea) ← o.storeEa
    let (cl, off) ← tbPlace ea true
    let s ← get
    let w := s.tbRead cl off
    if TbWord.phase w != d.toNat.testBit 44 then
      modify (fun s => (if s.th.st = 4 then s.putWait s.cur 2 0 0 else s).refreshOf s.cur)
      passed
      writeS o.d (BitVec.ofNat 64 w)
    else
      drainAll
      commitPoint
      block (.word cl off ea)) s

/-! ### Mailboxes (R255, R256, R439) -/

/-- An entry reaches a core: it is diverted while the core is pre-empted or its spill queue is not empty (R285),
it waits at the port while the mailbox is full (R439), else it enters the mailbox. -/
def State.toMailbox (s : State) (cid : Nat) (w0 w1 : Word) (stamp : Nat) : State :=
  let c := s.core cid
  if c.preempted || c.spillq ≠ [] then s.setCore cid { c with spillq := c.spillq ++ [(w0, w1, stamp)] }
  else if c.port ≠ [] || 16 ≤ c.mailbox.length then s.setCore cid { c with port := c.port ++ [(w0, w1, stamp)] }
  else
    let s := s.setCore cid { c with mailbox := c.mailbox ++ [(w0, w1)] }
    let s := (List.range 4).foldl (fun (s : State) k => s.endWfi (4 * cid + k)) s
    s.wakeMailbox cid stamp

/-- MAILBOX_DELIVERY (R256). -/
def execMailboxDelivery (s : State) : Host.Outcome State Fault Refusal :=
  event (fun s => s.toMailbox s.ev.core s.ev.v s.ev.w s.ev.n) s

/-- A copy completion that has been delivered frees its command's queue place (R261, R439). -/
def State.copyDelivered (s : State) (cid : Nat) (w0 : Word) : State :=
  if bitsN w0.toNat 63 62 = 1 then
    s.modCluster (cid / 8) (fun k => { k with copyq := k.copyq.filter (fun x =>
      !(x.done && x.id == bitsN w0.toNat 47 32)) })
  else s

/-- MAILBOX_PORT_DRAIN (R285, R439): spilled entries first, then those at the port, as room frees. -/
def State.drainPort (s : State) (cid : Nat) : Nat → State
  | 0 => s
  | n + 1 =>
    let c := s.core cid
    if c.preempted || 16 ≤ c.mailbox.length then s
    else match c.spillq, c.port with
      | x :: xs, _ =>
        let s := s.setCore cid { c with spillq := xs, mailbox := c.mailbox ++ [(x.1, x.2.1)] }
        (s.wakeMailbox cid x.2.2).drainPort cid n
      | [], x :: xs =>
        let s := (s.setCore cid { c with
          port := xs, portOut := c.portOut + 1, mailbox := c.mailbox ++ [(x.1, x.2.1)] }).copyDelivered cid x.1
        (s.wakeMailbox cid x.2.2).drainPort cid n
      | [], [] => s

def execMailboxPortDrain (s : State) : Host.Outcome State Fault Refusal :=
  event (fun s => s.drainPort s.ev.core 16) s

/-- WAITM (R256). -/
def execWaitm (s : State) : Host.Outcome State Fault Refusal :=
  moving (do
    let s ← get
    if s.myCore.mailbox ≠ [] then goOn
    else if s.keepsSlot s.cur then block .mailbox
    else suspendAfter 3 3 s.cid) s

/-- MRECV (R256): on an empty mailbox it waits as WAITM does, and executes again. -/
def execMrecv (d : Reg) (t : Option Reg) (s : State) : Host.Outcome State Fault Refusal :=
  moving (do
    destFree (do
      writeS d 0
      match t with
      | some r => writeS r 0
      | none => pure ())
    let s ← get
    match s.myCore.mailbox with
    | (w0, w1) :: rest =>
      let s := s.modMyCore (fun c => { c with mailbox := rest })
      set (if s.myCore.port ≠ [] || s.myCore.spillq ≠ [] then s.postNow .mailboxPortDrain { core := s.cid } else s)
      writeS d w0
      match t with
      | some r => writeS r w1
      | none => pure ()
      goOn
    | [] =>
      if s.keepsSlot s.cur then block .mailbox
      else suspendAt 3 3 s.cid) s

/-- A core takes messages of a partition: its cluster is allotted to it, and serves it or has been pre-empted with its
continuations (R407). -/
def State.mailOk (s : State) (p a : Nat) : Bool :=
  let c := s.core a
  (s.part p).clmask.testBit (a / 8) && ((s.cluster (a / 8)).part == p || (c.preempted && c.part == p))

/-- The time of a message from one cluster to another, the earliest that R256 allows. -/
def msendClk (a b : Nat) : Nat := 10 + 2 * meshHops a b

/-- MSEND (R256, R262, R407): after the thread's earlier stores; it waits while the target mailbox is full, except
at a pre-empted core (R285). -/
def execMsend (o : Src3) (s : State) : Host.Outcome State Fault Refusal :=
  plain (do
    let (d, a, t) ← o.read
    if bitsN a.toNat 63 10 ≠ 0 then illegalOp
    let s ← get
    if !(s.mailOk s.th.part a.toNat) then priv
    irrevocable
    storesPerformed
    let s ← get
    let c := s.core a.toNat
    if !c.preempted && c.spillq = [] && decide (16 ≤ c.mailbox.length) then block .target
    set (s.post (msendClk s.kid (a.toNat / 8)) .mailboxDelivery
      { core := a.toNat, v := putBits d 63 62 0, w := t, n := s.th.tstamp.toNat, tid := s.cur })) s

end Sys2Proof.Machine
end

