-- ==== Sys2Proof/Machine/Fabric.lean ====
section
/-! DEFINITION. The fabric port and router of the package: device numbers and routes (R338 to R341), sending
(R342, R358), operations at their target (R331, R346 to R351) and their acknowledgements (R349), flits and links (R340,
R369, R370) and router power (R360). -/

namespace Sys2Proof.Machine

/-! ### Device numbers and routes -/

/-- The position of a device in a dimension: A, B, C, D are 0 to 3 (R338). -/
def devPos (dev k : Nat) : Nat :=
  match k with
  | 0 => dev % 4
  | 1 => dev / 4 % 4
  | 2 => dev / 16 % 32
  | _ => dev / 512

/-- The size of a dimension in this system. -/
def Fabric.size (f : Fabric) (k : Nat) : Nat := bitsN f.sizes (8 * k + 7) (8 * k)

/-- A device number that names a device (R338). -/
def State.named (s : State) (dev : Nat) : Bool :=
  (List.range 4).all (fun k => decide (devPos dev k < s.fabric.size k))

/-- A device that a partition's fabric allowance holds (R345, R401). -/
def State.allowed (s : State) (p dev : Nat) : Bool :=
  let f := (s.part p).faba.toNat
  s.named dev && decide (bitsN f 13 0 ≤ dev ∧ dev ≤ bitsN f 29 16)

/-- A device number with one dimension changed. -/
def devAt (dev k x : Nat) : Nat :=
  match k with
  | 0 => dev / 4 * 4 + x
  | 1 => dev / 16 * 16 + x * 4 + dev % 4
  | 2 => dev / 512 * 512 + x * 16 + dev % 16
  | _ => x * 512 + dev % 512

/-- Directions of minimal length in a dimension: + and - (R339). -/
def Fabric.minimal (f : Fabric) (k src dst : Nat) : Bool × Bool :=
  let a := devPos src k
  let b := devPos dst k
  if a = b then (false, false)
  else if k < 2 then (decide (a < b), decide (b < a))
  else
    let n := f.size k
    let d := (b + n - a) % n
    (decide (2 * d ≤ n), decide (n ≤ 2 * d))

/-- The device over a port. -/
def Fabric.neighbour (f : Fabric) (dev port : Nat) : Nat :=
  let k := port / 2
  let n := f.size k
  devAt dev k ((devPos dev k + (if port % 2 = 0 then 1 else n - 1)) % n)

/-- The routing table of a generation (R358). -/
def Fabric.table (f : Fabric) (gen : Nat) : Table := smGet {} f.tables gen

/-- Does the way round a torus dimension, over a port and on to the position of `dst`, cross a link or a device that a table
records as failed? -/
def Fabric.ringShut (f : Fabric) (gen dev port dst : Nat) : Bool :=
  let k := port / 2
  let n := f.size k
  let plus := decide (port % 2 = 0)
  let d := if plus then (devPos dst k + n - devPos dev k) % n else (devPos dev k + n - devPos dst k) % n
  (List.range d).any (fun i =>
    let x := devAt dev k ((devPos dev k + (if plus then i else n - i)) % n)
    let y := f.neighbour x port
    (f.table gen).links.contains (x, port) || (f.table gen).links.contains (y, if plus then port + 1 else port - 1) ||
      ((f.table gen).devs.contains y && decide (i + 1 < d)))

/-- The port that a dimension's order takes toward a target: the minimal direction, + on ties (R341). On C and D the table
of a generation goes the other way round where the minimal one crosses a failure that it records (R358, R370; DESIGN
CHOICE, log 102). -/
def Fabric.way (f : Fabric) (gen k src dst : Nat) : Option Nat :=
  match f.minimal k src dst with
  | (false, false) => none
  | (plus, _) =>
    let port := if plus then 2 * k else 2 * k + 1
    let other := if plus then 2 * k + 1 else 2 * k
    some (if decide (2 ≤ k) && f.ringShut gen src port dst && !(f.ringShut gen src other dst) then other else port)

/-- The port of the OM route: dimensions in order; none at the target (R341). -/
def Fabric.omPort (f : Fabric) (gen src dst : Nat) : Option Nat :=
  (List.range 4).findSome? (fun k => f.way gen k src dst)

/-- Every minimal port, for class AD. -/
def Fabric.adPorts (f : Fabric) (src dst : Nat) : List Nat :=
  (List.range 4).flatMap (fun k =>
    let m := f.minimal k src dst
    (if m.1 then [2 * k] else []) ++ (if m.2 then [2 * k + 1] else []))

def linkKey (port vc : Nat) : Nat := 8 * port + vc
def Fabric.link (f : Fabric) (port vc : Nat) : Link := smGet {} f.links (linkKey port vc)
def Fabric.setLink (f : Fabric) (port vc : Nat) (x : Link) : Fabric :=
  { f with links := smSet {} f.links (linkKey port vc) x }

/-- The least filled of some ports; the earliest of equals. -/
def Fabric.emptiest (f : Fabric) (vc : Nat) : List Nat → Option Nat
  | [] => none
  | p :: ps => match f.emptiest vc ps with
    | none => some p
    | some q => if (f.link q vc).buf.length < (f.link p vc).buf.length then some q else some p

/-- The failed devices as new packets see them. -/
def Fabric.failed (f : Fabric) : List Nat := (f.table f.gen).devs

/-- Does the hop over a port enter a failed device, or is its link down (R339, R370)? -/
def Fabric.shut (f : Fabric) (dev gen port : Nat) : Bool :=
  (f.table gen).devs.contains (f.neighbour dev port) || (f.table gen).links.contains (dev, port) || !(f.link port 0).up

/-- The step toward the middle of the mesh in the other short dimension, if it has a second position (R339). -/
def Fabric.sideStep (f : Fabric) (dev k : Nat) : Option Nat :=
  let n := f.size (1 - k)
  if n < 2 then none
  else some (if 2 * devPos dev (1 - k) < n - 1 then 2 * (1 - k) else 2 * (1 - k) + 1)

/-- A packet that has reached its intermediate position, or that of a detour, goes on to its target (R339, R341). -/
def pastStops (p : Packet) (dev : Nat) : Packet :=
  let p := if p.via = some dev then { p with via := none } else p
  if p.via = none ∧ p.mid = some dev then { p with mid := none, vc := if p.cls = 2 ∧ p.kind ≠ 9 then 5 else p.vc } else p

/-- The port of a packet's class, and its virtual channel there: AD takes any minimal port whose channel 2 is not
stopped, else the OM route on the escape channel 3, on which it stays (R341). -/
def Fabric.classPort (f : Fabric) (dev : Nat) (p : Packet) : Option (Nat × Nat) :=
  let target := p.via.getD (p.mid.getD p.dst)
  let om := f.omPort p.gen dev target
  if p.cls = 1 ∧ p.kind ≠ 9 ∧ p.vc ≠ 3 then
    match f.emptiest 2 ((f.adPorts dev target).filter (fun q => !(f.shut dev p.gen q) && !(f.link q 2).off)) with
    | some q => some (q, 2)
    | none => om.map (fun q => (q, 3))
  else om.map (fun q => (q, p.vc))

/-- The port on which a packet leaves, the packet as it leaves, and whether its only way is shut; none at the target. A hop of the A and B mesh that is shut is gone around by a step in the other short dimension: from A the
dimension order then goes on by itself, from B past the hop first (R339, R341, R370). -/
def Fabric.route (f : Fabric) (dev : Nat) (p : Packet) : Option (Nat × Packet × Bool) :=
  let p := pastStops p dev
  match f.classPort dev p with
  | none => none
  | some (port, vc) =>
    let p := { p with vc := vc }
    let k := port / 2
    let next := f.neighbour dev port
    if k < 2 && f.shut dev p.gen port then
      match f.sideStep dev k with
      | none => some (port, p, true)
      | some side =>
        let far := if (f.table p.gen).devs.contains next then f.neighbour next port else next
        let via := if k = 1 then some (devAt far 0 (devPos (f.neighbour dev side) 0)) else p.via
        some (side, { p with via := via }, f.shut dev p.gen side)
    else
      let a := devPos dev k
      let b := devPos next k
      -- the hop over the dateline of a torus dimension, of whatever size
      let wraps := decide (2 ≤ k) && decide (if port % 2 = 0 then b < a else a < b)
      some (port, { p with vc := if wraps ∧ p.vc = 0 then 1 else p.vc }, false)

/-! ### Flits (R340, R342, R369, R370) -/

/-- The header of a packet (R340). -/
def headerOf (p : Packet) : BitVec 128 :=
  BitVec.ofNat 128 (p.seq % 2 ^ 16 * 2 ^ 112 + p.addr.toNat % 2 ^ 48 * 2 ^ 64 + p.slot % 4 * 2 ^ 56 + p.part % 2 ^ 8 * 2 ^ 48
    + p.score % 2 ^ 10 * 2 ^ 38 + p.gen % 2 * 2 ^ 37 + p.kind % 16 * 2 ^ 33 + p.vc % 8 * 2 ^ 30 + p.cls % 4 * 2 ^ 28
    + p.src % 2 ^ 14 * 2 ^ 14 + p.dst % 2 ^ 14)

/-- Payloads of 64 bytes. -/
def chunks : Nat → List Word → List (List Word)
  | 0, _ => []
  | n + 1, ws => ((ws ++ List.replicate 8 0).take 8) :: chunks n (ws.drop 8)

/-- The payloads of a packet's flits: its data, at least one flit. What else a kind adds has no place in the layout of R340
and stays with the packet (DESIGN CHOICE, log 90). -/
def payloadsOf (p : Packet) : List (List Word) :=
  let ws := if p.kind = 5 then p.data.drop 1 else p.data
  chunks (max 1 ((ws.length + 7) / 8)) ws

/-- A flit under the protection of its channel (R369). -/
def Link.seal (l : Link) (h : BitVec 128) (d : List Word) : Flit :=
  match l.mode with
  | 0 => ⟨h, d, 0⟩
  | 1 => ⟨h, d, Config.gmac l.key l.nonce h d⟩
  | _ => ⟨h, (Config.gcm l.key l.nonce h d).1, (Config.gcm l.key l.nonce h d).2⟩

/-- Flits go over a channel: each takes a nonce and stands in the replay buffer (R369, R370). -/
def Link.send (l : Link) (h : BitVec 128) : List (List Word) → Link × List Flit
  | [] => (l, [])
  | d :: ds =>
    let x := l.seal h d
    let r := Link.send { l with nonce := (l.nonce + 1) % 2 ^ 96, seqOut := l.seqOut + 1,
                                replay := (l.replay ++ [x]).drop (l.replay.length + 1 - 32) } h ds
    (r.1, x :: r.2)

/-- A packet leaves on a port. -/
def Fabric.transmit (f : Fabric) (port : Nat) (p : Packet) : Fabric :=
  let r := (f.link port p.vc).send (headerOf p) (payloadsOf p)
  { f.setLink port p.vc r.1 with out := f.out ++ [(port, p)], flits := f.flits ++ r.2.map (fun x => (port, x)) }

/-- Packets of a collective stream keep to the ports of its entries (R361). -/
def onStream (p : Packet) : Bool := p.kind == 6 || p.kind == 7 || p.kind == 8

/-- A packet whose only way, in the A and B mesh, is shut under the table of its generation. -/
def Fabric.barred (f : Fabric) (dev port : Nat) (p : Packet) : Bool := decide (port < 4) && f.shut dev p.gen port

/-- A packet leaves on a port, or waits for it: while its link is down (R370) or its channel is stopped (R342), behind
those that wait already, and while its only way is shut. -/
def Fabric.sendOut (f : Fabric) (dev ch port : Nat) (p : Packet) (shut : Bool) : Fabric :=
  let l := f.link port p.vc
  if !l.up || l.off || l.buf.any (fun x => !(f.barred dev port x.2)) || shut then
    f.setLink port p.vc { l with buf := l.buf ++ [(ch, p)] }
  else f.transmit port p

/-- Is there room for a packet on a channel? -/
def Fabric.isOpen (f : Fabric) (port vc : Nat) : Bool :=
  (f.link port vc).up && !(f.link port vc).off && (f.link port vc).buf == []

/-- A packet of a stream leaves on all its outputs, its flits together on each (R359). -/
def Fabric.replicate (f : Fabric) (b : Branch) : Fabric :=
  b.outs.foldl (fun (f : Fabric) k => b.pkts.foldl (fun (f : Fabric) p => f.transmit k p) f) f

/-- The waiting packets of streams, in their order: one goes when there is room on every one of its outputs, for none of which
an earlier one still waits (R359). -/
def Fabric.spread (f : Fabric) : Fabric :=
  let r := f.branches.foldl (fun (x : Fabric × List Branch) b =>
    if b.outs.all (fun k => x.1.isOpen k 7 && !(x.2.any (fun y => y.outs.contains k))) then (x.1.replicate b, x.2)
    else (x.1, x.2 ++ [b])) ({ f with branches := [] }, [])
  { r.1 with branches := r.2 }

/-- What waits for a channel goes out. -/
def Fabric.drain (f : Fabric) (dev port vc : Nat) : Fabric :=
  let l := f.link port vc
  if !l.up || l.off then f
  else
    let go := l.buf.filter (fun x => !(f.barred dev port x.2))
    (go.foldl (fun (f : Fabric) x => f.transmit port x.2)
      (f.setLink port vc { l with buf := l.buf.filter (fun x => f.barred dev port x.2) })).spread

/-- The packets that came in on a channel, 8 · port + vc, and wait in this router: its receive buffer (R342). -/
def Fabric.received (f : Fabric) (ch : Nat) : Nat :=
  (f.links.flatMap (fun x => x.2.buf.filter (fun y => y.1 == ch))).length +
  (f.branches.filter (fun b => b.ch == ch)).length +
  (f.streams.flatMap (fun x => x.2.waiting.filter (fun e => linkKey e.port 7 == ch))).length

/-- The channels from outside whose receive buffers are full: this end tells the other to stop (R342; log 91). -/
def Fabric.full (f : Fabric) : List Nat :=
  ((f.links.flatMap (fun x => x.2.buf.map (fun y => y.1)) ++ f.branches.map (fun b => b.ch) ++
    f.streams.flatMap (fun x => x.2.waiting.map (fun e => linkKey e.port 7))).eraseDups).filter
    (fun ch => decide (ch < 64 ∧ Config.linkBuffer ≤ f.received ch))

/-! ### Sending (R342, R346, R358) -/

/-- Numbers of a source thread's packets to a destination, by class. -/
def seqKey (src score slot dst cls : Nat) : Nat :=
  (((src * 1024 + score) * 4 + slot) * 16384 + dst) * 4 + cls

/-- The virtual channel at injection (R341). -/
def vcOf (cls kind : Nat) : Nat :=
  if kind = 9 then 6
  else if kind = 6 ∨ kind = 7 ∨ kind = 8 ∨ kind = 10 then 7
  else match cls with
    | 0 => 0
    | 1 => 2
    | _ => 4

/-- A packet enters the router from the own endpoint, one of this device under the generation in force; RT draws its
intermediate position, a free value (log 5). -/
def State.inject (s : State) (p : Packet) : State :=
  let p := { p with gen := if p.src = s.devid then s.fabric.gen else p.gen, vc := vcOf p.cls p.kind }
  let (p, s) := if p.cls = 2 ∧ p.kind ≠ 9 then
      let (w, s') := s.free
      let c := bitsN w.toNat 31 0 % s.fabric.size 2
      let d := bitsN w.toNat 63 32 % s.fabric.size 3
      ({ p with mid := some (devAt (devAt s.devid 2 c) 3 d) }, s')
    else (p, s)
  s.post 120 .packetForward { pkt := some p, port := 8, vc := p.vc }

/-- Must a packet wait until the old-generation OM packets to its destination are acknowledged (R358)? -/
def State.omHeld (s : State) (p : Packet) : Bool :=
  p.cls == 0 && s.fabric.flight.any (fun q => q.cls == 0 && q.dst == p.dst && q.gen != s.fabric.gen)

/-- The answer of the fabric to its source: a status, and a value (R346, R349). -/
def answerTo (p : Packet) (devid status : Nat) (v : Word) : Packet :=
  { p with kind := 9, vc := 6, src := devid, dst := p.src, data := [BitVec.ofNat 64 status, v],
           aux := BitVec.ofNat 64 p.kind, mid := none, via := none }

/-- A token as its source sent it: the device and class of its list (R333, R335). -/
def asSent (p : Packet) : Packet :=
  if p.kind = 5 then
    { p with dst := bitsN (p.data.headD 0).toNat 14 1, cls := bitsN (p.data.headD 0).toNat 17 16 }
  else p

/-- The answer to a packet whose target device has failed: PROT (R339), to a request record with the status 3 of a record
that is not written (R350); the index beside it is a free value (log 5). -/
def State.protAnswer (s : State) (p : Packet) : Packet × State :=
  let q := asSent p
  if p.kind = 4 then
    let (w, s) := s.free
    (answerTo q q.dst cPROT (BitVec.ofNat 64 (3 + w.toNat % 2 ^ 32 * 2 ^ 32)), s)
  else (answerTo q q.dst cPROT 0, s)

/-- What the source's port makes of an answer: of a RAMO or RCAS it is a response (R348). -/
def answerEvent (r : Packet) : Instr :=
  if r.aux.toNat = 2 ∨ r.aux.toNat = 3 then .remoteResponseArrival else .remoteAckArrival

/-- The operation that an answer retires; one on a stream may be answered by any endpoint. -/
def State.flightOf (s : State) (r : Packet) : Option Packet :=
  s.fabric.flight.find? (fun p => (p.dst == r.src || onStream p) && p.cls == r.cls && p.seq == r.seq && p.score == r.score
    && p.slot == r.slot)

/-- Sends an operation of a thread or a unit: it takes its number and is outstanding until it is acknowledged. A
packet to a failed device is answered with PROT (R339). -/
def State.sendPacket (s : State) (p : Packet) : State :=
  let key := seqKey s.devid p.score p.slot p.dst p.cls
  let n := smGet 0 s.fabric.omOut key
  let p := { p with seq := n, src := s.devid, gen := s.fabric.gen, vc := vcOf p.cls p.kind, mid := none }
  let held := s.omHeld p
  let s := { s with fabric := { s.fabric with
    omOut := smSet 0 s.fabric.omOut key ((n + 1) % 65536),
    flight := s.fabric.flight ++ [p],
    pending := if held then s.fabric.pending ++ [p] else s.fabric.pending } }
  if held then s
  else if s.fabric.failed.contains p.dst then
    let (a, s) := s.protAnswer p
    s.post 120 (answerEvent a) { pkt := some a, port := 8 }
  else s.inject p

/-- A packet reaches the own endpoint: the agent that its kind names takes it. A negative acknowledgement makes the source's
port send the packet again (R342). -/
def State.endpoint (s : State) (p : Packet) : State :=
  let e : Ev := { pkt := some p, port := 8 }
  match p.kind with
  | 4 => s.postNow .requestRecordArrival e
  | 5 => s.postNow .tokenArrival e
  | 9 =>
    if p.aux.toNat.testBit 8 then
      match s.flightOf p with
      | some q => s.post 64 .packetNakResend { pkt := some q }
      | none => s
    else s.postNow (answerEvent p) e
  | 8 => s.postNow .markerArrival { e with stream := p.aux.toNat % 256 }
  | 10 => s.postNow (if p.aux.toNat = 1 then .podRelease else .podDeviceArrival)
      { e with ch := p.slot, part := p.part, v := p.addr }
  | _ => s.postNow .remoteOpArrival e

/-- A wake signal reaches the router; in the clock of a decision to power down it cancels that (R360). -/
def State.woken (s : State) : State :=
  { s with fabric := { s.fabric with wakeAt := some s.clk, powered := s.fabric.powered || s.fabric.downAt == s.clk } }

/-- A packet whose target device has failed is answered with PROT; what asks for no answer is dropped (R339). -/
def State.refuseFailed (s : State) (p : Packet) : State :=
  if 6 ≤ p.kind then s
  else
    let (a, s) := s.protAnswer p
    if a.dst = s.devid then s.postNow (answerEvent a) { pkt := some a, port := 8 } else s.inject a

/-- A router that is down holds what reaches it in the sender's skid buffer until it is up (R360). -/
def State.skid (s : State) (i : Instr) : State :=
  let t := { s with fabric := { s.fabric with skid := s.fabric.skid ++ [(i, s.ev)] } }
  if s.fabric.skid = [] then t.post 160 .routerWake { port := s.ev.port } else t

/-- A packet of an older generation whose C or D link is down goes on under the generation in force, for which it has waited
(R370); every other keeps its own (R358). -/
def Fabric.regen (f : Fabric) (dev : Nat) (p : Packet) : Packet :=
  match f.route dev p with
  | some (port, _, _) => if 4 ≤ port ∧ (f.link port 0).up = false then { p with gen := f.gen } else p
  | none => p

/-- PACKET_FORWARD (R339, R341, R358, R360): a packet to a failed device is answered; otherwise it reaches the endpoint, or
leaves on its port under the table of its generation. -/
def State.forward (s : State) (p : Packet) (ch : Nat) : State :=
  let f := s.fabric
  if (f.table p.gen).devs.contains p.dst && p.dst != s.devid then s.refuseFailed p
  else match f.route s.devid (f.regen s.devid p) with
    | none => s.endpoint p
    | some (port, q, shut) => { s with fabric := f.sendOut s.devid ch port q shut }

def execPacketForward (s : State) : Host.Outcome State Fault Refusal :=
  event (fun s => match s.ev.pkt with
    | some p =>
      let s := s.woken
      if !s.fabric.powered then s.skid .packetForward else s.forward p (linkKey s.ev.port s.ev.vc)
    | none => s) s

/-- PACKET_NAK_RESEND (R342): the source port sends a refused packet again. -/
def execPacketNakResend (s : State) : Host.Outcome State Fault Refusal :=
  event (fun s => match s.ev.pkt with
    | some p => s.inject p
    | none => s) s

/-! ### At the target (R331, R342, R346 to R348) -/

/-- A refused packet: its source's port sends it again after a back-off, told by a negative acknowledgement, which the model
carries as an answer marked in bit 8 of `aux` (R342; DESIGN CHOICE, log 91). -/
def State.nak (s : State) (p : Packet) : State :=
  if p.src = s.devid then s.post 64 .packetNakResend { pkt := some p }
  else
    let q := asSent p
    s.inject { answerTo q q.dst 0 0 with aux := BitVec.ofNat 64 (256 + p.kind) }

/-- Where a remote write or atomic of `n` bytes falls, at level S of the partition of the same number (R346,
R441), or its error status (R349). -/
def State.remotePlace (s : State) (p : Nat) (ea : Word) (n : Nat) : Except Nat FramePlace :=
  if ea.toNat % n ≠ 0 then .error cMISALIGN
  else match regionOf ea with
    | .cluster c off =>
      if !(s.clusterOk p c) then .error cPROT
      else if inBarWindow off n then .error cBARWORD
      else .ok (.spad c off)
    | .chip => match s.xlate p .S .store ea with
      | .error c => .error c
      | .ok pa =>
        if isBlock pa then .error cPROT
        else if s.isDerived pa then .error cDWRITE
        else .ok (.chip pa)
    | _ => .error cPROT

/-- `n` bytes written at a place by another agent: full-empty bits are set, stale notices go out (R247, R331). -/
def State.putAt (s : State) (cid : Nat) (p : FramePlace) (n v : Nat) : State :=
  match p with
  | .tcm off => s.tcmWrite cid off n v
  | .spad cl off => (s.spadWrite cl off n v).fillRange cl off n
  | .chip pa => s.homeWrite engineWriter (cellsOf pa n v)

/-- The descriptor of a request queue: BASE, CAP, NCID, NEN, HEAD, TAIL (R351), read as loads at the home slice. -/
def State.requestQueue (s : State) (p q : Nat) : Except Nat ((Word × Nat × Nat × Bool × Nat × Nat) × State) := do
  let a : Word := (s.part p).ftbase + BitVec.ofNat 64 (0x40000 + 32 * q)
  if regionOf a ≠ .chip then throw cPROT
  let (base, s) ← s.engineRead p .S a 8
  let (ctl, s) ← s.engineRead p .S (a + 8) 8
  let (head, s) ← s.engineRead p .S (a + 16) 8
  let (tail, s) ← s.engineRead p .S (a + 24) 8
  let cap := bitsN ctl 12 0
  let ok := base % 64 == 0 && (List.range 13).any (fun k => cap == 2 ^ k)
  pure ((BitVec.ofNat 64 base, if ok then cap else 0, bitsN ctl 25 16, ctl.testBit 31, head, tail), s)

/-- The mark in `aux` of a write that is an element of an exchange (R149): bit 63, the handle in [11:0], the
core of the command in [25:16], the command in [57:26], and the bytes of the element in [62:58], 0 for a nibble. -/
def isExch (p : Packet) : Bool := p.kind == 0 && p.aux.toNat.testBit 63
def exchHandle (p : Packet) : Nat := bitsN p.aux.toNat 11 0
def exchBytes (p : Packet) : Nat := bitsN p.aux.toNat 62 58

/-- A buffer of the token's partition. -/
def RecvBuf.is (b : RecvBuf) (p : Packet) : Bool := b.valid && b.part == p.part

/-- Where a token's payload goes in a buffer, and its tag (R334). -/
def RecvBuf.slot (b : RecvBuf) (p : Packet) : Word := b.base + BitVec.ofNat 64 (64 * ((p.data.length - 1) / 8) * b.fill)
def RecvBuf.tag (b : RecvBuf) : Word := b.tags + BitVec.ofNat 64 (8 * b.fill)

/-- The buffers that a token may change: of its experts, and the spill area. -/
def State.tokenBufs (s : State) (p : Packet) : List RecvBuf :=
  [smGet {} s.bufs (bitsN p.aux.toNat 3 0), smGet {} s.bufs (bitsN p.aux.toNat 7 4), s.spill].filter (fun b => b.is p)

/-- The runs of addresses that a packet may write at its target. -/
def State.arrivalRuns (s : State) (p : Packet) : List (Word × Nat) :=
  match p.kind with
  | 0 => [(p.addr, if isExch p then max 1 (exchBytes p) else 8)]
  | 1 => [(p.addr, 64)]
  | 2 => [(p.addr, if p.aux.toNat.testBit 4 then 4 else 8)]
  | 3 => [(p.addr, 8)]
  | 4 => match s.requestQueue p.part (p.addr.toNat % 16) with
    | .ok ((base, cap, _, _, _, tail), _) =>
      [(base + BitVec.ofNat 64 (64 * (tail % cap)), 64),
       ((s.part p.part).ftbase + BitVec.ofNat 64 (0x40000 + 32 * (p.addr.toNat % 16) + 24), 8)]
    | .error _ => []
  | 5 => (s.tokenBufs p).flatMap (fun b =>
      [(b.slot p, 64 * ((p.data.length - 1) / 8)), (b.tag, 8), (b.image + 24, 8)])
  | 7 => [(p.addr + 64, 8)]
  | 8 => [(p.addr, 8)]
  | _ => [(p.addr, 64)]

/-- The chip-memory lines of runs of addresses. -/
def State.runLines (s : State) (p : Nat) (rs : List (Word × Nat)) : List Nat :=
  linesIn (rs.flatMap (fun x => s.mappedRuns p x.1 x.2))

/-- The physical address of what an arrival writes, as the FAB ring shows it (R421): of its first run that can be written;
none where it writes nothing. A token has one entry, with the first slot that may take it (DEDUCED, log 103). -/
def State.arrivalPA (s : State) (p : Packet) : Option Word :=
  (s.arrivalRuns p).findSome? (fun x => match s.remotePlace p.part x.1 (min 64 x.2) with
    | .ok (.spad c off) => some (BitVec.ofNat 64 (0x10000000 + c * 0x400000 + off))
    | .ok (.chip pa) => some (BitVec.ofNat 64 pa)
    | .ok (.tcm off) => some (BitVec.ofNat 64 off)
    | .error _ => none)

/-- The word of a FAB ring entry that says who has sent a packet (R421). -/
def packetSource (p : Packet) : Word := ringSource p.src p.cls p.score p.slot p.kind p.seq

/-- Does the port accept a packet: OM only in SEQ order (R342), and in replay what the capture has logged only in the
captured order (R423)? -/
def State.accepts (s : State) (p : Packet) : Bool :=
  let q := s.part p.part
  let inOrder := p.cls != 0 || smGet 0 s.fabric.omIn (seqKey p.src p.score p.slot s.devid 0) == p.seq
  let replays := !(q.trctl.toNat.testBit 3) || (s.arrivalPA p).isNone ||
    (match q.replay.find? (fun r => r.1 == 256) with
     | some r => r.2.2 == packetSource p
     | none => true)
  inOrder && replays

/-- Accepting moves the expected number on. -/
def State.accept (s : State) (p : Packet) : State :=
  let s := if p.cls = 0 then
      { s with fabric := { s.fabric with
        omIn := smSet 0 s.fabric.omIn (seqKey p.src p.score p.slot s.devid 0) ((p.seq + 1) % 65536) } }
    else s
  s.modPart p.part (fun q => match q.replay.find? (fun r => r.1 == 256) with
    | some r => if q.trctl.toNat.testBit 3 && r.2.2 == packetSource p then { q with replay := q.replay.erase r } else q
    | none => q)

/-- An arrival is performed: the port's order moves on, and it is logged when TRCTL.FAB is set (R331, R421). -/
def State.logArrival (s : State) (p : Packet) : State :=
  match s.arrivalPA p with
  | none => s
  | some a =>
    let n := smGet 0 s.orders 256
    let s := { s with orders := smSet 0 s.orders 256 (n + 1) }
    if (s.part p.part).trctl.toNat.testBit 1 then
      s.ringWrite p.part true [a, packetSource p, BitVec.ofNat 64 n, 0]
    else s

/-- A remote write of `n` bytes, or its error status. -/
def State.remoteWrite (s : State) (p : Nat) (ea : Word) (n v : Nat) : Except Nat State :=
  match s.remotePlace p ea n with
  | .error c => .error c
  | .ok x => .ok (s.putAt 0 x n v)

/-- The words of a payload as one number. -/
def wordsNat : List Word → Nat
  | [] => 0
  | w :: ws => w.toNat + 2 ^ 64 * wordsNat ws

/-- A remote atomic: the old value, or its error status; a poisoned word gives MACHINE_CHECK (R348, R419). -/
def State.remoteAtomic (s : State) (p : Nat) (ea : Word) (w : Nat) (new : Nat → Nat) : Except Nat (Nat × State) :=
  match s.remotePlace p ea w with
  | .error c => .error c
  | .ok x =>
    let bad := match x with
      | .chip pa => (s.chipPoison pa w).isSome
      | .spad cl off => (s.spadPoison cl off w).isSome
      | .tcm _ => false
    if bad then .error cMCHECK
    else
      let old := match x with
        | .chip pa => s.pread pa w
        | .spad cl off => (s.cluster cl).read off w
        | .tcm _ => 0
      let s := match x with
        | .chip pa => s.sliceLoad pa w
        | _ => s
      .ok (old, s.putAt 0 x w (new old))

/-- Runs of the exchange that an arrival or an acknowledgement may let go on (R149). -/
def State.nudge (s : State) (p : Nat) : State :=
  s.cores.foldl (fun (s : State) x => x.2.mauq.foldl (fun (s : State) c => match c.ins with
    | .flxch _ => if c.running ∧ c.stage = 1 ∧ c.part = p then
        s.post 0 .flxchCopyPhase { cl := x.1 / 8, core := x.1, id := c.id } else s
    | _ => s) s) s

/-- The element of an exchange is written at its place; a nibble leaves the other one (R129). -/
def State.exchWrite (s : State) (p : Packet) : Except Nat State :=
  let v := (p.data.headD 0).toNat
  if exchBytes p = 0 then
    match s.remotePlace p.part p.addr 1 with
    | .error c => .error c
    | .ok x =>
      let old := match x with
        | .chip pa => s.pread pa 1
        | .spad cl off => (s.cluster cl).read off 1
        | .tcm _ => 0
      let w := if v.testBit 4 then v % 16 * 16 + old % 16 else old / 16 * 16 + v % 16
      .ok (s.putAt 0 x 1 w)
  else s.remoteWrite p.part p.addr (exchBytes p) v

/-- A write: status, and the landing of its transfer word (R347). -/
def State.remoteRwr (s : State) (p : Packet) : Nat × State :=
  if isExch p then match s.exchWrite p with
    | .error c => (c, s)
    | .ok s =>
      let s := s.modPart p.part (fun q => { q with
        exch := smSet 0 q.exch (exchHandle p) (smGet 0 q.exch (exchHandle p) + 1) })
      (0, s.nudge p.part)
  else
    let n := if p.kind = 1 then 64 else 8
    let t := p.aux.toNat
    let land := t.testBit 14
    let tbk := bitsN t 32 26
    let (st, s) := if land && decide (127 < tbk) then (cILLEGAL, s)
      else match s.remoteWrite p.part p.addr n (wordsNat p.data) with
        | .error c => (c, s)
        | .ok s => (0, s)
    if land && decide (tbk ≤ 127) then (st, s.tbLand tbk (bitsN t 25 16) n (st != 0)) else (st, s)

/-- An operation is acknowledged once the stale notices that it has caused since `before` are (R346, R385). -/
def State.answerAfter (before s : State) (ans : Packet) : State :=
  let new (n : Notice) : Bool := !(before.notices.any (fun x => x.id == n.id))
  match s.notices.find? new with
  | none => s.inject ans
  | some n =>
    let tok := 2 ^ 20 + n.id
    let ans := { ans with vc := 6, gen := if ans.src = s.devid then s.fabric.gen else ans.gen }
    { s with notices := s.notices.map (fun n => if new n then { n with waiting := some tok } else n),
             fabric := { s.fabric with acks := s.fabric.acks ++ [(tok, ans)] } }

/-- The pair's earlier OM write is not yet acknowledged: the port holds the next one (R385). It holds one, too, whose notices
would be late (R388, log 26). -/
def State.pairHeld (s : State) (p : Packet) : Bool :=
  s.writeHeld (s.runLines p.part (s.arrivalRuns p)) || p.cls == 0 && s.fabric.acks.any (fun a => a.2.cls == 0 && a.2.dst == p.src && a.2.score == p.score && a.2.slot == p.slot)

/-- A remote atomic that has failed: one that has read a poisoned word posts an event of kind 2 (R419). -/
def State.atomicFailed (s : State) (p : Packet) (c : Nat) : State :=
  if c = cMCHECK then s.event p.part 2 cMCHECK p.addr ((s.arrivalPA p).getD 0) else s

/-- REMOTE_OP_ARRIVAL (R331, R346 to R348). -/
def execRemoteOpArrival (s : State) : Host.Outcome State Fault Refusal :=
  event (fun s => match s.ev.pkt with
    | none => s
    | some p =>
      if s.pairHeld p then s.post 16 .remoteOpArrival s.ev
      else if !(s.accepts p) then s.nak p
      else
        let s := (s.accept p).logArrival p
        let before := s
        let w := if p.aux.toNat.testBit 4 then 4 else 8
        let t := (p.data.headD 0).toNat
        let (st, v, s) : Nat × Nat × State := match p.kind with
          | 2 => match s.remoteAtomic p.part p.addr w (fun old => amoNew (p.aux.toNat % 16) w old (t % 2 ^ (8 * w))) with
            | .error c => (c, 0, s.atomicFailed p c)
            | .ok (old, s) => (0, (sextW old (8 * w)).toNat, s)
          | 3 => match s.remoteAtomic p.part p.addr 8
              (fun old => if old = t then ((p.data.getD 1 0).toNat) else old) with
            | .error c => (c, 0, s.atomicFailed p c)
            | .ok (old, s) => (0, old, s)
          | _ =>
            let r := s.remoteRwr p
            (r.1, 0, r.2)
        before.answerAfter s (answerTo p s.devid st (BitVec.ofNat 64 v))) s

/-! ### Request queues (R350 to R352) -/

/-- REQUEST_RECORD_ARRIVAL (R350). A record whose write fails has status 3. -/
def State.requestArrive (s : State) (p : Packet) : Nat × Nat × State :=
  let q := p.addr.toNat % 16
  match s.requestQueue p.part q with
  | .error c => (c, 3, s)
  | .ok ((base, cap, ncid, nen, head, tail), s) =>
    let low (t : Nat) : Nat := (t + 2 ^ 64 - 1) % 2 ^ 32 * 2 ^ 32
    if cap = 0 then (0, 2 + low tail, s)
    else if cap ≤ (tail + 2 ^ 64 - head) % 2 ^ 64 then (0, 1 + low tail, s)
    else
      let at_ : Word := base + BitVec.ofNat 64 (64 * (tail % cap))
      let ta : Word := (s.part p.part).ftbase + BitVec.ofNat 64 (0x40000 + 32 * q + 24)
      let r := do
        let s ← s.engineWrite p.part .S at_ 64 (wordsNat p.data)
        s.engineWrite p.part .S ta 8 ((tail + 1) % 2 ^ 64)
      match r with
      | .error c => (c, 3 + low tail, s)
      | .ok s =>
        let w0 := BitVec.ofNat 64 (3 * 2 ^ 62 + q * 2 ^ 48 + p.src * 2 ^ 32 + (tail + 1) % 2 ^ 32)
        let s := if nen then s.toMailbox ncid w0 at_ 0 else s
        (0, low (tail + 1), s)

def execRequestRecordArrival (s : State) : Host.Outcome State Fault Refusal :=
  event (fun s => match s.ev.pkt with
    | none => s
    | some p =>
      if s.pairHeld p then s.post 16 .requestRecordArrival s.ev
      else if !(s.accepts p) then s.nak p
      else
        let before := (s.accept p).logArrival p
        let (st, v, s) := before.requestArrive p
        before.answerAfter s (answerTo p s.devid st (BitVec.ofNat 64 v))) s

/-! ### Acknowledgements (R346, R348 to R350) -/

/-- One operation of a class fewer is outstanding. -/
def Thread.retire (t : Thread) (cls : Nat) : Thread :=
  match cls with
  | 0 => { t with outOM := t.outOM - 1 }
  | 1 => { t with outAD := t.outAD - 1 }
  | _ => { t with outRT := t.outRT - 1 }

/-- One operation of a class more is outstanding. -/
def Thread.outgoing (t : Thread) (cls : Nat) : Thread :=
  match cls with
  | 0 => { t with outOM := t.outOM + 1 }
  | 1 => { t with outAD := t.outAD + 1 }
  | _ => { t with outRT := t.outRT + 1 }

/-- The pending remote error of a failed operation (R349). -/
def remoteError (p : Packet) (status : Nat) : Flt :=
  ⟨status, BitVec.ofNat 64 (p.dst * 2 ^ 50 + p.cls % 4 * 2 ^ 48 + p.addr.toNat % 2 ^ 48)⟩

/-- Held OM packets go out when nothing of the old generation is left before them (R358). -/
def State.releaseHeld (s : State) : State :=
  let go := s.fabric.pending.filter (fun p => !(s.omHeld p))
  let keep := s.fabric.pending.filter (fun p => s.omHeld p)
  go.foldl (fun (s : State) p => s.inject p) { s with fabric := { s.fabric with pending := keep } }

/-- An operation is acknowledged at its source: it is retired, the first error stays pending (R349). No fault reaches a
thread for a token (R333). -/
def State.retireOp (s : State) (p : Packet) (status : Nat) : State :=
  let s := { s with fabric := { s.fabric with flight := s.fabric.flight.erase p } }
  let s := if isExch p then s
    else s.modThread (4 * p.score + p.slot) (fun t =>
      let t := t.retire p.cls
      if status ≠ 0 && p.kind != 5 && t.pendRemote.isNone then { t with pendRemote := some (remoteError p status) } else t)
  s.releaseHeld

/-- The status write of a RENQ, at its issuer's address (R350). -/
def State.statusWrite (s : State) (p : Packet) (v : Nat) : State :=
  let cid := p.score
  match s.framePlace p.part cid .store p.aux with
  | .ok x => s.putAt cid x 8 v
  | .error _ => s

/-- A send of an exchange is acknowledged; a failed one stops the exchange (R149, R150). -/
def State.exchAck (s : State) (p : Packet) (status : Nat) : State :=
  let cid := bitsN p.aux.toNat 25 16
  let id := bitsN p.aux.toNat 57 26
  let s := s.modCore cid (fun c => { c with mauq := c.mauq.map (fun x =>
    if x.id = id then { x with sends := x.sends - 1 } else x) })
  s.post 0 .flxchCopyPhase { cl := cid / 8, core := cid, id := id, status := status, v := p.addr }

/-- Changes a send list of a partition. -/
def State.modList (s : State) (p l : Nat) (f : SendList → SendList) : State :=
  s.modPart p (fun q => { q with lists := smSet {} q.lists l (f (smGet {} q.lists l)) })

/-- A record of flush `fid` is acknowledged: placed, 1 placed with its second choice, 2 spilled; `bit` is what it
adds to the status (R333, R335). The last one sends the summary. -/
def State.recordDone (s : State) (p l fid res bit : Nat) : State :=
  let add (a : FlushAcc) : FlushAcc :=
    if a.fid = fid then
      { a with acked := a.acked + 1, second := a.second + b2n (res == 1), spilled := a.spilled + b2n (res == 2),
               status := a.status ||| bit }
    else a
  let s := s.modList p l (fun x => { x with accs := x.accs.map add })
  if (smGet {} (s.part p).lists l).accs.any (fun a => a.fid == fid && a.closed && a.acked == a.count) then
    s.post 0 .flushSummary { part := p, list := l, fid := fid }
  else s

/-- A token is acknowledged: `p.addr` holds its list and flush (R335). One that is answered with an error was not placed: it
counts as spilled, with bit 1 of the status (R333). -/
def State.tokenAck (s : State) (p : Packet) (status res : Nat) : State :=
  let l := p.addr.toNat % 64
  (s.modList p.part l (fun x => { x with inflight := x.inflight - 1 })).recordDone p.part l (p.addr.toNat / 64)
    (if status = 0 then res % 4 else 2) (if status = 0 then 0 else 2)

/-- REMOTE_ACK_ARRIVAL (R346, R349, R350). -/
def execRemoteAckArrival (s : State) : Host.Outcome State Fault Refusal :=
  event (fun s => match s.ev.pkt with
    | none => s
    | some r => match s.flightOf r with
      | none => s
      | some p =>
        let st := (r.data.headD 0).toNat
        let s := s.retireOp p st
        if isExch p then s.exchAck p st
        else if p.kind = 4 then s.statusWrite p (r.data.getD 1 0).toNat
        else if p.kind = 5 then s.tokenAck p st (r.data.getD 1 0).toNat
        else s) s

/-- The mark of a RAMO or RCAS whose register waits for the response: bit 63, and its number among the thread's in
[62:32] (R348). -/
def owedOp (p : Packet) : Option Nat :=
  if p.aux.toNat.testBit 63 then some (bitsN p.aux.toNat 62 32) else none

/-- The register that waits for operation `op` gets the old value, or stays as it was where the operation failed. -/
def Thread.answered (t : Thread) (op : Nat) (v : Option Word) : Thread :=
  { t with sregs := t.sregs.map (fun x => match x.2 with
    | .owed k old => if k = op then (x.1, .resident (v.getD old)) else x
    | _ => x) }

/-- REMOTE_RESPONSE_ARRIVAL (R348, R349): a failed RAMO or RCAS leaves d unchanged. -/
def execRemoteResponseArrival (s : State) : Host.Outcome State Fault Refusal :=
  event (fun s => match s.ev.pkt with
    | none => s
    | some r => match s.flightOf r with
      | none => s
      | some p =>
        let st := (r.data.headD 0).toNat
        let tid := 4 * p.score + p.slot
        let v := if st = 0 then some (r.data.getD 1 0) else none
        let s := s.retireOp p st
        match owedOp p with
        | some op => { s.modThread tid (fun t => t.answered op v) with
            snaps := s.snaps.map (fun x => if x.1 = tid then (x.1, x.2.answered op v) else x) }
        | none => s.modThread tid (fun t => { t with response := some v })) s

/-! ### Links (R369, R370) -/

/-- LINK_MODE_SET (R369): integrity alone is refused on C and D ports. -/
def execLinkModeSet (s : State) : Host.Outcome State Fault Refusal :=
  event (fun s =>
    let l := s.fabric.link s.ev.port s.ev.vc
    if 2 < s.ev.n || (s.ev.n = 1 && decide (4 ≤ s.ev.port)) then s
    else { s with fabric := s.fabric.setLink s.ev.port s.ev.vc { l with mode := s.ev.n } }) s

/-- LINK_KEY_REPLACEMENT (R369): a new key, and the nonce counter begins again. -/
def execLinkKeyReplacement (s : State) : Host.Outcome State Fault Refusal :=
  event (fun s =>
    let l := s.fabric.link s.ev.port s.ev.vc
    { s with fabric := s.fabric.setLink s.ev.port s.ev.vc { l with key := s.ev.v, nonce := 0 } }) s

/-- A link goes down after 16 failures together, and firmware is notified; what waits for it on A and B is routed again, around
it (R339, R370). The spec gives no event that takes it up again (log 102). -/
def State.linkDown (s : State) (port : Nat) : State :=
  let f := (List.range 8).foldl (fun (f : Fabric) vc => f.setLink port vc { f.link port vc with up := false }) s.fabric
  let waiting := if port < 4 then (List.range 8).flatMap (fun vc => (f.link port vc).buf) else []
  let f := if port < 4 then (List.range 8).foldl (fun (f : Fabric) vc =>
      f.setLink port vc { f.link port vc with buf := [] }) f
    else f
  waiting.foldl (fun (s : State) x => s.post 0 .packetForward { pkt := some x.2, port := x.1 / 8, vc := x.1 % 8 })
    { s with fabric := f, errors := s.errors ++ [(2, BitVec.ofNat 64 port)] }

/-- LINK_FLIT_RECEIVE (R342, R370): a flit whose tag fails is discarded, and the other end sends it again; `n` = 1 says
that the other end has discarded what this end sent, which goes out again from the replay buffer; 2 and 3, that it tells
this end to stop on the channel and to go on. -/
def execLinkFlitReceive (s : State) : Host.Outcome State Fault Refusal :=
  event (fun s =>
    let port := s.ev.port
    let vc := s.ev.vc
    let s := s.woken
    let l := s.fabric.link port vc
    if s.ev.n = 1 then
      { s with fabric := { s.fabric with flits := s.fabric.flits ++ (l.replay.drop s.ev.idx).map (fun x => (port, x)) } }
    else if s.ev.n = 2 then { s with fabric := s.fabric.setLink port vc { l with off := true } }
    else if s.ev.n = 3 then { s with fabric := (s.fabric.setLink port vc { l with off := false }).drain s.devid port vc }
    else if !l.up then s
    else if s.ev.ok then
      let s := { s with fabric := s.fabric.setLink port vc { l with naks := 0, seqIn := l.seqIn + 1 } }
      match s.ev.pkt, s.ev.red with
      | some p, _ =>
        if p.kind = 8 then s.postNow .markerArrival { pkt := some p, port := port, stream := p.aux.toNat % 256 }
        else s.postNow .packetForward { pkt := some p, port := port, vc := vc }
      | none, some r => s.postNow .reductionPacketArrival { red := some r, port := port, stream := r.stream }
      | none, none => s
    else if l.naks + 1 = 16 then
      ({ s with fabric := s.fabric.setLink port vc { l with naks := 16 } }).linkDown port
    else { s with fabric := s.fabric.setLink port vc { l with naks := l.naks + 1 } }) s

/-! ### Routing generations (R358) -/

/-- ROUTING_TABLE_INSTALL (R358): the next generation, with the failed devices and links it routes around; the old one
stays in force. -/
def execRoutingTableInstall (s : State) : Host.Outcome State Fault Refusal :=
  event (fun s => { s with fabric := { s.fabric with
    nextGen := some s.ev.gen, tables := smSet {} s.fabric.tables s.ev.gen { devs := s.ev.nums, links := s.ev.links },
    liveGens := if s.fabric.liveGens.contains s.ev.gen then s.fabric.liveGens else s.ev.gen :: s.fabric.liveGens } }) s

/-- ROUTING_TABLE_SWITCH (R358): sources inject under the new generation; what waits for a C or D link that is down has waited
for it, and is routed again under it (R370). Every other packet keeps its generation. -/
def execRoutingTableSwitch (s : State) : Host.Outcome State Fault Refusal :=
  event (fun s => match s.fabric.nextGen with
    | none => s
    | some g =>
      let down (x : Nat × Link) : Bool := decide (32 ≤ x.1) && !x.2.up
      let waiting := s.fabric.links.flatMap (fun x => if down x then x.2.buf else [])
      let links := s.fabric.links.map (fun x => if down x then (x.1, { x.2 with buf := [] }) else x)
      let s := { s with fabric := { s.fabric with gen := g, nextGen := none, links := links } }
      waiting.foldl (fun (s : State) x =>
        s.post 0 .packetForward { pkt := some { x.2 with gen := g }, port := x.1 / 8, vc := x.1 % 8 }) s) s

/-- Does a packet of a generation remain here? -/
def Fabric.holds (f : Fabric) (g : Nat) : Bool :=
  f.flight.any (fun p => p.gen == g) || f.pending.any (fun p => p.gen == g) ||
  f.links.any (fun x => x.2.buf.any (fun y => y.2.gen == g)) || f.branches.any (fun b => b.pkts.any (fun p => p.gen == g)) ||
  f.skid.any (fun x => x.2.pkt.any (fun p => p.gen == g))

/-- ROUTING_GENERATION_RETIRE (R358): an old generation goes once no packet of it remains in the system; `ok` says that
none remains elsewhere. -/
def execRoutingGenerationRetire (s : State) : Host.Outcome State Fault Refusal :=
  event (fun s =>
    let g := s.ev.gen
    if g = s.fabric.gen || s.fabric.holds g || !s.ev.ok then s
    else { s with fabric := { s.fabric with
      tables := smSet {} s.fabric.tables g {}, liveGens := s.fabric.liveGens.filter (fun x => x != g) } }) s

/-! ### Router power (R360) -/

/-- Anything on its way through the router, or waiting in it. -/
def State.routerBusy (s : State) : Bool :=
  s.agenda.any (fun x => match x.2.1 with
    | .packetForward | .markerArrival | .reductionPacketArrival => decide (x.1 ≤ s.clk)
    | _ => false) ||
  s.fabric.skid != [] || s.fabric.branches != [] || s.fabric.links.any (fun x => x.2.buf != []) || s.fabric.gathers != []

/-- ROUTER_POWER_DOWN (R360): an idle router in clock k, with no wake signal in clocks k - 2 to k; `ok` tells that none
came from outside. -/
def execRouterPowerDown (s : State) : Host.Outcome State Fault Refusal :=
  event (fun s =>
    let woken := match s.fabric.wakeAt with
      | some c => decide (s.clk ≤ c + 2)
      | none => false
    if s.routerBusy || woken || !s.ev.ok then s
    else { s with fabric := { s.fabric with powered := false, downAt := s.clk } }) s

/-- The router is up, and what it held goes on in its order, before anything that comes now (R360). -/
def State.routerUp (s : State) : State :=
  { s with fabric := { s.fabric with powered := true, skid := [] },
           agenda := s.fabric.skid.map (fun x => (s.clk, x.1, x.2)) ++ s.agenda }

/-- ROUTER_WAKE (R360): the router is up again; a wake in the clock of the decision cancels it. -/
def execRouterWake (s : State) : Host.Outcome State Fault Refusal :=
  event (fun s => if s.fabric.powered then s.woken else s.woken.routerUp) s

end Sys2Proof.Machine
end

