-- ==== Sys2Proof/Machine/Window.lean ====
section
/-! DEFINITION. Format windows of a cluster scratchpad (R175, R176): elements as exact values, encoding with one
rounding, block exponents. -/

namespace Sys2Proof.Machine

/-- The format register of a window. -/
structure Win where
  n : Nat
  fmt : Nat
  bs : Bool
  scale : Int
  deriving DecidableEq, Repr

/-- A signed byte. -/
def sByte (b : Nat) : Int := if b % 256 < 128 then ((b % 256 : Nat) : Int) else ((b % 256 : Nat) : Int) - 256

/-- Window n of a cluster; window 15 has no block scaling. -/
def Cluster.win (k : Cluster) (n : Nat) : Win :=
  let w := (smGet 0 k.wfmt n).toNat
  { n := n, fmt := bitsN w 2 0, bs := w.testBit 3 && n != 15, scale := sByte (bitsN w 15 8) }

namespace Win

/-- First byte of the window. -/
def base (w : Win) : Nat := w.n * 0x40000
/-- Bytes that elements may occupy. -/
def span (w : Win) : Nat := if w.bs then 0x3C000 else 0x40000
/-- Bytes of `n` elements of the window's format, from an even element on. -/
def bytes (w : Win) (n : Nat) : Nat := if w.fmt = 5 then n / 2 else n * (if w.fmt = 4 then 1 else fmtBits w.fmt / 8)
/-- Scratchpad offset of element i. -/
def at_ (w : Win) (i : Nat) : Nat := w.base + (if w.fmt = 5 then i / 2 else w.bytes i)
/-- The element that starts at a window offset, and whether one does. -/
def elemAt (w : Win) (off : Nat) : Nat × Bool :=
  if w.fmt = 5 then (2 * off, true) else (off / w.bytes 1, off % w.bytes 1 == 0)

end Win

/-- The code of element i. -/
def Cluster.winCode (k : Cluster) (w : Win) (i : Nat) : Nat :=
  if w.fmt = 5 then (if i % 2 = 0 then k.read (w.at_ i) 1 % 16 else k.read (w.at_ i) 1 / 16)
  else k.read (w.at_ i) (w.bytes 1) % 2 ^ fmtBits w.fmt

/-- The block exponent stored for element i. -/
def Cluster.winBE (k : Cluster) (w : Win) (i : Nat) : Int :=
  if w.bs then sByte (k.read (w.base + 0x3C000 + i / 32) 1) else 0

def scale2 (v : Val × Val) (e : Int) : Val × Val := (v.1.scale e, v.2.scale e)

/-- The value of element i (R176). -/
def Cluster.winVal (k : Cluster) (w : Win) (t : Tbl4) (i : Nat) : Val × Val :=
  scale2 (decodeElem w.fmt t (k.winCode w i)) (w.scale + k.winBE w i)

/-- Writes the code of element i; its granule's poison clears with whole words. -/
def State.winPut (s : State) (cl : Nat) (w : Win) (i c : Nat) : State :=
  if w.fmt = 5 then
    let old := (s.cluster cl).read (w.at_ i) 1
    s.spadWrite cl (w.at_ i) 1 (if i % 2 = 0 then old / 16 * 16 + c % 16 else c % 16 * 16 + old % 16)
  else s.spadWrite cl (w.at_ i) (w.bytes 1) c

/-- Writes a block exponent. -/
def State.winPutBE (s : State) (cl : Nat) (w : Win) (i : Nat) (be : Int) : State :=
  s.spadWrite cl (w.base + 0x3C000 + i / 32) 1 ((be + 256) % 256).toNat

/-- Elements that an agent writes as values: those of whole aligned blocks of 32 get a new block exponent, the
others use the one that is stored (R176). `enc` encodes a scaled value; `vs` lists the elements by number. Where no
block exponent fits, the codes saturate, with the flags of the encoding. -/
def State.winWrite (s : State) (cl : Nat) (w : Win) (t : Tbl4) (enc : Val × Val → Nat × Flags)
    (vs : List (Nat × (Val × Val))) : State × Flags :=
  let blocks := (vs.map (fun x => x.1 / 32)).eraseDups
  let whole (b : Nat) : Bool := w.bs && (List.range 32).all (fun j => vs.any (fun x => x.1 == 32 * b + j))
  let chosen := (blocks.filter whole).map (fun b =>
    let mine := vs.filter (fun x => x.1 / 32 == b)
    (b, chooseBE (fmtComp w.fmt) t w.scale
      (mine.flatMap (fun (x : Nat × (Val × Val)) => if fmtCplx w.fmt then [x.2.1, x.2.2] else [x.2.1]))))
  let s := chosen.foldl (fun (s : State) c => s.winPutBE cl w (32 * c.1) c.2.1) s
  vs.foldl (fun (a : State × Flags) x =>
    let v := scale2 x.2 (-(w.scale + (a.1.cluster cl).winBE w x.1))
    let sat := chosen.any (fun c => c.1 == x.1 / 32 && !c.2.2)
    let h := if sat then (saturate (fmtComp w.fmt) t v.1, saturate (fmtComp w.fmt) t v.2) else v
    (a.1.winPut cl w x.1 (enc h).1, a.2 ||| (enc v).2)) (s, 0)

/-- The usual encoding: one rounding of each component into the window's format (R172). -/
def Win.enc (w : Win) (t : Tbl4) (mode : Nat) (v : Val × Val) : Nat × Flags :=
  roundElem w.fmt t mode (v.1, v.1.isSig) (v.2, v.2.isSig)

end Sys2Proof.Machine
end

