-- ==== Sys2Proof/Machine/Copy.lean ====
section
/-! DEFINITION. The copy engine (R257 to R262, R439). -/

namespace Sys2Proof.Machine

/-! ### Registers (R257, R259) -/

/-- EWR of ce.src to ce.flags. -/
def execEwr (o : Src1) (num : Word) (s : State) : Host.Outcome State Fault Refusal :=
  plain (do
    let v ← o.read
    if 7 ≤ num.toNat then illegalOp
    modify (fun s => s.modTh (fun t => { t with ce := smSet 0 t.ce num.toNat v }))) s

/-- re.stat of a list (R357). -/
def SendList.stat (x : SendList) : Word :=
  BitVec.ofNat 64 (b2n (x.accs.any (fun a => a.closed)) * 2 ^ 56 + x.recs.length % 2 ^ 16 * 2 ^ 40
    + x.inflight % 2 ^ 16 * 2 ^ 24 + x.hdr.toNat % 2 ^ 18)

/-- ERD of ce.src to ce.flags, and of the routing engine's registers (R259, R332, R334, R357). -/
def execErd (d : Reg) (num : Word) (s : State) : Host.Outcome State Fault Refusal :=
  plain (do
    let s ← get
    let t := s.th
    let l := smGet {} s.myPart.lists t.reList
    match num.toNat with
    | 256 => writeS d (BitVec.ofNat 64 t.reList)
    | 257 => writeS d l.hdr
    | 258 => writeS d (BitVec.ofNat 64 (s.discards % 2 ^ 32 * 2 ^ 32 + t.reStatus % 2))
    | 259 => writeS d 0
    | 260 => writeS d l.stat
    | n => if n ≤ 6 then writeS d (smGet 0 t.ce n) else illegalOp) s

/-- ERD ce.launch (R259): an irrevocable action, and with ACQ a commit point. The issuer's earlier scratchpad and TCM stores
are performed first, those of its vector instructions among them. The command captures the I4 table as it is now
(DESIGN CHOICE, log 80: R171 says so of FCVT and MAU commands alone). -/
def execCopyLaunch (d : Reg) (s : State) : Host.Outcome State Fault Refusal :=
  plain (do
    irrevocable
    storesPerformed
    let s ← get
    if (smGet 0 s.th.ce 6).toNat.testBit 3 then commitOnly
    let s ← get
    let k := s.myCluster
    if 32 ≤ k.copyq.length then writeS d 0
    else
      let id := k.cbtid % 65535 + 1
      let c : CopyCmd :=
        { id := id, tid := s.cur, part := s.th.part, level := s.th.level, regs := (List.range 7).map (smGet 0 s.th.ce),
          tblA := s.myCore.tbl4a, tblB := s.myCore.tbl4b }
      set (s.modMyCluster (fun k => { k with cbtid := id, copyq := k.copyq ++ [c] }))
      writeS d (BitVec.ofNat 64 id)) s

/-! ### A command's parts -/

namespace CopyCmd

def reg (c : CopyCmd) (k : Nat) : Word := c.regs.getD k 0
def cid (c : CopyCmd) : Nat := c.tid / 4
def len (c : CopyCmd) : Nat := (c.reg 2).toNat
def cnt (c : CopyCmd) : Nat := (c.reg 5).toNat
def flags (c : CopyCmd) : Nat := (c.reg 6).toNat
def raw (c : CopyCmd) : Bool := c.flags.testBit 8
def ck (c : CopyCmd) : Nat := bitsN c.flags 2 0
def tbl (c : CopyCmd) : Tbl4 := ⟨c.tblA, c.tblB⟩
def srcRow (c : CopyCmd) (r : Nat) : Word := c.reg 0 + c.reg 3 * BitVec.ofNat 64 r
def dstRow (c : CopyCmd) (r : Nat) : Word := c.reg 1 + c.reg 4 * BitVec.ofNat 64 r

end CopyCmd

/-- The window of an address as a command's core sees it, with its cluster (R260). -/
def State.copyWin (s : State) (c : CopyCmd) (ea : Word) : Option (Nat × Win) :=
  match regionOf ea with
  | .own off => some (c.tid / 32, (s.cluster (c.tid / 32)).win (off / 0x40000))
  | .cluster k off => some (k, (s.cluster k).win (off / 0x40000))
  | _ => none

/-- The format of an end: the window's, or the code in ce.flags. -/
def State.copyFmt (s : State) (c : CopyCmd) (ea : Word) (outside : Nat) : Nat :=
  match s.copyWin c ea with
  | some (_, w) => w.fmt
  | none => outside

def CopyCmd.sfmt (c : CopyCmd) : Nat := bitsN c.flags 11 9
def CopyCmd.dfmt (c : CopyCmd) : Nat := bitsN c.flags 14 12

/-- Bytes of `n` elements. -/
def elemBytes (fmt n : Nat) : Nat := if fmt = 5 then (n + 1) / 2 else if fmt = 4 then n else n * (fmtBits fmt / 8)

/-- Elements in `n` bytes, and whether they are whole. -/
def elemCount (fmt n : Nat) : Nat × Bool :=
  if fmt = 5 then (2 * n, true) else (n / elemBytes fmt 1, n % elemBytes fmt 1 == 0)

/-- Destination bytes of row r. -/
def State.rowBytes (s : State) (c : CopyCmd) (r : Nat) : Nat :=
  if c.raw then c.len
  else elemBytes (s.copyFmt c (c.dstRow r) c.dfmt) (elemCount (s.copyFmt c (c.srcRow r) c.sfmt) c.len).1

/-- Do equal formats have equal scales at both ends of a row, so that bits are copied unchanged (R260)? -/
def State.sameScale (s : State) (c : CopyCmd) (r : Nat) : Bool :=
  let sc (ea : Word) : Option Int := match s.copyWin c ea with
    | some (_, w) => if w.bs then none else some w.scale
    | none => some 0
  match sc (c.srcRow r), sc (c.dstRow r) with
  | some a, some b => a == b
  | _, _ => false

/-! ### Checks before any access (R261) -/

/-- Bad register values: status 3. -/
def CopyCmd.bad (c : CopyCmd) : Bool :=
  decide (5 < bitsN c.flags 7 5) || decide (3 < c.ck) || bitsN c.flags 63 33 != 0 || c.flags.testBit 15
  || decide (2 ^ 24 < c.len) || decide (65535 < c.cnt) || decide (2 ^ 32 ≤ c.len * c.cnt)

/-- A row whose destination overlaps the barrier window of a scratchpad window that it runs through: status 1 (R248). -/
def State.rowBar (s : State) (c : CopyCmd) (r : Nat) : Bool :=
  let a := (c.dstRow r).toNat
  let b := a + s.rowBytes c r
  let hits (base : Nat) : Bool := decide (a < b ∧ base + 0x3FC000 < b ∧ a < base + 0x400000)
  let first := (a - 0x10000000) / 0x400000
  let last := (min b 0x30000000 - 1 - 0x10000000) / 0x400000
  hits 0x1000000 ||
  (decide (0x10000000 < b ∧ a < 0x30000000) &&
    (List.range (last + 1 - first)).any (fun k => hits (0x10000000 + (first + k) * 0x400000)))

/-- A row with a destination line in derived storage, which is whole lines, through a page of whatever permission: status 2
(R261, R379). -/
def State.rowDerived (s : State) (c : CopyCmd) (r : Nat) : Bool :=
  s.rules != [] && (s.mappedRuns c.part (c.dstRow r) (s.rowBytes c r)).any (fun g =>
    s.rules.any (fun x => x.segs.any (fun y =>
      decide (y.pa / 256 * 256 < g.pa + g.len ∧ g.pa < (y.pa + y.len + 255) / 256 * 256))))

/-- A row that is no conversion, or has partial or misaligned elements: status 4. -/
def State.rowForm (s : State) (c : CopyCmd) (r : Nat) : Bool :=
  !c.raw &&
    (let a := s.copyFmt c (c.srcRow r) c.sfmt
     let b := s.copyFmt c (c.dstRow r) c.dfmt
     (a != b && !(convOk a b)) || !(elemCount a c.len).2 || (b == 5 && (elemCount a c.len).1 % 2 != 0)
     || (c.srcRow r).toNat % elemBytes a 1 != 0 || (c.dstRow r).toNat % elemBytes b 1 != 0)

/-- The status of the checks: 0 when the copy may run. -/
def State.copyCheck (s : State) (c : CopyCmd) : Nat :=
  let rows := List.range c.cnt
  if c.bad then 3
  else if c.len = 0 then 0
  else if rows.any (s.rowBar c) then 1
  else if rows.any (s.rowDerived c) then 2
  else if (rows.foldl (fun n r => n + s.rowBytes c r) 0) ≥ 2 ^ 32 then 3
  else if rows.any (s.rowForm c) then 4
  else 0

/-! ### Moving bytes -/

/-- The status of a translation's cause: at a source or at a destination. -/
def copyStatus (cause : Nat) : Nat :=
  if cause = cLOAD then 6 else if cause = cSTORE then 7 else if cause = cMCHECK then 8 else if cause = cDWRITE then 2 else 5

/-- Reads `n` bytes that lie in one 64-byte sector (R260, R441), or the status. -/
def State.copyRead (s : State) (c : CopyCmd) (ea : Word) (n : Nat) : Except Nat (Nat × State) :=
  let spad (k off : Nat) : Except Nat (Nat × State) :=
    if (s.spadPoison k off n).isSome then .error 8 else .ok ((s.cluster k).read off n, s)
  match regionOf ea with
  | .tcm off =>
    if (s.core c.cid).tcmMax * 0x10000 < off + n then .error 5
    else if (s.tcmPoison c.cid off n).isSome then .error 8
    else .ok (s.tcmLoad c.cid off n)
  | .own off => spad (c.tid / 32) off
  | .cluster k off => if s.clusterOk c.part k then spad k off else .error 5
  | .chip => match s.xlate c.part c.level .load ea with
    | .error e => .error (copyStatus e)
    | .ok pa =>
      if isBlock pa then .error 5
      else match s.engineRead c.part c.level ea n with
        | .ok r => .ok r
        | .error e => .error (copyStatus e)
  | .bad => .error 5

/-- Writes `n` bytes that lie in one 64-byte sector: full-empty bits and stale notices follow (R247, R260). -/
def State.copyWrite (s : State) (c : CopyCmd) (ea : Word) (n v : Nat) : Except Nat State :=
  match regionOf ea with
  | .tcm off =>
    if (s.core c.cid).tcmMax * 0x10000 < off + n then .error 5
    else .ok ((s.tcmTouch c.cid off true).tcmWrite c.cid off n v)
  | .own off => .ok (s.putAt c.cid (.spad (c.tid / 32) off) n v)
  | .cluster k off => if s.clusterOk c.part k then .ok (s.putAt c.cid (.spad k off) n v) else .error 5
  | .chip => match s.xlate c.part c.level .store ea with
    | .error e => .error (copyStatus e)
    | .ok pa =>
      if isBlock pa then .error 5
      else if s.isDerived pa then .error 2
      else .ok (s.putAt c.cid (.chip pa) n v)
  | .bad => .error 5

/-- A byte run cut at 64-byte boundaries: offsets and lengths. -/
def sectors (ea : Word) (off : Nat) : Nat → Nat → List (Nat × Nat)
  | 0, _ => []
  | fuel + 1, n =>
    if n = 0 then []
    else
      let k := min n (64 - (ea.toNat + off) % 64)
      (off, k) :: sectors ea (off + k) fuel (n - k)

/-- Reads `n` bytes as one number. -/
def State.copyReadN (s : State) (c : CopyCmd) (ea : Word) (n : Nat) : Except Nat (Nat × State) :=
  (sectors ea 0 (n + 1) n).foldlM (fun (x : Nat × State) (p : Nat × Nat) => do
    let (v, s) ← x.2.copyRead c (ea + BitVec.ofNat 64 p.1) p.2
    pure (x.1 + v * 2 ^ (8 * p.1), s)) (0, s)

/-- How a row or a copy ended: the state, the bytes written, the flags and the status. -/
structure CopyEnd where
  s : State
  bytes : Nat := 0
  fl : Flags := 0
  status : Nat := 0

/-- Writes `n` bytes of a number in ascending order; a failure leaves the bytes before it. -/
def State.copyWriteN (s : State) (c : CopyCmd) (ea : Word) (n v : Nat) : CopyEnd :=
  (sectors ea 0 (n + 1) n).foldl (fun (x : CopyEnd) (p : Nat × Nat) =>
    if x.status ≠ 0 then x
    else match x.s.copyWrite c (ea + BitVec.ofNat 64 p.1) p.2 (bitsN v (8 * (p.1 + p.2) - 1) (8 * p.1)) with
      | .ok s => { x with s := s, bytes := x.bytes + p.2 }
      | .error e => { x with status := e }) { s := s }

/-- Element i of a row's bytes. -/
def elemOf (fmt v i : Nat) : Nat :=
  if fmt = 5 then v / 16 ^ i % 16 else v / 2 ^ (8 * elemBytes fmt 1 * i) % 2 ^ fmtBits fmt

/-- Codes as the bytes of a row. -/
def packElems (fmt : Nat) : List Nat → Nat
  | [] => 0
  | c :: cs => c + (if fmt = 5 then 16 else 2 ^ (8 * elemBytes fmt 1)) * packElems fmt cs

/-- Copies row r (R260): bits unchanged, or each element decoded exactly and rounded once. Bytes of the side array of a
block-scaled window are elements too (R176; DESIGN CHOICE, log 81); an element of equal format and other scale is rounded
as any other (log 82). -/
def State.copyRow (s : State) (c : CopyCmd) (r : Nat) : CopyEnd :=
  let src := c.srcRow r
  let dst := c.dstRow r
  match s.copyReadN c src c.len with
  | .error e => { s := s, status := e }
  | .ok (v, s) =>
    let a := s.copyFmt c src c.sfmt
    let b := s.copyFmt c dst c.dfmt
    if c.raw || (a == b && s.sameScale c r) then s.copyWriteN c dst c.len v
    else
      let n := (elemCount a c.len).1
      let vals : List (Val × Val) := (List.range n).map (fun i => match s.copyWin c src with
        | some (k, w) => (s.cluster k).winVal w c.tbl ((w.elemAt ((src.toNat - 0x1000000) % 0x40000)).1 + i)
        | none => decodeElem a c.tbl (elemOf a v i))
      match s.copyWin c dst with
      | some (k, w) =>
        let e0 := (w.elemAt ((dst.toNat - 0x1000000) % 0x40000)).1
        if !(k == c.tid / 32 || s.clusterOk c.part k) then { s := s, status := 5 }
        else
          let (s, fl) := s.winWrite k w c.tbl (w.enc c.tbl 0)
            ((vals.zip (List.range n)).map (fun (x : (Val × Val) × Nat) => (e0 + x.2, x.1)))
          let s := s.fillRange k (w.at_ e0) (elemBytes b n)
          -- the exponents of the blocks that the row covers whole (R176, R247)
          let (b0, b1) := ((e0 + 31) / 32, (e0 + n) / 32)
          { s := if w.bs then s.fillRange k (w.base + 0x3C000 + b0) (b1 - b0) else s, bytes := elemBytes b n, fl := fl }
      | none =>
        let rs := vals.map (fun x => roundElem b c.tbl 0 (x.1, x.1.isSig) (x.2, x.2.isSig))
        let e := s.copyWriteN c dst (elemBytes b n) (packElems b (rs.map Prod.fst))
        { e with fl := rs.foldl (fun f x => f ||| x.2) 0 }

/-- The rows in order, up to the first failure. -/
def State.copyRows (s : State) (c : CopyCmd) : CopyEnd :=
  if c.len = 0 then { s := s }
  else (List.range c.cnt).foldl (fun (x : CopyEnd) r =>
    if x.status ≠ 0 then x
    else
      let e := x.s.copyRow c r
      { e with bytes := x.bytes + e.bytes, fl := x.fl ||| e.fl }) { s := s }

/-! ### Start and completion -/

/-- Can the engine of a cluster start a command (R260)? -/
def State.copyReady (s : State) (cl : Nat) : Option CopyCmd :=
  let q := (s.cluster cl).copyq
  if 4 ≤ (q.filter (fun c => c.running && !c.done)).length then none
  else q.find? (fun c => !c.running)

def State.modCopy (s : State) (cl id : Nat) (f : CopyCmd → CopyCmd) : State :=
  s.modCluster cl (fun k => { k with copyq := k.copyq.map (fun x => if x.id = id then f x else x) })

/-- COPY_COMMAND_START (R260): queue order, up to four at a time, 256 bytes per clk. -/
def execCopyCommandStart (s : State) : Host.Outcome State Fault Refusal :=
  event (fun s => match s.copyReady s.ev.cl with
    | none => s
    | some c =>
      let t := if c.bad then 1 else 24 + (c.len * c.cnt + 255) / 256
      (s.modCopy s.ev.cl c.id (fun x => { x with running := true })).post t .copyCommandComplete
        { cl := s.ev.cl, id := c.id }) s

/-- Does a row read or write the TCM unit that moves (R72)? -/
def State.rowMoving (s : State) (c : CopyCmd) (r : Nat) : Bool :=
  let k := s.core c.cid
  let hits (ea : Word) (n : Nat) : Bool := match regionOf ea, k.moving with
    | .tcm off, some m =>
      let u := min m k.tcmUnits * 0x10000
      decide (off < u + 0x10000 ∧ u < off + n)
    | _, _ => false
  hits (c.srcRow r) c.len || hits (c.dstRow r) (s.rowBytes c r)

/-- A copy waits for a TCM unit that moves (R72), and where notices of its writes would be late (R388). -/
def State.copyHeld (s : State) (c : CopyCmd) : Bool :=
  (List.range c.cnt).any (fun r => s.rowMoving c r) ||
    s.writeHeld ((List.range c.cnt).flatMap (fun r => linesIn (s.mappedRuns c.part (c.dstRow r) (s.rowBytes c r))))

/-- COPY_COMMAND_COMPLETE (R261): the transfer word lands, the entry goes to the mailbox; while that is full the
command keeps its queue place (R439). -/
def execCopyCommandComplete (s : State) : Host.Outcome State Fault Refusal :=
  event (fun s =>
    let cl := s.ev.cl
    match (s.cluster cl).copyq.find? (fun x => x.id == s.ev.id && x.running && !x.done) with
    | none => s
    | some c =>
      if !c.bad && s.copyHeld c then s.post 16 .copyCommandComplete s.ev
      else
      let st := s.copyCheck c
      let e : CopyEnd := if st ≠ 0 then { s := s, status := st } else s.copyRows c
      let s := e.s
      let s := if e.status = 8 then s.event c.part 2 cMCHECK (s.thread c.tid).record 0 else s
      let s := if c.ck = 2 ∨ c.ck = 3 then
          s.tbLand (bitsN c.flags 32 26) (bitsN c.flags 25 16)
            ((List.range c.cnt).foldl (fun n r => n + s.rowBytes c r) 0) (e.status != 0)
        else s
      if c.ck = 1 ∨ c.ck = 3 ∨ e.status ≠ 0 then
        let w0 := BitVec.ofNat 64 (2 ^ 62 + e.fl.toNat * 2 ^ 56 + e.status * 2 ^ 48 + c.id * 2 ^ 32 + e.bytes % 2 ^ 32)
        let k := s.core c.cid
        let waits := !k.preempted && k.spillq == [] && (k.port != [] || decide (16 ≤ k.mailbox.length))
        let s := s.toMailbox c.cid w0 (c.reg 1) 0
        if waits then s.modCopy cl c.id (fun x => { x with done := true })
        else s.modCluster cl (fun k => { k with copyq := k.copyq.filter (fun x => x.id != c.id) })
      else s.modCluster cl (fun k => { k with copyq := k.copyq.filter (fun x => x.id != c.id) })) s

end Sys2Proof.Machine
end

