-- ==== Sys2Proof/Machine/FieldOps.lean ====
section
/-! DEFINITION. The field instructions that a core performs itself (R143 to R156). -/

namespace Sys2Proof.Machine

/-- FLDEF (R146). -/
def execFldef (o : Src2) (s : State) : Host.Outcome State Fault Refusal :=
  plain (do
    let (h, a) ← o.read
    handleOk h
    let img ← loadN a 64
    let (old, _) ← descSeen h
    if old.state ≠ 0 then fieldBad 3 h
    if !(Desc.ofNat img).valid then fieldBad 4 h
    let s ← get
    storeN (descAddr s.myPart.ftbase h.toNat) 64 (img + 2 ^ 120)) s

/-- The `n` bytes of a permutation list: each is read as a load, or, where some lie in another cluster's scratchpad, all in
one access over the mesh (R147, R310). -/
def readList (a : Word) (n : Nat) : Sem (List Nat) := do
  let ps ← (List.range n).mapM (fun k => check (.load 1) (a + BitVec.ofNat 64 k))
  let s ← get
  match ps with
  | .spad cl off :: _ =>
    if ps.all (fun p => match p with
        | .spad c _ => c == s.kid
        | _ => true) then ps.mapM (fun p => loadPlace p a 1)
    else
      let v ← meshFetch cl off n
      (ps.zip (List.range n)).mapM (fun (x : Place × Nat) => do
        match x.1 with
        | .spad c o => refusePoison (s.spadPoison c o 1)
        | _ => pure ()
        pure (v / 256 ^ x.2 % 256))
  | _ => (ps.zip (List.range n)).mapM (fun (x : Place × Nat) => loadPlace x.1 (a + BitVec.ofNat 64 x.2) 1)

/-- A descriptor's place for a store of the running thread, in chip memory. -/
def descStore (h : Word) : Sem Nat := do
  let s ← get
  let ea := descAddr s.myPart.ftbase h.toNat
  let p ← check (.store 64) ea
  match p with
  | .chip pa => pure pa
  | _ => trap cPROT ea

/-- FLPERM (R147): the permutation is buffered and composed onto the map at its commit (R155). -/
def execFlperm (o : Src2) (s : State) : Host.Outcome State Fault Refusal :=
  plain (do
    let (h, a) ← o.read
    let (d, _) ← descDefined h
    let s ← get
    if s.isBound s.th.part h.toNat d then fieldBad 9 h
    let l ← readList a d.n
    if !Desc.isPerm l d.n then fieldBad 5 h
    let pa ← descStore h
    bufferEntry (.perm pa l)) s

/-- FLSTAT (R151). -/
def execFlstat (o : Un) (s : State) : Host.Outcome State Fault Refusal :=
  plain (do
    let h ← o.read
    let (d, _) ← descSeen h
    writeS o.d (if d.state = 0 then 0
      else BitVec.ofNat 64 (d.state * 2 ^ 56 + d.fmt * 2 ^ 48 + d.s * 2 ^ 40 + d.n * 2 ^ 32 + d.shift))) s

/-- FLFREE (R152): STATE becomes 0 at the commit, which waits while BUSY = 1. -/
def execFlfree (o : Src1) (s : State) : Host.Outcome State Fault Refusal :=
  plain (do
    let h ← o.read
    let (d, _) ← descDefined h
    let s ← get
    if s.isBound s.th.part h.toNat d then fieldBad 9 h
    let pa ← descStore h
    bufferStore (pa + 15) 1 0 [pa]) s

/-- FLMAP (R153). -/
def execFlmap (o : Bin) (s : State) : Host.Outcome State Fault Refusal :=
  plain (do
    let (h, j) ← o.read
    let (d, _) ← descDefined h
    if d.n ≤ j.toNat then writeS o.d (BitVec.ofNat 64 (2 ^ 63))
    else
      let p := d.mapBit j.toNat
      let c := if p < d.near then 0 else if p < d.l then 1 else 2
      writeS o.d (BitVec.ofNat 64 (c * 256 + p))) s

end Sys2Proof.Machine
end

