-- ==== Sys2Proof/Machine/Float.lean ====
section
/-! DEFINITION. Scalar float (R216 to R218), complex and conversion instructions (R219 to R221), packed
integers (R222) and the generator (R223). -/

namespace Sys2Proof.Machine

/-! ### Lanes (R158, R159) -/

/-- The component format of a format variant V: 0 FP32, 1 C32, 2 P2, 3 P4. -/
def varFmt (v : BitVec 2) : Fmt := if v = 3 then .bf16 else .fp32
/-- How many components a variant has. -/
def varLanes (v : BitVec 2) : Nat := if v = 0 then 1 else if v = 3 then 4 else 2

/-- Component k of a register value. -/
def laneOf (f : Fmt) (x : Word) (k : Nat) : Nat := bitsN x.toNat (f.bits * k + f.bits - 1) (f.bits * k)

/-- Puts components together, zero above them (R159). -/
def ofLanes (f : Fmt) (rs : List Nat) : Word :=
  BitVec.ofNat 64 (rs.foldr (fun r acc => r % 2 ^ f.bits + acc * 2 ^ f.bits) 0)

/-- The value of component k. -/
def laneVal (f : Fmt) (x : Word) (k : Nat) : Val := f.decode ⟨0, 0⟩ (laneOf f x k)

/-- Codes and flags of all lanes together. -/
def joinLanes (f : Fmt) (rs : List (Nat × Flags)) : Word × Flags :=
  (ofLanes f (rs.map (fun r => r.1)), rs.foldl (fun a r => a ||| r.2) 0)

/-- An exact result of one component, with its own flags, rounded once (R160). -/
def settle1 (f : Fmt) (mode : Nat) (x : Val × Bool) : Nat × Flags := f.roundInv ⟨0, 0⟩ mode x

/-! ### The exact results of R217 -/

def negTerm (x : Val × Bool) : Val × Bool := (x.1.neg, x.2)

/-- A term that carries its NaN's signal as a flag. -/
def term (v : Val) : Val × Bool := (v, false)

/-- Real and imaginary parts of a product, as terms of sums. -/
def prodRe (a b : Val × Val) : List (Val × Bool) := [a.1.mul b.1, negTerm (a.2.mul b.2)]
def prodIm (a b : Val × Val) : List (Val × Bool) := [a.1.mul b.2, a.2.mul b.1]

/-- A component of a C32 quotient: numerator over br² + bi²; by 0 + 0i it is invalid. -/
def cquot (mode : Nat) (b : Val × Val) (num : List (Val × Bool)) : Val × Bool :=
  if b.1.isZero && b.2.isZero then (.nan false, true)
  else
    let den := sumVals mode [b.1.mul b.1, b.2.mul b.2]
    let n := sumVals mode num
    let q := n.1.div den.1
    (q.1, n.2 || den.2 || q.2.1)

/-- Complex value of a C32 register. -/
def cval (x : Word) : Val × Val := (laneVal .fp32 x 0, laneVal .fp32 x 1)

/-- The arithmetic of a lane. -/
inductive Arith where
  | add | sub | mul | div
  deriving DecidableEq, Repr

/-- One component of a binary operation on real lanes. -/
def realOp (op : Arith) (f : Fmt) (mode : Nat) (a b : Val) : Nat × Flags :=
  match op with
  | .add => settle1 f mode (sumVals mode [term a, term b])
  | .sub => settle1 f mode (sumVals mode [term a, term b.neg])
  | .mul => settle1 f mode (a.mul b)
  | .div =>
    let q := a.div b
    let r := settle1 f mode (q.1, q.2.1)
    (r.1, r.2 ||| flagIf q.2.2 fDZ)

/-- A binary operation in a format variant (R216, R217). -/
def arith (op : Arith) (v : BitVec 2) (mode : Nat) (x y : Word) : Word × Flags :=
  let f := varFmt v
  if v = 1 && (op == .mul || op == .div) then
    let a := cval x
    let b := cval y
    match op with
    | .mul => joinLanes f [settle1 f mode (sumVals mode (prodRe a b)), settle1 f mode (sumVals mode (prodIm a b))]
    | _ => joinLanes f
      [settle1 f mode (cquot mode b [a.1.mul b.1, a.2.mul b.2]),
       settle1 f mode (cquot mode b [a.2.mul b.1, negTerm (a.1.mul b.2)])]
  else joinLanes f ((List.range (varLanes v)).map (fun k => realOp op f mode (laneVal f x k) (laneVal f y k)))

/-- The multiply-add family: negP negates the product, negD the addend (R216). -/
def fused (negP negD : Bool) (v : BitVec 2) (mode : Nat) (s t d : Word) : Word × Flags :=
  let f := varFmt v
  let sg (b : Bool) (x : Val × Bool) : Val × Bool := if b then negTerm x else x
  if v = 1 then
    let a := cval s
    let b := cval t
    let c := cval d
    joinLanes f
      [settle1 f mode (sumVals mode ((prodRe a b).map (sg negP) ++ [sg negD (term c.1)])),
       settle1 f mode (sumVals mode ((prodIm a b).map (sg negP) ++ [sg negD (term c.2)]))]
  else joinLanes f ((List.range (varLanes v)).map (fun k =>
    settle1 f mode (sumVals mode [sg negP ((laneVal f s k).mul (laneVal f t k)), sg negD (term (laneVal f d k))])))

/-! ### Instructions that round -/

/-- A binary float instruction. -/
def floatBin (g : Nat → Word → Word → Word × Flags) (o : Bin) (s : State) : Host.Outcome State Fault Refusal :=
  plain (do
    let (a, b) ← o.readF
    let mode ← roundMode
    let r := g mode a b
    flags r.2
    writeF o.d r.1) s

/-- A single-source float instruction that rounds. -/
def floatUn (g : Nat → Word → Word × Flags) (o : Un) (s : State) : Host.Outcome State Fault Refusal :=
  plain (do
    let a ← o.readF
    let mode ← roundMode
    let r := g mode a
    flags r.2
    writeF o.d r.1) s

/-- A multiply-add, with d as a source. -/
def floatFma (negP negD : Bool) (o : Bin) (v : BitVec 2) (s : State) : Host.Outcome State Fault Refusal :=
  plain (do
    let d ← readF o.d
    let (a, b) ← o.readF
    let mode ← roundMode
    let r := fused negP negD v mode a b d
    flags r.2
    writeF o.d r.1) s

/-- FADD (R216, R217). -/
def execFadd (o : Bin) (v : BitVec 2) (s : State) : Host.Outcome State Fault Refusal := floatBin (arith .add v) o s
/-- FSUB (R216, R217). -/
def execFsub (o : Bin) (v : BitVec 2) (s : State) : Host.Outcome State Fault Refusal := floatBin (arith .sub v) o s
/-- FMUL (R216, R217). -/
def execFmul (o : Bin) (v : BitVec 2) (s : State) : Host.Outcome State Fault Refusal := floatBin (arith .mul v) o s
/-- FDIV (R216, R217). -/
def execFdiv (o : Bin) (v : BitVec 2) (s : State) : Host.Outcome State Fault Refusal := floatBin (arith .div v) o s
/-- FMA: s × t + d (R216). -/
def execFma (o : Bin) (v : BitVec 2) (s : State) : Host.Outcome State Fault Refusal := floatFma false false o v s
/-- FMS: s × t - d (R216). -/
def execFms (o : Bin) (v : BitVec 2) (s : State) : Host.Outcome State Fault Refusal := floatFma false true o v s
/-- FNMA: d - s × t (R216). -/
def execFnma (o : Bin) (v : BitVec 2) (s : State) : Host.Outcome State Fault Refusal := floatFma true false o v s

/-- FSQRT (R216, R217). -/
def execFsqrt (o : Un) (v : BitVec 2) (s : State) : Host.Outcome State Fault Refusal :=
  floatUn (fun mode a =>
    let f := varFmt v
    joinLanes f ((List.range (varLanes v)).map (fun k => settle1 f mode (laneVal f a k).sqrt))) o s

/-- CMAC: d + conj(s) × t (R220). -/
def execCmac (o : Bin) (s : State) : Host.Outcome State Fault Refusal :=
  plain (do
    let d ← readF o.d
    let (a, b) ← o.readF
    let mode ← roundMode
    let x := cval a
    let y := cval b
    let z := cval d
    let r := joinLanes .fp32
      [settle1 .fp32 mode (sumVals mode [term z.1, x.1.mul y.1, x.2.mul y.2]),
       settle1 .fp32 mode (sumVals mode [term z.2, x.1.mul y.2, negTerm (x.2.mul y.1)])]
    flags r.2
    writeF o.d r.1) s

/-! ### Comparison and selection (R218) -/

/-- Orders values with -0 below +0. -/
def Val.below (a b : Val) : Bool :=
  match a.cmp b with
  | .lt => true
  | .gt => false
  | .eq => a.isZero && a.isNeg && !b.isNeg

/-- FMIN or FMAX of two codes (R218). -/
def select1 (f : Fmt) (isMax : Bool) (x y : Nat) : Nat × Flags :=
  let a := f.decode ⟨0, 0⟩ x
  let b := f.decode ⟨0, 0⟩ y
  let fl := flagIf (a.isSig || b.isSig) fNV
  match a.isNan, b.isNan with
  | true, true => ((f.round ⟨0, 0⟩ 0 (.nan false)).1, fl)
  | true, false => (y, fl)
  | false, true => (x, fl)
  | false, false => (if isMax then (if a.below b then y else x) else (if b.below a then y else x), fl)

/-- FMIN and FMAX: nothing is rounded. -/
def selectInstr (isMax : Bool) (v : BitVec 2) (o : Bin) (s : State) : Host.Outcome State Fault Refusal :=
  plain (do
    let (a, b) ← o.readF
    let f := varFmt v
    let r := joinLanes f ((List.range (varLanes v)).map (fun k => select1 f isMax (laneOf f a k) (laneOf f b k)))
    flags r.2
    writeF o.d r.1) s

/-- FMIN (R218). -/
def execFmin (o : Bin) (v : BitVec 2) (s : State) : Host.Outcome State Fault Refusal := selectInstr false v o s
/-- FMAX (R218). -/
def execFmax (o : Bin) (v : BitVec 2) (s : State) : Host.Outcome State Fault Refusal := selectInstr true v o s

/-- The condition of R218 on two values: 0 EQ, 1 LT, 2 LE, 3 UN; with its NV. -/
def condVal (c : Nat) (a b : Val) : Bool × Flags :=
  let un := a.isNan || b.isNan
  let sig := a.isSig || b.isSig
  match c with
  | 0 => (!un && a.cmp b == .eq, flagIf sig fNV)
  | 1 => (!un && a.cmp b == .lt, flagIf un fNV)
  | 2 => (!un && a.cmp b != .gt, flagIf un fNV)
  | _ => (un, flagIf sig fNV)

/-- FCMP (R218). -/
def execFcmp (o : Bin) (v : BitVec 2) (c : BitVec 2) (s : State) : Host.Outcome State Fault Refusal :=
  plain (do
    let (a, b) ← o.readF
    let f := varFmt v
    let rs := (List.range (varLanes v)).map (fun k => condVal c.toNat (laneVal f a k) (laneVal f b k))
    flags (rs.foldl (fun x r => x ||| r.2) 0)
    let bit := if v = 1 then (if c = 0 then rs.all (fun r => r.1) else rs.any (fun r => r.1)) else false
    writeS o.d (BitVec.ofNat 64 (if v = 1 then b2n bit
      else rs.foldr (fun r acc => b2n r.1 + 2 * acc) 0))) s

/-- The class bit of a code (R218). -/
def classOf (f : Fmt) (c : Nat) : Nat :=
  match f.decode ⟨0, 0⟩ c with
  | .nan true => 8
  | .nan false => 9
  | .inf n => if n then 0 else 7
  | .fin n m _ =>
    let fb := if f.bits = 32 then 23 else 7
    if m = 0 then (if n then 3 else 4)
    else if bitsN c (fb + 7) fb = 0 then (if n then 2 else 5)
    else (if n then 1 else 6)

/-- FCLASS (R218). -/
def execFclass (o : Un) (v : BitVec 2) (s : State) : Host.Outcome State Fault Refusal :=
  plain (do
    let a ← o.readF
    let f := varFmt v
    writeS o.d (BitVec.ofNat 64 ((List.range (varLanes v)).foldl (fun r k =>
      r + 2 ^ (classOf f (laneOf f a k)) * 2 ^ (16 * k)) 0))) s

/-! ### Moves -/

/-- A float register from float registers, bits only. -/
def moveF (g : Word → Word) (o : Un) (s : State) : Host.Outcome State Fault Refusal :=
  plain (do
    let a ← o.readF
    writeF o.d (g a)) s

/-- The sign bits of a variant. -/
def signBits (v : BitVec 2) : Word :=
  match v with
  | 0 => 0x80000000
  | 3 => 0x8000800080008000
  | _ => 0x8000000080000000

/-- The bits of a variant that a result has (R159). -/
def formBits (v : BitVec 2) : Word := if v = 0 then 0xFFFFFFFF else 0xFFFFFFFFFFFFFFFF

/-- FABS (R217). -/
def execFabs (o : Un) (v : BitVec 2) (s : State) : Host.Outcome State Fault Refusal :=
  moveF (fun a => a &&& ~~~(signBits v) &&& formBits v) o s
/-- FNEG (R217). -/
def execFneg (o : Un) (v : BitVec 2) (s : State) : Host.Outcome State Fault Refusal :=
  moveF (fun a => (a ^^^ signBits v) &&& formBits v) o s
/-- CONJ (R219): the imaginary sign. -/
def execConj (o : Un) (s : State) : Host.Outcome State Fault Refusal :=
  moveF (fun a => a ^^^ 0x8000000000000000) o s
/-- CSWAP (R219). -/
def execCswap (o : Un) (s : State) : Host.Outcome State Fault Refusal :=
  moveF (fun a => a <<< 32 ||| a >>> 32) o s

/-- FMVFS: s := f (R216). -/
def execFmvfs (o : Un) (s : State) : Host.Outcome State Fault Refusal :=
  plain (do
    let a ← o.readF
    writeS o.d a) s

/-- FMVSF: f := s (R216). -/
def execFmvsf (o : Un) (s : State) : Host.Outcome State Fault Refusal :=
  plain (do
    noTest
    let a ← o.read
    writeF o.d a) s

/-! ### Conversions (R221) -/

/-- FCVT (R221, R172): the rounding mode counts where the pair uses it. -/
def execFcvt (o : Un) (src dst : BitVec 3) (s : State) : Host.Outcome State Fault Refusal :=
  plain (do
    let a ← o.readF
    if !convOk src.toNat dst.toNat then illegalOp
    let mode ← if convRounds src.toNat dst.toNat then roundMode else pure 0
    let s ← get
    let r := convElem src.toNat dst.toNat s.myCore.tbl4 mode (a.toNat % 2 ^ fmtBits src.toNat)
    flags r.2
    writeF o.d (BitVec.ofNat 64 r.1)) s

/-- One component rounded to an integral value in its own format (R221). -/
def integral (f : Fmt) (mode c : Nat) : Nat × Flags :=
  match f.decode ⟨0, 0⟩ c with
  | .nan g => f.round ⟨0, 0⟩ mode (.nan g)
  | .inf _ => (c, 0)
  | .fin n m e =>
    if m = 0 then (c, 0)
    else
      let r := roundAt mode n m e 0
      ((f.round ⟨0, 0⟩ 0 (.fin n r.1 0)).1, flagIf r.2 fNX)

/-- FRND (R221). -/
def execFrnd (o : Un) (v : BitVec 2) (s : State) : Host.Outcome State Fault Refusal :=
  floatUn (fun mode a =>
    let f := varFmt v
    joinLanes f ((List.range (varLanes v)).map (fun k => integral f mode (laneOf f a k)))) o s

/-- An exact value as a signed 64-bit integer (R221). -/
def toInt64 (mode : Nat) : Val → Word × Flags
  | .nan _ => (0, fNV)
  | .inf n => (if n then 0x8000000000000000 else 0x7FFFFFFFFFFFFFFF, fNV)
  | .fin n m e =>
    let r := roundAt mode n m e 0
    if n then (if r.1 > 2 ^ 63 then (0x8000000000000000, fNV)
      else (BitVec.ofInt 64 (-(r.1 : Int)), flagIf r.2 fNX))
    else if r.1 > 2 ^ 63 - 1 then (0x7FFFFFFFFFFFFFFF, fNV) else (BitVec.ofNat 64 r.1, flagIf r.2 fNX)

/-- FCVTI (R221). -/
def execFcvti (o : Un) (s : State) : Host.Outcome State Fault Refusal :=
  plain (do
    let a ← o.readF
    let mode ← roundMode
    let r := toInt64 mode (laneVal .fp32 a 0)
    flags r.2
    writeS o.d r.1) s

/-- FCVTF (R221). -/
def execFcvtf (o : Un) (s : State) : Host.Outcome State Fault Refusal :=
  plain (do
    noTest
    let a ← o.read
    let mode ← roundMode
    let r := Fmt.fp32.round ⟨0, 0⟩ mode (intVal a.toInt)
    flags r.2
    writeF o.d (BitVec.ofNat 64 r.1)) s

/-! ### Packed integers (R222) -/

/-- Lane width in bits of V (R219). -/
def laneBits (v : BitVec 2) : Nat := 8 * 2 ^ v.toNat

/-- Lane k of width w, signed. -/
def laneInt (w : Nat) (x : Word) (k : Nat) : Int := (sextW (x.toNat / 2 ^ (w * k)) w).toInt

/-- A packed instruction, lane by lane. -/
def packedBin (g : Int → Int → Int) (v : BitVec 2) (o : Bin) (s : State) : Host.Outcome State Fault Refusal :=
  plain (do
    let (a, b) ← o.read
    let w := laneBits v
    writeS o.d (BitVec.ofNat 64 ((List.range (64 / w)).foldl (fun r k =>
      r + (g (laneInt w a k) (laneInt w b k) % (2 ^ w : Nat)).toNat * 2 ^ (w * k)) 0))) s

/-- PADD (R219). -/
def execPadd (o : Bin) (v : BitVec 2) (s : State) : Host.Outcome State Fault Refusal := packedBin (· + ·) v o s
/-- PSUB (R219). -/
def execPsub (o : Bin) (v : BitVec 2) (s : State) : Host.Outcome State Fault Refusal := packedBin (· - ·) v o s
/-- PMIN (R219). -/
def execPmin (o : Bin) (v : BitVec 2) (s : State) : Host.Outcome State Fault Refusal := packedBin min v o s
/-- PMAX (R219). -/
def execPmax (o : Bin) (v : BitVec 2) (s : State) : Host.Outcome State Fault Refusal := packedBin max v o s

/-- sat_w (R174). -/
def satW (w : Nat) (x : Int) : Int :=
  let lim : Int := (2 : Int) ^ (w - 1)
  min (max x (-lim)) (lim - 1)

/-- PDOT (R222): saturated once. -/
def execPdot (o : Bin) (s : State) : Host.Outcome State Fault Refusal :=
  plain (do
    let a ← readS o.a
    let b ← readS o.b
    let d ← readS o.d
    killS o.a o.ua
    killS o.b o.ub
    let acc := (List.range 8).foldl (fun (r : Int) k => r + laneInt 8 a k * laneInt 8 b k) (laneInt 32 d 0)
    writeS o.d (BitVec.ofInt 64 (satW 32 acc))) s

/-- PSHUF (R222). -/
def execPshuf (o : Bin) (s : State) : Host.Outcome State Fault Refusal :=
  plain (do
    let (a, b) ← o.read
    let byte (x : Word) (i : Nat) : Nat := bitsN x.toNat (8 * i + 7) (8 * i)
    writeS o.d (BitVec.ofNat 64 ((List.range 8).foldl (fun r i =>
      let c := byte b i
      r + (if c.testBit 7 then 0 else byte a (c % 8)) * 2 ^ (8 * i)) 0))) s

/-- PSAT (R222). -/
def execPsat (o : Un) (v : BitVec 2) (s : State) : Host.Outcome State Fault Refusal :=
  plain (do
    let a ← o.read
    let w := laneBits v
    writeS o.d (BitVec.ofNat 64 ((List.range (32 / w)).foldl (fun r k =>
      r + (satW w (laneInt (2 * w) a k) % (2 ^ w : Nat)).toNat * 2 ^ (w * k)) 0))) s

/-! ### The generator (R223) -/

/-- One output of the continuation's generator (R178). -/
def draw : Sem Word := do
  let s ← get
  let r := genStep s.th.genLo s.th.genHi
  set (s.modTh (fun t => { t with genLo := r.2.1, genHi := r.2.2 }))
  pure r.1

/-- m × 2^-k as FP32 or BF16, exact. -/
def unitCode (f : Fmt) (m k : Nat) : Nat := (f.round ⟨0, 0⟩ 0 (.fin false m (-(k : Int)))).1

/-- FRNG (R223). -/
def execFrng (d : Reg) (v : BitVec 2) (s : State) : Host.Outcome State Fault Refusal :=
  plain (do
    noTest
    let x ← draw
    let out := x.toNat
    writeF d (match v with
      | 0 => BitVec.ofNat 64 (unitCode .fp32 (bitsN out 63 40) 24)
      | 1 => x
      | 2 => ofLanes .fp32 [unitCode .fp32 (bitsN out 63 40) 24, unitCode .fp32 (bitsN out 39 16) 24]
      | _ => ofLanes .bf16 ((List.range 4).map (fun k =>
          unitCode .bf16 (bitsN out (63 - 8 * k) (56 - 8 * k)) 8)))) s

end Sys2Proof.Machine
end

