-- ==== Sys2Proof/Machine/Tile.lean ====
section
/-! DEFINITION. MAU commands and the tile datapath (R180 to R196, R205 to R208): issue, tiles and B slots, the
rows of TLDB, MMA, MMAZ, TST and TCLR. -/

namespace Sys2Proof.Machine

/-! ### Issue (R185, R188) -/

/-- The barrier operand of a command: its kind and index, with the phase it has now. -/
def State.desigNow (s : State) (cl : Nat) : Desig → Option (Nat × Nat × Bool)
  | .none => none
  | .wired ch => some (0, ch.toNat, (s.channel ch.toNat).phase)
  | .word i => some (1, i.toNat, TbWord.phase (s.tbRead cl (0x3FC000 + 16 * i.toNat)))

/-- Has a barrier operand completed (R188)? -/
def State.desigDone (s : State) (cl : Nat) : Option (Nat × Nat × Bool) → Bool
  | none => true
  | some (0, ch, ph) => (s.channel ch).phase != ph
  | some (_, i, ph) => TbWord.phase (s.tbRead cl (0x3FC000 + 16 * i)) != ph

/-- The commands of a core that have not started. -/
def Core.mauWaiting (c : Core) : List MauCmd := c.mauq.filter (fun x => !x.running)

/-- Does a format round under the thread's mode? T8, T6 and I4 have rules of their own (R169, R171). -/
def modeFmt (f : Nat) : Bool := f == 0 || f == 1 || f == 2 || f == 6 || f == 7

/-- Does a command round under the thread's mode, its window and its fields being as they stand now (R161, R172, R193, R194,
R199 to R202)? One that cannot be read rounds nothing here, and the command finds the fault at its start. -/
def State.mauRounds (s : State) (p : Nat) (lv : Level) (cl : Nat) (i : Instr) (args : List Word) : Bool :=
  let fmt (k : Nat) : Option Nat :=
    let h := args.getD k 0
    if 4096 ≤ h.toNat then none
    else match s.descOf p lv h.toNat with
      | .ok (d, _) => some d.fmt
      | .error _ => none
  match i with
  | .mma _ _ _ _ _ | .mmaz _ _ _ _ _ | .axsum _ _ => true
  | .tst _ => match regionOf (args.getD 0 0) with
    | .own off =>
      let w := (s.cluster cl).win (off / 0x40000)
      w.fmt != 0 && convRounds 0 w.fmt
    | _ => false
  | .axapply _ _ _ _ _ _ | .axphase _ _ | .axscale _ => (fmt 0).any modeFmt
  | .axcopy _ => match fmt 0, fmt 1 with
    | some dst, some src => src != dst && convRounds src dst
    | _, _ => false
  | _ => false

/-- A command enters its core's queue (R185); it is irrevocable (R209). An open REPV capture is closed, so that the vector
stores in it come before the command (R210, R324; log 74). One that rounds refuses RM 5 to 7 (R161). -/
def mauIssue (i : Instr) (args : List Word) (g : Desig) : Sem Unit := do
  let s ← get
  if s.mauRounds s.th.part s.th.level s.kid i args then
    let _ ← roundMode
  irrevocable
  if s.th.capture.left ≠ 0 && s.th.capture.cmds ≠ [] then block .capture
  if 8 ≤ s.myCore.mauWaiting.length then block .room
  let c : MauCmd :=
    { id := s.myCluster.mauId, tid := s.cur, ins := i, part := s.th.part, level := s.th.level, args := args, rm := s.th.rm,
      tblA := s.myCore.tbl4a, tblB := s.myCore.tbl4b, issued := s.clk,
      share := (match s.launchOf s.th with
        | some l => l.mshare
        | none => 1),
      desig := s.desigNow s.kid g }
  set ((s.modMyCluster (fun k => { k with mauId := k.mauId + 1 })).modMyCore (fun k => { k with mauq := k.mauq ++ [c] }))

/-- A command whose operands are read first; `mine` says that it names a tile, a slot or a barrier, which are no registers
of test mode (R11). -/
def mauPlain (read : Sem (List Word)) (i : Instr) (g : Desig) (s : State) (mine : Bool := true) :
    Host.Outcome State Fault Refusal :=
  plain (do
    if mine then noTest
    let xs ← read
    mauIssue i xs g) s

/-- TLDB (R192). -/
def execTldb (o : Mem) (s : State) : Host.Outcome State Fault Refusal :=
  mauPlain (do return [← o.loadEa]) (.tldb o) .none s
/-- MMA (R193). -/
def execMma (t : Reg) (o : Src1) (b : Reg) (n : BitVec 6) (g : Desig) (s : State) : Host.Outcome State Fault Refusal :=
  mauPlain (do return [← o.read]) (.mma t o b n g) g s
/-- MMAZ (R193). -/
def execMmaz (t : Reg) (o : Src1) (b : Reg) (n : BitVec 6) (g : Desig) (s : State) : Host.Outcome State Fault Refusal :=
  mauPlain (do return [← o.read]) (.mmaz t o b n g) g s
/-- TST (R194). -/
def execTst (o : Mem) (s : State) : Host.Outcome State Fault Refusal :=
  mauPlain (do return [← o.loadEa]) (.tst o) .none s
/-- TCLR (R195). -/
def execTclr (t : Reg) (s : State) : Host.Outcome State Fault Refusal := mauPlain (pure []) (.tclr t) .none s
/-- AXLD (R197). -/
def execAxld (o : Mem) (k : BitVec 3) (cplx : Bool) (s : State) : Host.Outcome State Fault Refusal :=
  mauPlain (do return [← o.loadEa]) (.axld o k cplx) .none s
/-- AXAPPLY (R198, R199): the handle and the list. -/
def execAxapply (h : Reg) (slot : Reg) (l : Reg) (uh ul : Bool) (g : Desig) (s : State) :
    Host.Outcome State Fault Refusal :=
  mauPlain (do
    let (a, b) ← Src2.read ⟨h, l, uh, ul⟩
    return [a, b]) (.axapply h slot l uh ul g) g s

/-- Two s registers, then an f register. -/
def readTwoF (o : Src3) : Sem (List Word) := do
  let a ← readS o.a
  let b ← readS o.b
  let f ← readF o.c
  killS o.a o.ua
  killS o.b o.ub
  killF o.c o.uc
  return [a, b, f]

/-- Three s registers. -/
def readThree (o : Src3) : Sem (List Word) := do
  let (a, b, c) ← o.read
  return [a, b, c]

/-- Two s registers. -/
def readTwo (o : Src2) : Sem (List Word) := do
  let (a, b) ← o.read
  return [a, b]

/-- AXPHASE (R200): handle, mask, factor. -/
def execAxphase (o : Src3) (g : Desig) (s : State) : Host.Outcome State Fault Refusal :=
  mauPlain (readTwoF o) (.axphase o g) g s
/-- AXSUM (R201): destination, source, mask. -/
def execAxsum (o : Src3) (sq : Bool) (s : State) : Host.Outcome State Fault Refusal :=
  mauPlain (readThree o) (.axsum o sq) .none s false
/-- AXSCALE (R202): destination, source, factor. -/
def execAxscale (o : Src3) (s : State) : Host.Outcome State Fault Refusal :=
  mauPlain (readTwoF o) (.axscale o) .none s
/-- AXCOPY (R202). -/
def execAxcopy (o : Src2) (s : State) : Host.Outcome State Fault Refusal :=
  mauPlain (readTwo o) (.axcopy o) .none s false
/-- FLSWAP (R148). -/
def execFlswap (o : Src2) (s : State) : Host.Outcome State Fault Refusal :=
  mauPlain (readTwo o) (.flswap o) .none s false
/-- FLXCH (R149): handle, bit pair, receive area. -/
def execFlxch (o : Src3) (s : State) : Host.Outcome State Fault Refusal :=
  mauPlain (readThree o) (.flxch o) .none s false

/-- MWAIT (R205): a pending vector fault comes before a pending MAU fault (R241). -/
def execMwait (s : State) : Host.Outcome State Fault Refusal :=
  plain (do
    deliverVec
    waitMau) s

/-! ### Tiles, slots and their allocation (R180, R195, R196) -/

/-- The key of a core's n-th tile or slot in its cluster. -/
def unitKey (cid n : Nat) : Nat := 64 * (cid % 8) + n

def State.tile (s : State) (cid n : Nat) : Tile := smGet {} (s.cluster (cid / 8)).tiles (unitKey cid n)
def State.setTile (s : State) (cid n : Nat) (x : Tile) : State :=
  s.modCluster (cid / 8) (fun k => { k with tiles := smSet {} k.tiles (unitKey cid n) x })
def State.bslot (s : State) (cid n : Nat) : BSlot := smGet {} (s.cluster (cid / 8)).bslots (unitKey cid n)
def State.setBslot (s : State) (cid n : Nat) (x : BSlot) : State :=
  s.modCluster (cid / 8) (fun k => { k with bslots := smSet {} k.bslots (unitKey cid n) x })

/-- TWM (R195). -/
def execTwm (d t : Reg) (s : State) : Host.Outcome State Fault Refusal :=
  plain (do
    noTest
    let s ← get
    writeS d (if t.toNat < s.myCore.tiles then BitVec.ofNat 64 (s.tile s.cid t.toNat).twm
      else 0xFFFFFFFFFFFFFFFF)) s

/-- Units of a cluster that no core holds. -/
def State.freeUnits (s : State) (cl : Nat) (f : Core → Nat) : Nat :=
  48 - (List.range 8).foldl (fun n j => n + f (s.core (8 * cl + j))) 0

/-- A new allocation: names below both counts keep their contents, the others are cleared or lost (R196). -/
def State.allocate (s : State) (cid nt nb : Nat) : State :=
  let c := s.core cid
  let s := s.setCore cid { c with tiles := nt, bslots := nb }
  s.modCluster (cid / 8) (fun k => { k with
    tiles := k.tiles.filter (fun x => !(x.1 / 64 == cid % 8 && decide (min nt c.tiles ≤ x.1 % 64))),
    bslots := k.bslots.filter (fun x => !(x.1 / 64 == cid % 8 && decide (min nb c.bslots ≤ x.1 % 64))) })

/-- TALLOC (R196): it waits for the commands of all threads of the core. -/
def execTalloc (o : Un) (s : State) : Host.Outcome State Fault Refusal :=
  plain (do
    let v ← o.read
    irrevocable
    let s ← get
    let c := s.myCore
    if c.mauq ≠ [] then block .axis
    let nb := bitsN v.toNat 5 0
    let nt := bitsN v.toNat 13 8
    if bitsN v.toNat 63 14 ≠ 0 || bitsN v.toNat 7 6 ≠ 0 || decide (48 < nb) || decide (48 < nt) then writeS o.d 2
    else if s.freeUnits s.kid Core.tiles + c.tiles < nt ∨ s.freeUnits s.kid Core.bslots + c.bslots < nb then writeS o.d 1
    else
      set (s.allocate s.cid nt nb)
      writeS o.d 0) s

/-- A core that takes a continuation of another partition starts with a fresh MAU state (R181). -/
def State.clearMau (s : State) (cid : Nat) : State :=
  (s.modCluster (cid / 8) (fun k => { k with
    tiles := k.tiles.filter (fun x => x.1 / 64 != cid % 8),
    bslots := k.bslots.filter (fun x => x.1 / 64 != cid % 8) })).modCore cid (fun c =>
      { c with tiles := 6, bslots := 6, axis := [] })

/-! ### What commands use (R186) -/

namespace MauCmd

/-- Tiles that a command writes. -/
def writes (c : MauCmd) : List Nat :=
  match c.ins with
  | .mma t _ _ n _ | .mmaz t _ _ n _ => (List.range (n.toNat + 1)).map (fun j => t.toNat + j)
  | .tclr t => [t.toNat]
  | _ => []

/-- Tiles that a command reads and does not write. -/
def reads (c : MauCmd) : List Nat :=
  match c.ins with
  | .tst o => [o.d.toNat]
  | _ => []

/-- B slots that a command reads, and those it writes. -/
def slotReads (c : MauCmd) : List Nat :=
  match c.ins with
  | .mma _ _ b n _ | .mmaz _ _ b n _ => (List.range (n.toNat + 1)).map (fun j => b.toNat + j)
  | _ => []
def slotWrites (c : MauCmd) : List Nat :=
  match c.ins with
  | .tldb o => [o.d.toNat]
  | _ => []

def isMma (c : MauCmd) : Bool :=
  match c.ins with
  | .mma _ _ _ _ _ | .mmaz _ _ _ _ _ => true
  | _ => false

/-- A command of the tile datapath. -/
def isTile (c : MauCmd) : Bool :=
  match c.ins with
  | .mma _ _ _ _ _ | .mmaz _ _ _ _ _ | .tldb _ | .tst _ | .tclr _ => true
  | _ => false

/-- fn of the command, for EINFO (R207). -/
def fn (c : MauCmd) : Nat :=
  match c.ins with
  | .tldb _ => 0
  | .mma _ _ _ _ _ => 1
  | .mmaz _ _ _ _ _ => 2
  | .tst _ => 3
  | .tclr _ => 5
  | .axld _ _ _ => 6
  | .axapply _ _ _ _ _ _ => 7
  | .axphase _ _ => 8
  | .axsum _ _ => 9
  | .axscale _ => 10
  | .axcopy _ => 11
  | .flswap _ => 2
  | _ => 3

def arg (c : MauCmd) (k : Nat) : Word := c.args.getD k 0
def tbl (c : MauCmd) : Tbl4 := ⟨c.tblA, c.tblB⟩
def cid (c : MauCmd) : Nat := c.tid / 4

/-- MAU_FAULT of an inner cause: its EINFO (R144, R207). The inner info is the address, the reason under 0x17, or
the whole EINFO of a field fault. -/
def fault (c : MauCmd) (f : Flt) : Flt :=
  let a := f.info.toNat
  ⟨cMAU,
    if f.cause = cSPREAD ∨ f.cause = cFBAD then f.info
    else if f.cause = cMAU then BitVec.ofNat 64 (c.fn * 2 ^ 32 + cMAU * 2 ^ 24 + a % 256)
    else if f.cause = cMCHECK then BitVec.ofNat 64 (c.fn * 2 ^ 32 + cMCHECK * 2 ^ 24)
    else BitVec.ofNat 64 (bitsN a 47 24 * 2 ^ 40 + c.fn * 2 ^ 32 + f.cause * 2 ^ 24 + a % 2 ^ 24)⟩

end MauCmd

/-- MAU_FAULT with a reason of R208. -/
def mauReason (r : Nat) : Flt := ⟨cMAU, BitVec.ofNat 64 r⟩

/-! ### Tile operands (R182 to R184) -/

/-- DEVSTAT.LIMITED without READY (R78). -/
def State.limited (s : State) : Bool := s.devstat.toNat.testBit 4 && !(s.devstat.toNat.testBit 5)

/-- Formats of an A operand (R182), of a B operand (R183) and of TST (R194); in LIMITED service only BF16 and T8
for operands (R78). -/
def tileFmtOk (limited : Bool) (i : Instr) (f : Nat) : Bool :=
  match i with
  | .tldb _ => if limited then f == 1 || f == 3 else f == 1 || f == 3 || f == 4 || f == 5
  | .tst _ => f != 2 && f != 7
  | _ => if limited then f == 1 || f == 3 else f == 0 || f == 1 || f == 3 || f == 4 || f == 5

/-- A tile operand's window and first element, or its fault (R184). -/
def State.tileOperand (s : State) (c : MauCmd) (ea : Word) : Except Flt (Win × Nat) :=
  match regionOf ea with
  | .own off =>
    let w := (s.cluster (c.tid / 32)).win (off / 0x40000)
    let row := w.bytes 64
    let at_ := off % 0x40000
    if inBarWindow off (64 * row) then .error ⟨cBARWORD, ea⟩
    else if at_ % row ≠ 0 ∨ w.span < at_ + 64 * row then .error (mauReason 3)
    else if !(tileFmtOk s.limited c.ins w.fmt) then .error (mauReason 2)
    else .ok (w, (w.elemAt at_).1)
  | _ => .error (mauReason 3)

/-- Names within the core's allocation (R180). -/
def State.unitsOk (s : State) (c : MauCmd) : Bool :=
  let k := s.core c.cid
  (c.writes ++ c.reads).all (fun t => decide (t < k.tiles))
    && (c.slotReads ++ c.slotWrites).all (fun b => decide (b < k.bslots))

/-- A command whose window or field has come to round since it issued with RM 5 to 7 (R161, which knows that fault at issue
only: DESIGN CHOICE, log 36). -/
def State.modeLost (s : State) (c : MauCmd) : Bool :=
  decide (5 ≤ c.rm) && s.mauRounds c.part c.level (c.tid / 32) c.ins c.args

/-- The checks of a tile command as it starts. -/
def State.tileCheck (s : State) (c : MauCmd) : Except Flt Unit := do
  if !(s.unitsOk c) then throw (mauReason 1)
  if s.modeLost c then throw ⟨cILLEGAL, 0⟩
  match c.ins with
  | .tclr _ => pure ()
  | _ =>
    let _ ← s.tileOperand c (c.arg 0)
    pure ()

/-- Planes of an A format (R182). -/
def planesOf (fmt : Nat) : Nat :=
  match fmt with
  | 0 => 24
  | 3 => 6
  | 4 => 4
  | _ => 8

/-! ### The ramp (R428) -/

/-- May A planes advance in ramp clock t? -/
def rampPasses (ramp t : Nat) : Bool := decide (ramp ≤ t) || decide (t % 8 < 1 + 7 * t / ramp)

/-- Clocks from ramp clock t on in which `n` planes advance. -/
def rampClk (ramp : Nat) : Nat → Nat → Nat → Nat
  | 0, _, _ => 0
  | fuel + 1, t, n => if n = 0 then 0 else 1 + rampClk ramp fuel (t + 1) (n - b2n (rampPasses ramp t))

/-- Clocks that `n` planes take for a command started at a clk. -/
def State.planeClk (s : State) (cl start n : Nat) : Nat :=
  let ramp := bitsN s.shape.toNat 31 16
  match (s.cluster cl).rampAt with
  | some at_ => if ramp = 0 ∨ at_ + ramp ≤ start then n else rampClk ramp (8 * n + ramp) (start - at_) n
  | none => n

/-- The planes that one row of a command takes (R182, R189). -/
def State.rowPlanes (s : State) (c : MauCmd) : Nat :=
  match c.ins with
  | .mma _ _ _ _ _ | .mmaz _ _ _ _ _ => match s.tileOperand c (c.arg 0) with
    | .ok (w, _) => planesOf w.fmt
    | .error _ => 8
  | _ => 0

/-- The clk at which row i of a running tile command is due (R189, R192, R194). -/
def State.rowDue (s : State) (c : MauCmd) (i : Nat) : Nat :=
  match c.ins with
  | .tldb _ => c.started + 12 + i
  | .mma _ _ _ _ _ | .mmaz _ _ _ _ _ =>
    c.started + s.planeClk (c.tid / 32) c.started ((i + 1) * s.rowPlanes c) + 12
  | _ => c.started + i + 1

/-! ### The end of a command (R190, R206) -/

def State.modMau (s : State) (cid id : Nat) (f : MauCmd → MauCmd) : State :=
  s.modCore cid (fun c => { c with mauq := c.mauq.map (fun x => if x.id = id then f x else x) })

def State.findMau (s : State) (cid id : Nat) : Option MauCmd := (s.core cid).mauq.find? (fun x => x.id == id)

/-- Does the tile datapath of a cluster run a command? -/
def State.tileRunning (s : State) (cl : Nat) : Bool :=
  (List.range 8).any (fun j => (s.core (8 * cl + j)).mauq.any (fun c => c.running && c.isTile))

/-- A command completes: its tiles are final, its flags are raised, the first fault of its thread is pending, and
a tile datapath that falls idle may arm its ramp (R166, R189, R206, R428). -/
def State.mauFinish (s : State) (c : MauCmd) (f : Option Flt) : State :=
  let cl := c.tid / 32
  let s := s.modCore c.cid (fun k => { k with mauq := k.mauq.filter (fun x => x.id != c.id) })
  let s := if c.running then c.writes.foldl (fun (s : State) t => s.setTile c.cid t { s.tile c.cid t with twm := 64 }) s else s
  let s := s.raiseLate c.tid c.flags
  let s := match f with
    | some f =>
      let s := if f.cause = cMCHECK then s.event c.part 2 cMCHECK (s.thread c.tid).record f.info else s
      s.modThread c.tid (fun t => { t with pendMau := t.pendMau <|> some (c.fault f) })
    | none => s
  if c.isTile && c.running && !(s.tileRunning cl) then
    (s.modCluster cl (fun k => { k with mauIdle := s.clk })).post (bitsN s.shape.toNat 15 0) .mauRampArm
      { cl := cl, since := s.clk }
  else s

/-! ### Rows -/

/-- The BF16 code that holds an exact value of a B operand; a signalling NaN is held as such (R164, R183). -/
def bCode (v : Val) : Nat := if v.isSig then 0x7F81 else (Fmt.bf16.round ⟨0, 0⟩ 0 v).1

/-- Row r of a B operand: codes with their block exponents, offset by 1,024. -/
def State.loadBRow (s : State) (c : MauCmd) (w : Win) (e0 r : Nat) (x : BSlot) : BSlot :=
  let k := s.cluster (c.tid / 32)
  (List.range 64).foldl (fun (x : BSlot) j =>
    let i := e0 + 64 * r + j
    let code := bCode (decodeElem w.fmt c.tbl (k.winCode w i)).1
    let e := (w.scale + k.winBE w i + 1024).toNat
    { x with data := smSet 0 x.data (64 * r + j) (BitVec.ofNat 64 (code + e * 65536)) }) x

/-- The value of an element of a B slot. -/
def BSlot.val (x : BSlot) (r j : Nat) : Val :=
  let w := (smGet 0 x.data (64 * r + j)).toNat
  if w = 0 then .fin false 0 0
  else (Fmt.bf16.decode ⟨0, 0⟩ (w % 65536)).scale (((w / 65536 : Nat) : Int) - 1024)

/-- Row i of a product (R193): each tile's 64 elements, with their flags. -/
def State.mmaRow (s : State) (c : MauCmd) (w : Win) (e0 i : Nat) (t b n : Nat) (acc : Bool) : State × Flags :=
  let k := s.cluster (c.tid / 32)
  let a := (List.range 64).map (fun q => (k.winVal w c.tbl (e0 + 64 * i + q)).1)
  (List.range n).foldl (fun (x : State × Flags) j =>
    let slot := x.1.bslot c.cid (b + j)
    let tile := x.1.tile c.cid (t + j)
    let row := (List.range 64).map (fun col =>
      let ps := (a.zip (List.range 64)).map (fun (y : Val × Nat) => y.1.mul (slot.val y.2 col))
      let old := Fmt.fp32.decode ⟨0, 0⟩ (smGet 0 tile.data (64 * i + col)).toNat
      settle1 .fp32 c.rm (sumVals c.rm (if acc then term old :: ps else ps)))
    let data := (row.zip (List.range 64)).foldl (fun m (y : (Nat × Flags) × Nat) =>
      smSet 0 m (64 * i + y.2) (BitVec.ofNat 32 y.1.1)) tile.data
    (x.1.setTile c.cid (t + j) { data := data, twm := i + 1 }, row.foldl (fun f y => f ||| y.2) x.2)) (s, 0)

/-- Row i of a tile as TST writes it (R194): FP32 bits unchanged, else one rounding; every granule that it writes is set
full, those of the row's two block exponents too. -/
def State.tstRow (s : State) (c : MauCmd) (w : Win) (e0 i t : Nat) : State × Flags :=
  let cl := c.tid / 32
  let tile := s.tile c.cid t
  let code (j : Nat) : Nat := (smGet 0 tile.data (64 * i + j)).toNat
  let vs : List (Nat × (Val × Val)) := (List.range 64).map (fun j =>
    (e0 + 64 * i + j, (Fmt.fp32.decode ⟨0, 0⟩ (code j), Val.fin false 0 0)))
  let (s, f) := s.winWrite cl w c.tbl (w.enc c.tbl c.rm) vs
  let (s, f) := if w.fmt = 0 then
      ((List.range 64).foldl (fun (s : State) j => s.winPut cl w (e0 + 64 * i + j) (code j)) s, (0 : Flags))
    else (s, f)
  let s := s.fillRange cl (w.at_ (e0 + 64 * i)) (w.bytes 64)
  (if w.bs then s.fillRange cl (w.base + 0x3C000 + (e0 + 64 * i) / 32) 2 else s, f)

/-- One row of a running tile command. -/
def State.tileRow (s : State) (c : MauCmd) (i : Nat) : Except Flt (State × Flags) := do
  let cl := c.tid / 32
  match c.ins with
  | .tclr t =>
    let x := s.tile c.cid t.toNat
    let data := x.data.filter (fun y => y.1 / 64 != i)
    pure (s.setTile c.cid t.toNat { data := data, twm := i + 1 }, 0)
  | _ =>
    let (w, e0) ← s.tileOperand c (c.arg 0)
    let clean : Except Flt Unit := match s.spadPoison cl (w.at_ (e0 + 64 * i)) (w.bytes 64) with
      | some a => throw ⟨cMCHECK, BitVec.ofNat 64 a⟩
      | none => pure ()
    match c.ins with
    | .tldb o =>
      clean
      let b := o.d.toNat
      pure (s.setBslot c.cid b (s.loadBRow c w e0 i { s.bslot c.cid b with fmt := w.fmt, valid := true }), 0)
    | .mma t _ b n _ =>
      clean
      pure (s.mmaRow c w e0 i t.toNat b.toNat (n.toNat + 1) true)
    | .mmaz t _ b n _ =>
      clean
      pure (s.mmaRow c w e0 i t.toNat b.toNat (n.toNat + 1) false)
    | .tst o => pure (s.tstRow c w e0 i o.d.toNat)
    | _ => pure (s, 0)

/-- TILE_ROW_FINAL (R189): the next row of a running tile command, whose last row completes it; a TST waits for
the row of its tile. -/
def execTileRowFinal (s : State) : Host.Outcome State Fault Refusal :=
  event (fun s =>
    let e := s.ev
    match s.findMau e.core e.id with
    | none => s
    | some c =>
      let i := e.idx
      let waits := match c.ins with
        | .tst o => decide ((s.tile c.cid o.d.toNat).twm ≤ i)
        | _ => false
      if waits then s.post 1 .tileRowFinal e
      else match s.tileRow c i with
        | .error f => s.mauFinish c (some f)
        | .ok (s, fl) =>
          let s := (s.modMau e.core e.id (fun x => { x with rows := i + 1, flags := x.flags ||| fl })).work
            (s.rowPlanes c) Config.planeWeight
          let last : Ev := { core := e.core, cl := e.core / 8, id := e.id }
          -- a TLDB takes 76 clk (R192)
          let load := match c.ins with
            | .tldb _ => true
            | _ => false
          if i = 63 then (if load then s.post 1 .mauCommandComplete last else s.postNow .mauCommandComplete last)
          else s.post (s.rowDue c (i + 1) - s.clk) .tileRowFinal { e with idx := i + 1 }) s

/-- A tile command starts (R186, R189, R428). -/
def State.tileStart (s : State) (c : MauCmd) : State :=
  let cl := c.tid / 32
  match s.tileCheck c with
  | .error f => s.mauFinish c (some f)
  | .ok _ =>
    let k := s.cluster cl
    let armed := k.ramped || (!(s.tileRunning cl) && decide (bitsN s.shape.toNat 15 0 ≤ s.clk - k.mauIdle))
    let s := s.modCluster cl (fun k => if c.isMma && armed then
        { k with mauIdle := 0, ramped := false, rampAt := some s.clk }
      else { k with mauIdle := 0, ramped := armed })
    let c := { c with running := true, started := s.clk }
    let s := s.modMau c.cid c.id (fun _ => c)
    let s := c.writes.foldl (fun (s : State) t => s.setTile c.cid t { s.tile c.cid t with twm := 0 }) s
    s.post (s.rowDue c 0 - s.clk) .tileRowFinal { core := c.cid, cl := cl, id := c.id, idx := 0 }

end Sys2Proof.Machine
end

