-- ==== Sys2Proof/Machine/Axis.lean ====
section
/-! DEFINITION. The axis datapath (R134 to R142, R148, R197 to R204, R440): descriptors taken and released, dune
shifts and halted remaps, the operators. -/

namespace Sys2Proof.Machine

/-! ### Descriptors at their home slice -/

/-- Writes MAP and SHIFT of a descriptor. -/
def State.putDesc (s : State) (pa : Nat) (map : List Nat) (shift : Nat) : State :=
  s.homeWrite engineWriter (cellsOf (pa + 16) 40 (mapNat map + shift * 2 ^ 288))

/-- Writes SHIFT alone. -/
def State.putShift (s : State) (pa shift : Nat) : State := s.homeWrite engineWriter (cellsOf (pa + 52) 4 shift)

def Desc.withBits (d : Desc) (busy active halted xcopy : Bool) : Nat :=
  Desc.shiftOf busy active halted d.phase d.exch xcopy d.pv d.pc

/-- The handles of an axis command, in the order in which BUSY is taken (R138, R203). -/
def MauCmd.handles (c : MauCmd) : List Word :=
  match c.ins with
  | .axapply _ _ _ _ _ _ | .axphase _ _ | .flswap _ | .flxch _ => [c.arg 0]
  | .axsum _ _ | .axscale _ | .axcopy _ =>
    if c.arg 0 = c.arg 1 then [c.arg 0]
    else if (c.arg 0).toNat < (c.arg 1).toNat then [c.arg 0, c.arg 1] else [c.arg 1, c.arg 0]
  | _ => []

/-- FIELD_BAD as an inner fault. -/
def badField (reason : Nat) (h : Word) (bit : Nat := 0) : Flt := ⟨cFBAD, fieldInfo cFBAD bit reason h.toNat⟩
def spreadField (h : Word) (bit : Nat) : Flt := ⟨cSPREAD, fieldInfo cSPREAD bit 0 h.toNat⟩

/-- A defined descriptor for a command (reasons 1 and 2, R145), at its level. -/
def State.cmdDesc (s : State) (c : MauCmd) (h : Word) : Except Flt (Desc × Nat) :=
  if 4096 ≤ h.toNat ∨ (s.part c.part).ftbase = 0 then .error (badField 1 h)
  else match s.descOf c.part c.level h.toNat with
    | .error k => .error ⟨k, descAddr (s.part c.part).ftbase h.toNat⟩
    | .ok (d, pa) => if d.state = 0 then .error (badField 2 h) else .ok (d, pa)

/-- The descriptor that a command still has to take. -/
def State.nextDesc (s : State) (c : MauCmd) : Except Flt (Option (Desc × Nat)) :=
  match c.handles[c.held.length]? with
  | none => .ok none
  | some h => match s.cmdDesc c h with
    | .error f => .error f
    | .ok x => .ok (some x)

/-- Axis commands of the package that still wait for a descriptor (R138). -/
def State.axisWaiting (s : State) : List MauCmd :=
  s.cores.flatMap (fun x => x.2.mauq.filter (fun c => c.running && !c.isTile && c.stage == 0))

/-- The elements of an exchanged field that leave for the partner (R149): the bit of their position and its value here. -/
def State.leaveBit (s : State) (c : MauCmd) (d : Desc) : Option (Nat × Bool) :=
  match c.ins with
  | .flxch _ =>
    let x := (c.arg 1).toNat
    let (ps, pl) := (d.mapBit (bitsN x 5 0), d.mapBit (bitsN x 13 8))
    if ps < d.l ∨ d.l ≤ pl then none
    else match s.spreadOf c.part c.level d with
      | .ok (some sig) => some (pl, sig.testBit (ps - d.l))
      | _ => none
  | _ => none

/-- What a thread has buffered by STX for elements that leave the field at `pa`. -/
def Thread.leaving (t : Thread) (pa : Nat) : Option (Nat × Bool) → List ElemStore
  | none => []
  | some (pl, v) => t.entries.flatMap (fun e => match e with
    | .store _ _ _ elems => elems.filter (fun x => x.desc == pa && x.q.testBit pl != v)
    | _ => [])

/-- Does an exchange wait for STX to elements that leave? Each falls before it, and so is performed first (R141): one of
another thread, or in a speculative segment, as its segment commits (DEDUCED, log 87). -/
def State.leavesFirst (s : State) (c : MauCmd) (d : Desc) (pa : Nat) : Bool :=
  let b := s.leaveBit c d
  b.isSome && s.threads.any (fun x => (x.1 != c.tid || s.speculative x.2) && x.2.leaving pa b != [])

/-- May a waiting command take the next step: its descriptor is free, no command that has arrived there earlier waits for
it and no store has to come first, or nothing is left to take, or it fails (R138, R141)? -/
def State.axisMay (s : State) (c : MauCmd) : Bool :=
  match s.nextDesc c with
  | .error _ => true
  | .ok none => true
  | .ok (some (d, pa)) =>
    !d.busy && !(s.leavesFirst c d pa) && s.axisWaiting.all (fun o =>
      o.tid / 32 == c.tid / 32 || decide (c.arrived < o.arrived ∨ c.arrived = o.arrived ∧ c.tid < o.tid)
      || (match s.nextDesc o with
          | .ok (some (_, pb)) => pb != pa
          | _ => true))

/-- BUSY is cleared on what a command holds, at its end (R138). -/
def State.releaseDescs (s : State) (c : MauCmd) : State :=
  c.held.foldl (fun (s : State) pa =>
    let d := Desc.ofNat (s.pread pa 64)
    s.putShift pa (d.withBits false d.active d.halted d.xcopy)) s

/-- A descriptor as it stood when the command began (R157). -/
def MauCmd.descFor (c : MauCmd) (h : Word) : Desc :=
  match (c.handles.zip c.descs).find? (fun x => x.1 == h) with
  | some x => Desc.ofNat x.2
  | none => Desc.ofNat 0

/-- The clk of the governor's window under way in which an axis command has made its pass (R426). -/
def State.axisClk (s : State) (c : MauCmd) : Nat := if c.stage = 1 then min (s.clk - c.arrived) (s.clk % 32) else 0

/-- An axis command ends, with a fault or without one. -/
def State.axisEnd (s : State) (c : MauCmd) (f : Option Flt) : State :=
  ((s.releaseDescs c).work (s.axisClk c) Config.axisWeight).mauFinish c f

/-! ### Elements (R129, R441) -/

/-- The steps of an axis command on memory: nothing of them takes effect where one fails. -/
abbrev Eng := StateT State (Except Flt)

def engRd (c : MauCmd) (ea : Word) (n : Nat) : Eng Nat := fun s =>
  match s.engineRead c.part c.level ea n with
  | .ok r => .ok r
  | .error k => .error ⟨k, ea⟩

def engWr (c : MauCmd) (ea : Word) (n v : Nat) : Eng Unit := fun s =>
  match s.engineWrite c.part c.level ea n v with
  | .ok s' => .ok ((), s')
  | .error k => .error ⟨k, ea⟩

/-- The code of local element x. -/
def fieldRd (c : MauCmd) (d : Desc) (x : Nat) : Eng Nat := do
  let v ← engRd c (d.base + BitVec.ofNat 64 (d.offset x)) d.size
  pure (d.pick x v)

def fieldWr (c : MauCmd) (d : Desc) (x code : Nat) : Eng Unit := do
  let ea := d.base + BitVec.ofNat 64 (d.offset x)
  let old ← if d.fmt = 5 then engRd c ea 1 else pure 0
  engWr c ea d.size (d.place x old code)

/-- Codes and flags that an operator gives for the positions of a pair, from the codes there. -/
abbrev Operator := (Nat → Nat) → List Nat → List (Nat × Nat) × Flags

/-- The bits that STX stores for an element (R129, R154). -/
def elemCells (d : Desc) (q pa code : Nat) : List MCell :=
  let mask : Byte := if d.fmt = 5 then (if q % 2 = 0 then 0x0F else 0xF0) else 0xFF
  (cellsOf pa d.size (d.place q 0 code)).map (fun c => (c.1, c.2, mask))

/-- Do buffered bits hold some others as they were stored? -/
def heldIn (bytes : List MCell) (m : MCell) : Bool :=
  bytes.any (fun b => b.1 == m.1 && b.2.2 &&& m.2.2 == m.2.2 && (b.2.1 ^^^ m.2.1) &&& m.2.2 == 0)

/-- Buffered bits without some others. -/
def withoutBits (bytes : List MCell) (ms : List MCell) : List MCell :=
  (bytes.map (fun b => (b.1, b.2.1, ms.foldl (fun (k : Byte) m => if m.1 = b.1 then k &&& ~~~m.2.2 else k) b.2.2))).filter
    (fun b => b.2.2 != 0)

/-- Buffered stores of STX to elements of the field at `dpa` that a command has moved go with them (`place` gives the new
position): each STX falls after the command (R141; DESIGN CHOICE, log 87). -/
def State.moveStores (s : State) (c : MauCmd) (d : Desc) (dpa : Nat) (place : Nat → Option Nat) (ps : List Nat) : State :=
  let moved (x : ElemStore) : Bool := x.desc == dpa && ps.contains x.q && place x.q != some x.q
  let again (x : ElemStore) : Option Entry := match place x.q with
    | none => none
    | some q => match s.xlate c.part c.level .store (d.base + BitVec.ofNat 64 (d.offset q)) with
      | .ok pa => some (.store (pa / 64) (elemCells d q pa x.code) [dpa] [⟨dpa, q, pa, x.code⟩])
      | .error _ => none
  let one (e : Entry) : List Entry := match e with
    | .store sec bytes waits elems =>
      let go := elems.filter (fun x => moved x && (elemCells d x.q x.pa x.code).all (heldIn bytes))
      let left := withoutBits bytes (go.flatMap (fun x => elemCells d x.q x.pa x.code))
      (if left = [] then [] else [.store sec left waits (elems.filter (fun x => !(go.contains x)))]) ++ go.filterMap again
    | e => [e]
  let here (t : Thread) : Bool := t.entries.any (fun e => match e with
    | .store _ _ _ elems => elems.any moved
    | _ => false)
  if s.threads.any (fun x => here x.2) then
    { s with threads := s.threads.map (fun x => if here x.2 then (x.1, { x.2 with entries := x.2.entries.flatMap one }) else x) }
  else s

/-- One pair (R133, R135): `src` says where the element of a position stands; with `shift` every element is
written, else only what the operator gives. -/
def passPair (c : MauCmd) (d : Desc) (ps : List Nat) (src : Nat → Nat) (shift : Bool) (op : Operator) : Eng Flags := do
  let vals ← ps.mapM (fun q => do
    let v ← fieldRd c d (src q)
    pure (q, v))
  let (outs, f) := op (smGet 0 vals) ps
  let all := if shift then vals.map (fun (x : Nat × Nat) => (x.1, (outs.find? (fun y => y.1 == x.1)).elim x.2 Prod.snd))
             else outs
  all.forM (fun (x : Nat × Nat) => fieldWr c d x.1 x.2)
  pure f

/-- The block-state bit of a block is set to PHASE; a field of one block has none (R133). -/
def setBlock (c : MauCmd) (d : Desc) (b : Nat) : Eng Unit := do
  if 12 < d.l then
    let ea := d.aux + BitVec.ofNat 64 (0x8000 + b / 8)
    let v ← engRd c ea 1
    let bit := 2 ^ (b % 8)
    engWr c ea 1 (v - v / bit % 2 * bit + b2n d.phase * bit)
  else pure ()

namespace Desc

/-- The number of blocks (R133). -/
def blocks (d : Desc) : Nat := 2 ^ (d.l - 12)

/-- The local positions of a block. -/
def posIn (d : Desc) (b : Nat) : List Nat := (List.range (2 ^ min d.l 12)).map (fun k => 4096 * b + k)

/-- The blocks of the pair with a key, for a remap over physical bit pc. -/
def pairOf (pc key : Nat) : List Nat := if 12 ≤ pc then [key, key + 2 ^ (pc - 12)] else [key]

/-- The keys of all pairs, increasing. -/
def keys (d : Desc) (pc : Nat) : List Nat :=
  (List.range d.blocks).filter (fun b => decide (pc < 12) || !(b.testBit (pc - 12)))

end Desc

/-- Runs pairs one after another; a fault stops it with the earlier pairs in place (R142, R206). -/
def State.runPairs (s : State) (one : Nat → Eng Flags) : List Nat → State × Flags × Option Flt
  | [] => (s, 0, none)
  | k :: ks => match (one k).run s with
    | .error f => (s, 0, some f)
    | .ok (fl, s) =>
      let r := s.runPairs one ks
      (r.1, fl ||| r.2.1, r.2.2)

/-- Moves and operates on the pairs of a dune shift, both block bits with them (R135). -/
def State.runShift (s : State) (c : MauCmd) (d : Desc) (pa : Nat) (op : Operator) (keys : List Nat) :
    State × Flags × Option Flt :=
  s.runPairs (fun key => do
    let bs := Desc.pairOf d.pc key
    let ps := bs.flatMap d.posIn
    let fl ← passPair c d ps (fun q => Desc.swapBits q d.pc d.pv) true op
    bs.forM (fun b => setBlock c d b)
    modify (fun s => s.moveStores c d pa (fun q => some (Desc.swapBits q d.pc d.pv)) ps)
    pure fl) keys

/-- Runs blocks in place. -/
def State.runInPlace (s : State) (c : MauCmd) (d : Desc) (op : Operator) : State × Flags × Option Flt :=
  s.runPairs (fun b => passPair c d (d.posIn b) id false op) (List.range d.blocks)

/-- The operator that changes nothing. -/
def identityOp : Operator := fun _ _ => ([], 0)

/-- The keys of the pairs that are still in the old layout. -/
def State.oldKeys (s : State) (c : MauCmd) (d : Desc) (keys : List Nat) : Except Flt (List Nat) :=
  keys.filterM (fun k => match s.blockNew c.part c.level d k with
    | .ok b => .ok (!b)
    | .error e => .error ⟨e, d.aux⟩)

/-! ### Exchanges that have halted (R150) -/

/-- Position p without bit k. -/
def dropBit (p k : Nat) : Nat := p / 2 ^ (k + 1) * 2 ^ k + p % 2 ^ k

/-- The copy phase's block b (R149): positions with p[pl] ≠ v come from the receive area. -/
def copyBlock (c : MauCmd) (d : Desc) (pa : Nat) (r : Word) (v : Bool) (b : Nat) : Eng Flags := do
  (d.posIn b).forM (fun p => do
    if p.testBit d.pv != v then
      let i := dropBit p d.pv
      let w ← engRd c (r + BitVec.ofNat 64 (d.offset i)) d.size
      fieldWr c d p (d.pick i w))
  setBlock c d b
  modify (fun s => s.moveStores c d pa (fun p => if p.testBit d.pv != v then none else some p) (d.posIn b))
  pure 0

/-- The own spread position. -/
def State.sigma (s : State) (c : MauCmd) (d : Desc) : Except Flt (Option Nat) :=
  match s.spreadOf c.part c.level d with
  | .ok x => .ok x
  | .error e => .error ⟨e, d.aux⟩

/-- The value of the exchanged bit at this device: v := σ[ps - L]. -/
def ownBit (d : Desc) (sig : Option Nat) : Bool := (sig.getD 0).testBit (d.pc - d.l)

/-- A command that starts on a halted field completes the remap first (R139): pairs still in the old layout are
moved, an exchange in its copy phase takes the rest from the receive area, and its count of arrivals starts again (R149);
an exchange that halted before has its old map back, with the PHASE that goes with it (DEDUCED, log 21). -/
def State.finishHalted (s : State) (c : MauCmd) (h : Word) : State × Option Flt :=
  match s.cmdDesc c h with
  | .error f => (s, some f)
  | .ok (d, pa) =>
    if !d.halted then (s, none)
    else if d.exch && !d.xcopy then
      (s.putDesc pa (Desc.swapMap d.map d.n d.pc d.pv) (Desc.shiftOf true false false (!d.phase) false false d.pv d.pc), none)
    else
      let keys := if d.exch then List.range d.blocks else d.keys d.pc
      match s.oldKeys c d keys with
      | .error f => (s, some f)
      | .ok old =>
        let (s, _, f) := if d.exch then
            let r := smGet 0 (s.part c.part).exchArea h.toNat
            match s.sigma c d with
            | .error f => (s, 0, some f)
            | .ok sig => s.runPairs (copyBlock c d pa r (ownBit d sig)) old
          else s.runShift c d pa identityOp old
        match f with
        | some f => (s, some f)
        | none =>
          let s := s.putShift pa (d.withBits true false false d.xcopy)
          (if d.exch then s.modPart c.part (fun q => { q with exch := smSet 0 q.exch h.toNat 0 }) else s, none)

/-! ### Operators -/

/-- The matrix entries of an axis slot. -/
def AxSlot.entry (a : AxSlot) (r q : Nat) : Val × Val :=
  let w := (a.data.getD (r * 2 ^ a.k + q) 0).toNat
  (Fmt.fp32.decode ⟨0, 0⟩ (w % 2 ^ 32), Fmt.fp32.decode ⟨0, 0⟩ (w / 2 ^ 32))

/-- Rounds the exact sum of products of complex or real elements into a field's format. -/
def sumProducts (c : MauCmd) (fmt : Nat) (ps : List ((Val × Val) × (Val × Val))) : Nat × Flags :=
  if fmtCplx fmt then
    roundElem fmt c.tbl c.rm (sumVals c.rm (ps.flatMap (fun p => prodRe p.1 p.2)))
      (sumVals c.rm (ps.flatMap (fun p => prodIm p.1 p.2)))
  else roundElem fmt c.tbl c.rm (sumVals c.rm (ps.map (fun p => p.1.1.mul p.2.1))) (Val.fin false 0 0, false)

/-- The offset of pattern q along physical bits. -/
def spreadBits (bits : List Nat) (q : Nat) : Nat :=
  (bits.zip (List.range bits.length)).foldl (fun n (x : Nat × Nat) => if q.testBit x.2 then n + 2 ^ x.1 else n) 0

/-- Condition bits hold at logical index x (R198). -/
def condsHold (cs : List Nat) (pat x : Nat) : Bool :=
  (cs.zip (List.range cs.length)).all (fun (y : Nat × Nat) => x.testBit y.1 == pat.testBit y.2)

/-- The list register of AXAPPLY (R198): targets, controls, PAT. -/
structure AxList where
  targets : List Nat
  controls : List Nat
  pat : Nat
  deriving DecidableEq, Repr

def axList (l : Word) (k : Nat) : AxList :=
  let w := l.toNat
  ⟨(List.range k).map (fun m => bitsN w (6 * m + 5) (6 * m)),
   (List.range (bitsN w 50 48)).map (fun m => bitsN w (24 + 6 * m + 5) (24 + 6 * m)), bitsN w 55 52⟩

/-- The list's checks (R198): FIELD_BAD reason 6, and the bit concerned; BIT is 0 for two equal entries, where the spec
singles out none (R144; DESIGN CHOICE, log 79). -/
def axListFault (l h : Word) (k n : Nat) : Option Flt :=
  let w := l.toNat
  let nc := bitsN w 50 48
  let x := axList l k
  let used := x.targets ++ x.controls
  let unused := (List.range 4).any (fun m => decide (k ≤ m) && bitsN w (6 * m + 5) (6 * m) != 0)
    || (List.range 4).any (fun m => decide (nc ≤ m) && bitsN w (24 + 6 * m + 5) (24 + 6 * m) != 0)
  if bitsN w 63 56 ≠ 0 || w.testBit 51 || decide (4 < nc) || unused || x.pat >>> nc != 0 then some (badField 6 h)
  else match used.find? (fun j => decide (n ≤ j)) with
    | some j => some (badField 6 h j)
    | none => if used.eraseDups.length = used.length then none else some (badField 6 h)

/-- AXAPPLY's operator (R199): the targets' physical bits are near. -/
def applyOp (c : MauCmd) (d : Desc) (sig : Nat) (a : AxSlot) (x : AxList) : Operator := fun code ps =>
  let phys := x.targets.map (fun j => d.mapBit j)
  let n := 2 ^ a.k
  let starts := ps.filter (fun p => phys.all (fun b => !(p.testBit b))
    && condsHold x.controls x.pat (d.unmapx (sig * 2 ^ d.l + p)))
  let rs := starts.flatMap (fun p =>
    let ys := (List.range n).map (fun q => decodeElem d.fmt c.tbl (code (p + spreadBits phys q)))
    (List.range n).map (fun r =>
      (p + spreadBits phys r, sumProducts c d.fmt ((ys.zip (List.range n)).map (fun y => (a.entry r y.2, y.1))))))
  (rs.map (fun (x : Nat × (Nat × Flags)) => (x.1, x.2.1)), rs.foldl (fun f x => f ||| x.2.2) 0)

/-- AXPHASE's operator (R200). -/
def phaseOp (c : MauCmd) (d : Desc) (sig : Nat) (m : Nat) (f : Val × Val) : Operator := fun code ps =>
  let hit := ps.filter (fun p => d.unmapx (sig * 2 ^ d.l + p) &&& m == m)
  let rs := hit.map (fun p => (p, sumProducts c d.fmt [(decodeElem d.fmt c.tbl (code p), f)]))
  (rs.map (fun (x : Nat × (Nat × Flags)) => (x.1, x.2.1)), rs.foldl (fun f x => f ||| x.2.2) 0)

/-- The C32 value of an f register. -/
def factorOf (w : Word) : Val × Val := cval w

/-! ### Checks (R440) -/

/-- A destination in derived storage, which is whole lines (R379). -/
def State.derivedDest (s : State) (c : MauCmd) (d : Desc) : Bool :=
  d.state == 2 || (s.runsOf c.part d.base d.span).any (fun g =>
    s.rules.any (fun r => r.segs.any (fun x => decide (x.pa / 256 * 256 < g.pa + g.len ∧ g.pa < (x.pa + x.len + 255) / 256 * 256))))

/-- What a command will do with its field: in place, or as a dune shift with its PC and PV. -/
inductive Plan where
  | inPlace
  | shift (pc pv : Nat)
  | nothing
  deriving DecidableEq, Repr

/-- The victim bit (R135). -/
def victim (d : Desc) (named : List Nat) : Option Nat :=
  (List.range d.near).reverse.find? (fun q => !(named.contains q) && !(d.pin.testBit q))

/-- Steps 6 to 10 of R440 for a command with target bits. BIT is 0 for reason 7, which concerns no one bit (R144; DESIGN
CHOICE, log 79). -/
def State.planTargets (s : State) (c : MauCmd) (h : Word) (d : Desc) (targets conds : List Nat) : Except Flt Plan :=
  match targets.find? (fun j => decide (d.l ≤ d.mapBit j)) with
  | some j => .error (spreadField h j)
  | none =>
    let chip := targets.filter (fun j => decide (12 ≤ d.mapBit j))
    if 2 ≤ chip.length then .error (badField 7 h)
    else if s.derivedDest c d then .error ⟨cDWRITE, d.base⟩
    else match chip with
      | [] => .ok .inPlace
      | j :: _ =>
        if s.isBound c.part h.toNat d then .error (badField 9 h)
        else match victim d ((targets ++ conds).map (fun j => d.mapBit j)) with
          | none => .error (badField 7 h)
          | some pv => .ok (.shift (d.mapBit j) pv)

/-- The lowest bit of a mask at or above n. -/
def highBit (m n : Nat) : Option Nat := (List.range 64).find? (fun j => decide (n ≤ j) && m.testBit j)

def isZeroIm (v : Val × Val) : Bool := v.2.isZero

/-- Spread agreement of R202: the same logical bits spread, on the same physical bits. -/
def sameSpread (a b : Desc) : Bool :=
  (List.range a.n).all (fun j =>
    (decide (a.mapBit j < a.l) && decide (b.mapBit j < b.l)) || a.mapBit j == b.mapBit j && decide (a.l ≤ a.mapBit j)
      && decide (b.l ≤ b.mapBit j))

/-- The checks of an axis command that holds its descriptors, in the order of R440, and its plan. -/
def State.axisPlan (s : State) (c : MauCmd) : Except Flt Plan := do
  match c.ins with
  | .axld _ _ _ => if (c.arg 0).toNat % 16 ≠ 0 then throw ⟨cMISALIGN, c.arg 0⟩ else pure .inPlace
  | .axapply _ slot _ _ _ _ =>
    let h := c.arg 0
    let (d, _) ← s.cmdDesc c h
    match smGet none (s.core c.cid).axis slot.toNat with
    | none => throw (mauReason 4)
    | some a =>
      if a.cplx && !(fmtCplx d.fmt) then throw (mauReason 5)
      match axListFault (c.arg 1) h a.k d.n with
      | some f => throw f
      | none =>
        let x := axList (c.arg 1) a.k
        s.planTargets c h d x.targets x.controls
  | .axphase _ _ =>
    let h := c.arg 0
    let (d, _) ← s.cmdDesc c h
    if !(fmtCplx d.fmt) && !(isZeroIm (factorOf (c.arg 2))) then throw (mauReason 5)
    match highBit (c.arg 1).toNat d.n with
    | some j => throw (badField 6 h j)
    | none => if s.derivedDest c d then throw ⟨cDWRITE, d.base⟩ else pure .inPlace
  | .axsum _ sq =>
    let (hd, hs, m) := (c.arg 0, c.arg 1, (c.arg 2).toNat)
    let (dd, _) ← s.cmdDesc c hd
    let (ds, _) ← s.cmdDesc c hs
    match highBit m ds.n with
    | some j => throw (badField 6 hs j)
    | none =>
      if ds.s ≠ 0 then throw (spreadField hs 0)
      if dd.s ≠ 0 then throw (spreadField hd 0)
      let fd := if sq || !(fmtCplx ds.fmt) then 0 else 2
      let pop := ((List.range 48).filter (fun j => m.testBit j)).length
      if dd.n + pop ≠ ds.n ∨ dd.fmt ≠ fd then throw (mauReason 4)
      if s.derivedDest c dd then throw ⟨cDWRITE, dd.base⟩
      pure .inPlace
  | .axscale _ | .axcopy _ =>
    let (hd, hs) := (c.arg 0, c.arg 1)
    let (dd, _) ← s.cmdDesc c hd
    let (ds, _) ← s.cmdDesc c hs
    let isCopy := match c.ins with
      | .axcopy _ => true
      | _ => false
    if dd.n ≠ ds.n || !(sameSpread dd ds) then throw (mauReason 4)
    if isCopy && dd.fmt != ds.fmt && !(convOk ds.fmt dd.fmt) then throw (mauReason 4)
    if !isCopy && !(fmtCplx dd.fmt) && (fmtCplx ds.fmt || !(isZeroIm (factorOf (c.arg 2)))) then throw (mauReason 4)
    if s.derivedDest c dd then throw ⟨cDWRITE, dd.base⟩
    pure .inPlace
  | .flswap _ =>
    let h := c.arg 0
    let x := (c.arg 1).toNat
    let (d, _) ← s.cmdDesc c h
    let (a, b) := (bitsN x 5 0, bitsN x 13 8)
    if bitsN x 63 14 ≠ 0 || bitsN x 7 6 ≠ 0 then throw (badField 6 h)
    if d.n ≤ a then throw (badField 6 h a)
    if d.n ≤ b then throw (badField 6 h b)
    if s.isBound c.part h.toNat d then throw (badField 9 h)
    let (pa, pb) := (d.mapBit a, d.mapBit b)
    if d.l ≤ pa then throw (spreadField h a)
    if d.l ≤ pb then throw (spreadField h b)
    if 12 ≤ pa ∧ 12 ≤ pb then throw (badField 8 h)
    if a = b then pure .nothing else pure (.shift (max pa pb) (min pa pb))
  | _ => pure .nothing

/-- Clocks of an axis command (R136, R197, R204). A quotient of 2^L by the rate that is not whole is rounded up (DESIGN
CHOICE, log 85). -/
def State.axisTime (s : State) (c : MauCmd) (p : Plan) : Nat :=
  let span (k : Nat) : Desc := match s.cmdDesc c (c.arg k) with
    | .ok (d, _) => d
    | .error _ => Desc.ofNat 0
  let rate : Nat := match c.ins with
    | .axapply _ slot _ _ _ _ => match smGet none (s.core c.cid).axis slot.toNat with
      | some a => min (256 / 2 ^ a.k) 64
      | none => 64
    | _ => 64
  match c.ins with
  | .axld _ k _ => 2 ^ k.toNat + 20
  | .axsum _ _ => (2 ^ (span 1).l + 63) / 64 + 40
  | _ =>
    let d := span 0
    (2 ^ d.l + rate - 1) / rate + 40 + (match p with
      | .shift pc _ => 64 * (d.keys pc).length
      | _ => 0)

/-! ### The data pass -/

/-- AXLD's read of any readable memory, at the issuing level (R197, R441). -/
def State.mauRead (s : State) (c : MauCmd) (ea : Word) (n : Nat) : Except Flt (Nat × State) :=
  match regionOf ea with
  | .tcm off =>
    if (s.core c.cid).tcmMax * 0x10000 ≤ off then .error ⟨cPROT, ea⟩
    else if (s.tcmPoison c.cid off n).isSome then .error ⟨cMCHECK, ea⟩
    else .ok (s.tcmLoad c.cid off n)
  | .own off =>
    if (s.spadPoison (c.tid / 32) off n).isSome then .error ⟨cMCHECK, ea⟩
    else .ok ((s.cluster (c.tid / 32)).read off n, s)
  | .cluster k off =>
    if !(s.clusterOk c.part k) then .error ⟨cPROT, ea⟩
    else if (s.spadPoison k off n).isSome then .error ⟨cMCHECK, ea⟩
    else .ok ((s.cluster k).read off n, s)
  | .chip => (engRd c ea n).run s
  | .bad => .error ⟨cPROT, ea⟩

/-- The matrix that AXLD reads. -/
def State.axMatrix (s : State) (c : MauCmd) (cplx : Bool) : Nat → Except Flt (List Elem × State)
  | 0 => .ok ([], s)
  | n + 1 => do
    let (rest, s) ← s.axMatrix c cplx n
    let w := if cplx then 8 else 4
    let (v, s) ← s.mauRead c (c.arg 0 + BitVec.ofNat 64 (w * n)) w
    pure (rest ++ [BitVec.ofNat 64 v], s)

/-- Element x of a source field, read where it lies. -/
def srcElem (c : MauCmd) (d : Desc) (x : Nat) : Eng Nat := fieldRd c d (d.mapx x % 2 ^ d.l)

/-- BEXT (x, NOT m) over n bits: the summed bits are squeezed out (R85, R201). -/
def squeezeOut (m x n : Nat) : Nat := Rule.squeeze m x 0 0 n

/-- One element of AXSUM's destination (R201). -/
def sumElem (c : MauCmd) (ds : Desc) (sq : Bool) (m y fd : Nat) : Eng (Nat × Flags) := do
  let xs := (List.range (2 ^ ds.n)).filter (fun x => squeezeOut m x ds.n == y)
  let vs ← xs.mapM (fun x => do
    let v ← srcElem c ds x
    pure (decodeElem ds.fmt c.tbl v))
  let re : List (Val × Bool) :=
    if sq then vs.flatMap (fun v => if fmtCplx ds.fmt then [v.1.mul v.1, v.2.mul v.2] else [v.1.mul v.1])
    else vs.map (fun v => (v.1, false))
  let im : List (Val × Bool) := if sq then [] else vs.map (fun v => (v.2, false))
  pure (roundElem fd c.tbl c.rm (sumVals c.rm re) (sumVals c.rm im))

/-- One block of AXSUM, AXSCALE or AXCOPY: the destination's positions, each from its source. -/
def elementBlock (c : MauCmd) (d : Desc) (sig : Nat) (f : Nat → Eng (Nat × Flags)) (b : Nat) : Eng Flags := do
  let outs ← (d.posIn b).mapM (fun q => do
    let r ← f (d.unmapx (sig * 2 ^ d.l + q))
    pure (q, r))
  outs.forM (fun (x : Nat × (Nat × Flags)) => fieldWr c d x.1 x.2.1)
  pure (outs.foldl (fun fl x => fl ||| x.2.2) 0)

/-- The element of AXSCALE and AXCOPY (R202). A real source for a complex destination is the complex number with imaginary
part +0 in the product of AXSCALE, so that 0 times an infinity gives NaN there (DESIGN CHOICE, log 84). -/
def scaleElem (c : MauCmd) (ds dd : Desc) (x : Nat) : Eng (Nat × Flags) := do
  let v ← srcElem c ds x
  match c.ins with
  | .axcopy _ => if ds.fmt = dd.fmt then pure (v, 0) else pure (convElem ds.fmt dd.fmt c.tbl c.rm v)
  | _ => pure (sumProducts c dd.fmt [(decodeElem ds.fmt c.tbl v, factorOf (c.arg 2))])

/-- The whole data pass of a command that has started: the state, flags, a fault (R199 to R202). It acts on its descriptors
as they stood when it began (R157). A device that holds none of the field does nothing (R132). -/
def State.axisPass (s : State) (c : MauCmd) : State × Flags × Option Flt :=
  let bad (f : Flt) : State × Flags × Option Flt := (s, 0, some f)
  let d := c.descFor (c.arg 0)
  match c.ins with
  | .axld o k cplx => match s.axMatrix c cplx (2 ^ k.toNat * 2 ^ k.toNat) with
    | .error f => bad f
    | .ok (m, s) =>
      (s.modCore c.cid (fun x => { x with axis := smSet none x.axis o.d.toNat (some ⟨k.toNat, cplx, m⟩) }), 0, none)
  | .axsum _ sq =>
    let ds := c.descFor (c.arg 1)
    s.runPairs (elementBlock c d 0 (fun y => sumElem c ds sq (c.arg 2).toNat y d.fmt)) (List.range d.blocks)
  | .axscale _ | .axcopy _ => match s.sigma c d with
    | .error f => bad f
    | .ok none => (s, 0, none)
    | .ok (some sig) =>
      s.runPairs (elementBlock c d sig (fun x => scaleElem c (c.descFor (c.arg 1)) d x)) (List.range d.blocks)
  | _ => match s.sigma c d with
    | .error f => bad f
    | .ok none => (s, 0, none)
    | .ok (some sig) =>
      let op : Operator := match c.ins with
        | .axapply _ slot _ _ _ _ => match smGet none (s.core c.cid).axis slot.toNat with
          | some a => applyOp c d sig a (axList (c.arg 1) a.k)
          | none => identityOp
        | .axphase _ _ => phaseOp c d sig (c.arg 1).toNat (factorOf (c.arg 2))
        | _ => identityOp
      if d.active then s.runShift c d (c.held.headD 0) op (d.keys d.pc) else s.runInPlace c d op

end Sys2Proof.Machine
end

