-- ==== Sys2Proof/Machine/Special.lean ====
section
/-! DEFINITION. The special functions of VSF (R232), each an exact value for one rounding. A value that is not
dyadic is held with far more bits than any rounding boundary needs and a last bit set, which tells that
it is inexact. -/

namespace Sys2Proof.Machine

/-- A positive inexact value, as bits of a fixed-point number with `p` fraction bits. -/
def inexact (neg : Bool) (v p : Nat) : Val := .fin neg (2 * v + 1) (-(p : Int) - 1)

/-- Fixed-point division of two fixed-point numbers with `p` fraction bits. -/
def fxDiv (p a b : Nat) : Nat := (a <<< p) / b

/-- Σ 1/((2k+1) n^(2k+1)) with p fraction bits, with alternating signs where `alt`. -/
def invSeries (alt : Bool) (n : Nat) : Nat → Nat → Nat → Int → Int
  | 0, _, _, acc => acc
  | fuel + 1, k, pw, acc =>
    let t : Int := (pw / (2 * k + 1) : Nat)
    invSeries alt n fuel (k + 1) (pw / (n * n)) (if alt && k % 2 = 1 then acc - t else acc + t)

/-- π with p fraction bits. -/
def piFix (p : Nat) : Nat :=
  (16 * invSeries true 5 240 0 (2 ^ p / 5) 0 - 4 * invSeries true 239 240 0 (2 ^ p / 239) 0).toNat

/-- ln 2 with p fraction bits. -/
def ln2Fix (p : Nat) : Nat := (2 * invSeries false 3 320 0 (2 ^ p / 3) 0).toNat

/-- Σ y^k / k! for 0 ≤ y < 1. -/
def expSeries (p y : Nat) : Nat → Nat → Nat → Nat → Nat
  | 0, _, _, acc => acc
  | fuel + 1, k, t, acc => expSeries p y fuel (k + 1) ((t * y) >>> p / (k + 1)) (acc + t)

/-- e^y with p fraction bits, 0 ≤ y < 1. -/
def expFix (p y : Nat) : Nat := expSeries p y 180 0 (2 ^ p) 0

/-- The alternating series of the sine from the term t of order j on. -/
def trigSeries (p y2 : Nat) : Nat → Nat → Nat → Int
  | 0, _, _ => 0
  | fuel + 1, j, t => (t : Int) - trigSeries p y2 fuel (j + 2) ((t * y2) >>> p / ((j + 1) * (j + 2)))

/-- sin y with p fraction bits. -/
def sinFix (p y : Nat) : Nat := (trigSeries p ((y * y) >>> p) 100 1 y).toNat

/-- Σ z^(2k+1) / (2k+1): the inverse hyperbolic tangent of z, |z| at most 1/3. -/
def atanhSeries (p z2 : Nat) : Nat → Nat → Nat → Nat → Nat
  | 0, _, _, acc => acc
  | fuel + 1, k, t, acc => atanhSeries p z2 fuel (k + 1) ((t * z2) >>> p) (acc + t / (2 * k + 1))

/-- Working precision for an operand of exponent e: 256 bits beyond the cube of a small operand. -/
def workBits (m : Nat) (e : Int) : Nat := 256 + 3 * (-(e + (bitLen m : Int))).toNat

/-- m × 2^e with p fraction bits. -/
def toFix (m : Nat) (e : Int) (p : Nat) : Nat :=
  if 0 ≤ e + p then m <<< (e + p).toNat else m >>> (-(e + p)).toNat

/-- Is m × 2^e an integer? -/
def isInt (m : Nat) (e : Int) : Bool := decide (0 ≤ e) || m % 2 ^ (-e).toNat == 0

/-- EXP2 (R232). -/
def vExp2 : Val → Val × Flags
  | .nan s => (.nan s, flagIf s fNV)
  | .inf n => (if n then .fin false 0 0 else .inf false, 0)
  | .fin n m e =>
    if m = 0 then (.fin false 1 0, 0)
    else if e + (bitLen m : Int) > 12 then (.fin false 1 (if n then -4096 else 4096), 0)
    else
      let p := workBits m e + 200
      let x : Int := if n then -(toFix m e p : Int) else (toFix m e p : Int)
      let k : Int := x / (2 ^ p : Nat)
      let f := (x % (2 ^ p : Nat)).toNat
      if isInt m e then (.fin false 1 k, 0)
      else (((inexact false (expFix p ((f * ln2Fix p) >>> p)) p).scale k), 0)

/-- LOG2 (R232). -/
def vLog2 : Val → Val × Flags
  | .nan s => (.nan s, flagIf s fNV)
  | .inf n => (if n then (.nan false, fNV) else (.inf false, 0))
  | .fin n m e =>
    if m = 0 then (.inf true, fDZ)
    else if n then (.nan false, fNV)
    else
      let k : Int := e + (bitLen m : Int) - 1
      if m = 2 ^ (bitLen m - 1) then (.fin (decide (k < 0)) k.natAbs 0, 0)
      else
        let p := 320
        let one := 2 ^ p
        let x := toFix m (1 - (bitLen m : Int)) p
        let z := fxDiv p (x - one) (x + one)
        let l := fxDiv p (2 * atanhSeries p ((z * z) >>> p) 160 0 z 0) (ln2Fix p)
        let t : Int := k * (one : Nat) + (l : Int)
        if t < 0 then (.fin true (2 * (-t).toNat - 1) (-(p : Int) - 1), 0) else (inexact false t.toNat p, 0)

/-- RCP (R232). -/
def vRcp (a : Val) : Val × Flags :=
  let q := (Val.fin false 1 0).div a
  (q.1, flagIf q.2.2 fDZ ||| flagIf a.isSig fNV)

/-- RSQRT (R232). -/
def vRsqrt : Val → Val × Flags
  | .nan s => (.nan s, flagIf s fNV)
  | .inf n => if n then (.nan false, fNV) else (.fin false 0 0, 0)
  | .fin n m e =>
    if m = 0 then (.inf n, fDZ)
    else if n then (.nan false, fNV)
    else
      -- 1 / √(m 2^e) with an even exponent
      let odd : Nat := (e % 2).toNat
      let m := m <<< odd
      let h : Int := (e - (odd : Int)) / 2
      let k := 400 + 2 * bitLen m
      let r := Val.sqrt.isqrt ((2 ^ (2 * k)) / m)
      (.fin false (2 * r + b2n (r * r * m != 2 ^ (2 * k))) (-h - (k : Int) - 1), 0)

/-- sin(π y) for y = f / 2^q in (0, 1/2), not a multiple of 1/2. -/
def sinPi (f q : Nat) : Val :=
  let p := 256 + 3 * (q + 1 - bitLen f) + q
  inexact false (sinFix p ((f * piFix p) >>> q)) p

/-- sin(π x) of a fraction x = f / 2^q of the turn 2, by its half and its reflection: sign and value. -/
def sinTurn (f q : Nat) : Val :=
  let one := 2 ^ q
  let (neg, g) := if f ≥ one then (true, f - one) else (false, f)
  if g = 0 then .fin neg 0 0
  else if 2 * g = one then .fin neg 1 0
  else
    let g := if 2 * g > one then one - g else g
    match sinPi g q with
    | .fin _ m e => .fin neg m e
    | v => v

/-- SINPI (R232). -/
def vSinpi : Val → Val × Flags
  | .nan s => (.nan s, flagIf s fNV)
  | .inf _ => (.nan false, fNV)
  | .fin n m e =>
    if isInt m e then (.fin n 0 0, 0)
    else
      let q := (-e).toNat
      match sinTurn (m % 2 ^ (q + 1)) q with
      | .fin k l x => (.fin (n != k) l x, 0)
      | v => (v, 0)

/-- COSPI (R232): sin(π (x + 1/2)). -/
def vCospi : Val → Val × Flags
  | .nan s => (.nan s, flagIf s fNV)
  | .inf _ => (.nan false, fNV)
  | .fin _ m e =>
    if 0 ≤ e then (.fin (decide (0 < m ∧ e = 0 ∧ m % 2 = 1)) 1 0, 0)
    else
      let q := (-e).toNat + 1
      let f := (2 * m + 2 ^ (q - 1)) % 2 ^ (q + 1)
      if f % 2 ^ q = 0 then (.fin false 0 0, 0) else (sinTurn f q, 0)

/-- e^y by 6 squarings of e^(y/64). -/
def expBig (p y : Nat) : Nat :=
  (List.range 6).foldl (fun v _ => (v * v) >>> p) (expFix p (y / 64))

/-- TANH (R232). -/
def vTanh : Val → Val × Flags
  | .nan s => (.nan s, flagIf s fNV)
  | .inf n => (.fin n 1 0, 0)
  | .fin n m e =>
    if m = 0 then (.fin n 0 0, 0)
    else if e + (bitLen m : Int) > 5 then (.fin n (2 ^ 64 - 1) (-64), 0)
    else
      let p := workBits m e + 200
      let x := expBig p (2 * toFix m e p)
      (inexact n (fxDiv p (x - 2 ^ p) (x + 2 ^ p)) p, 0)

/-- Function f of VSF (R232). -/
def special (f : Nat) (a : Val) : Val × Flags :=
  match f with
  | 0 => vExp2 a
  | 1 => vLog2 a
  | 2 => vRcp a
  | 3 => vRsqrt a
  | 4 => (a.sqrt.1, flagIf a.sqrt.2 fNV)
  | 5 => vSinpi a
  | 6 => vCospi a
  | _ => vTanh a

end Sys2Proof.Machine
end

