-- ==== Sys2Proof/Machine/Vector.lean ====
section
/-! DEFINITION. Vector instructions as they issue (R226, R230, R231, R237 to R240): what they check, what they
capture, and their entry into the VU queue or into a capture of REPV. -/

namespace Sys2Proof.Machine

/-! ### Registers of an instruction -/

/-- The v registers a vector instruction names: fields d, s and t with the operands that they are (R80, R45).
`d` is a v destination or store source; `a` and `b` are the v operands A and B, or the one source. -/
structure VRegs where
  d : Option Nat := none
  a : Option Nat := none
  b : Option Nat := none
  /-- d is read: the addend of VFMA, or store data. -/
  readsD : Bool := false
  /-- A single-source form: its source is field s without P.R, field t with it. -/
  single : Bool := false
  deriving DecidableEq, Repr

def vregsOf : Instr → VRegs
  | .vadd o | .vsub o | .vmul o | .vmax o | .vmin o | .vdiv o | .vsel o | .vperm o =>
    { d := some o.d.toNat, a := some o.a.toNat, b := some o.b.toNat }
  | .vfma o => { d := some o.d.toNat, a := some o.a.toNat, b := some o.b.toNat, readsD := true }
  | .vcmp o _ => { a := some o.a.toNat, b := some o.b.toNat }
  | .vabs o => { d := some o.d.toNat, a := some o.a.toNat, single := true }
  | .vsf o _ | .vcvt o _ => { d := some o.d.toNat, a := some o.a.toNat, single := true }
  | .vscan o _ => { d := some o.d.toNat, a := some o.a.toNat, single := true }
  | .vbcst o _ => { d := some o.d.toNat }
  | .vrand d _ => { d := some d.toNat }
  | .vred o _ => { a := some o.a.toNat, single := true }
  | .vld o => { d := some o.d.toNat }
  | .vst o => { d := some o.d.toNat, readsD := true }
  | .vlds o => { d := some o.d.toNat }
  | .vsts o => { d := some o.d.toNat, readsD := true }
  | .vldx o => { d := some o.d.toNat, b := some o.t.toNat }
  | .vstx o => { d := some o.d.toNat, b := some o.t.toNat, readsD := true }
  | .scfg o => { d := some o.d.toNat }
  | .vext o _ => { a := some o.a.toNat }
  | .vins o _ _ => { d := some o.d.toNat }
  | _ => {}

/-- The mask register of xo[2:0] (R229). -/
def maskOf : Instr → Nat
  | .vadd o | .vsub o | .vmul o | .vfma o | .vmax o | .vmin o | .vdiv o | .vsel o | .vperm o => o.m.toNat
  | .vcmp o _ => o.m.toNat
  | .vabs o => o.m.toNat
  | .vsf o _ | .vcvt o _ => o.m.toNat
  | .vscan o _ | .vred o _ => o.m.toNat
  | .vbcst o _ | .vmsk o _ => o.m.toNat
  | .vrand _ m => m.toNat
  | .vld o | .vst o => o.m.toNat
  | .vlds o | .vsts o | .vldx o | .vstx o => o.m.toNat
  | .vext o _ => o.m.toNat
  | .vins o _ _ => o.m.toNat
  | _ => 0

/-- The instructions that refuse bound operands (R231, R237). -/
def noStreams : Instr → Bool
  | .vcmp _ _ | .vperm _ | .vrand _ _ | .vld _ | .vlds _ | .vldx _ | .vst _ | .vsts _ | .vstx _ | .vext _ _
  | .vins _ _ _ => true
  | _ => false

/-- Does the instruction round under the thread's mode (R161, R235)? -/
def vecRounds (i : Instr) (fmt : Nat) : Bool :=
  match i with
  | .vadd _ | .vsub _ | .vmul _ | .vfma _ | .vdiv _ => fmt != 6
  | .vsf _ _ => true
  | .vred _ op | .vscan _ op => op == 0 && fmt != 6
  | .vcvt _ dst => convRounds fmt dst.toNat
  | _ => false

/-- A vector instruction that writes memory through the VU or changes streams: it waits while the segment is
speculative (R243). -/
def vecStores : Instr → Bool
  | .vst _ | .vsts _ | .vstx _ | .scfg _ => true
  | _ => false

/-- Is v register n bound at issue (VCTL.SB)? -/
def Thread.bound (t : Thread) (n : Option Nat) : Bool :=
  match n with
  | some k => decide (28 ≤ k ∧ k ≤ 31) && t.sb.testBit (k - 28)
  | none => false

/-- A stream register by number (R225). -/
def Thread.stream (t : Thread) (n : Nat) : Stream :=
  if n = 28 then t.str28 else if n = 29 then t.str29 else if n = 30 then t.str30
  else if n = 31 then t.str31 else {}

def Thread.setStream (t : Thread) (n : Nat) (x : Stream) : Thread :=
  if n = 28 then { t with str28 := x } else if n = 29 then { t with str29 := x }
  else if n = 30 then { t with str30 := x } else if n = 31 then { t with str31 := x } else t

namespace Stream

def boundAt (x : Stream) (l : Nat) : Nat := bitsN x.bounds.toNat (16 * l + 15) (16 * l)
def strideAt (x : Stream) (l : Nat) : Int := (sextW (bitsN x.strides.toNat (16 * l + 15) (16 * l)) 16).toInt
def total (x : Stream) : Nat := x.boundAt 0 * x.boundAt 1 * x.boundAt 2 * x.boundAt 3
def remaining (x : Stream) : Nat := x.total - x.pos
def fmt (x : Stream) : Nat := bitsN x.ctl.toNat 2 0
def output (x : Stream) : Bool := x.ctl.toNat.testBit 8
/-- The element offset of position p (R233). -/
def elem (x : Stream) (p : Nat) : Int :=
  let i0 := p % x.boundAt 0
  let q1 := p / x.boundAt 0
  let q2 := q1 / x.boundAt 1
  let q3 := q2 / x.boundAt 2
  (i0 : Int) * x.strideAt 0 + (q1 % x.boundAt 1 : Nat) * x.strideAt 1 + (q2 % x.boundAt 2 : Nat) * x.strideAt 2
    + (q3 % x.boundAt 3 : Nat) * x.strideAt 3

end Stream

/-! ### Elements of v registers and of memory (R228, R438) -/

def Thread.v (t : Thread) (n i : Nat) : Nat := (smGet 0 t.vregs (64 * n + i)).toNat
def Thread.setV (t : Thread) (n i c : Nat) : Thread :=
  { t with vregs := smSet 0 t.vregs (64 * n + i) (BitVec.ofNat 32 c) }
def Thread.mask (t : Thread) (k : Nat) : Word := if k = 0 then BitVec.ofNat 64 (2 ^ 64 - 1) else smGet 0 t.masks k

/-- Signed 32-bit value of a code. -/
def i32 (c : Nat) : Int := (BitVec.ofNat 32 c).toInt

/-- The scratchpad window that holds an address, if any. -/
def State.winOf (s : State) (ea : Word) : Option (Nat × Win) :=
  match regionOf ea with
  | .own off => some (s.kid, s.myCluster.win (off / 0x40000))
  | .cluster c off => some (c, (s.cluster c).win (off / 0x40000))
  | _ => none

/-- The format of elements at an address: the window's, or the outside format (R438). -/
def State.fmtAt (s : State) (ea : Word) (outside : Nat) : Nat :=
  match s.winOf ea with
  | some (_, w) => w.fmt
  | none => outside

/-- Bytes that one element of a format occupies (R129). -/
def memBytes (fmt : Nat) : Nat := if fmt = 5 ∨ fmt = 4 then 1 else fmtBits fmt / 8

/-- The address of element e from a base, with the element size of the governing format (R438). -/
def State.elemAddr (s : State) (base : Word) (e : Int) (outside : Nat) : Word :=
  let g := s.fmtAt base outside
  if g = 5 then base + BitVec.ofInt 64 (e / 2) else base + BitVec.ofInt 64 (e * memBytes g)

/-- Does the conversion of a memory element round under the mode? One of equal format is moved, but in a window with a
scale its value is scaled and rounded as any other of its format (R161, R172, R438; DESIGN CHOICE, log 82). -/
def modeUsed (src dst : Nat) (scaled : Bool) : Bool :=
  (src != dst || scaled) && (convRounds src dst || (scaled && (dst == 0 || dst == 1 || dst == 6)))

/-- Would element e from a base round under the mode, the windows being as they are? -/
def State.elemMode (s : State) (fmt : Nat) (base : Word) (outside : Nat) (store : Bool) (e : Int) : Bool :=
  let ea := s.elemAddr base e outside
  let f := s.fmtAt ea outside
  let scaled := match s.winOf ea with
    | some (_, w) => w.bs || w.scale != 0
    | none => false
  if store then modeUsed fmt f scaled else modeUsed f fmt scaled

/-- The base offset, the element index and the direction of a memory instruction whose index register is `b` (R237). -/
def vecAccess (c : VuCmd) (t : Thread) (b : Option Nat) : Option (Word × (Nat → Int) × Bool) :=
  let stride (i : Nat) : Int := (i : Int) * (c.scalars.getD 1 (0, 0)).2.toInt
  let index (i : Nat) : Int := i32 (t.v (b.getD 0) i)
  match c.ins with
  | .vld o => some (o.off, fun i => i, false)
  | .vst o => some (o.off, fun i => i, true)
  | .vlds o => some (o.off, stride, false)
  | .vsts o => some (o.off, stride, true)
  | .vldx o => some (o.off, index, false)
  | .vstx o => some (o.off, index, true)
  | _ => none

/-- The ports that a head pops: do they hold their entries (R67)? -/
def Thread.vuPorts (t : Thread) (c : VuCmd) : Option Nat :=
  let n56 := (c.scalars.filter (fun x => x.1 == 56)).length
  let n57 := (c.scalars.filter (fun x => x.1 == 57)).length
  if t.q0.length < n56 then some 56 else if t.q1.length < n57 then some 57 else none

/-- Pops the entries of a head in operand order. -/
def Thread.vuTake (t : Thread) : List (Nat × Word) → Thread × List (Nat × Word)
  | [] => (t, [])
  | (p, v) :: rest =>
    let (t, x) : Thread × Word := if p = 56 then ({ t with q0 := t.q0.drop 1 }, t.q0.headD 0)
      else if p = 57 then ({ t with q1 := t.q1.drop 1 }, t.q1.headD 0) else (t, v)
    let (t, xs) := t.vuTake rest
    (t, (p, x) :: xs)

/-- Is what a memory instruction converts known at issue, whatever is still queued? -/
def vecFixed (c : VuCmd) : Bool :=
  c.scalars.all (fun x => x.1 == 0) && (match c.ins with
    | .vld _ | .vst _ | .vlds _ | .vsts _ => maskOf c.ins == 0
    | _ => false)

def isScfg : Instr → Bool
  | .scfg _ => true
  | _ => false

/-- Do a memory instruction or a stream operand leave it to queued instructions (a mask, an index, a stream, a port) whether
elements are rounded? With RM 5 to 7 the instruction then waits for them at issue (R161, R240). -/
def State.vecUnsettled (s : State) (c : VuCmd) : Bool :=
  let t := s.th
  let r := vregsOf c.ins
  t.vuq != [] && t.capture.left == 0 && !(vecFixed c) && !(isScfg c.ins) &&
    ((vecAccess c t r.b).isSome || t.bound r.a || t.bound r.b || t.bound r.d)

/-- Does a vector instruction round under the mode as it converts elements of memory or of a stream (R161)? What is not
known while it issues (a base that a port does not hold yet, what an open capture will repeat) is found as it executes
(DESIGN CHOICE, log 88). -/
def State.vecConverts (s : State) (c : VuCmd) : Bool :=
  let t := s.th
  let settled := t.vuq = [] && t.capture.left = 0 && (t.vuPorts c).isNone
  let c := if settled then { c with scalars := (t.vuTake c.scalars).2 } else c
  let m := (t.mask (maskOf c.ins)).toNat
  let r := vregsOf c.ins
  match vecAccess c t r.b with
  | some (off, index, store) =>
    (settled || vecFixed c) &&
    (List.range c.vl).any (fun i => m.testBit i &&
      s.elemMode c.fmt ((c.scalars.getD 0 (0, 0)).2 + off) c.fmt store (index i))
  | none =>
    settled && !(isScfg c.ins) && [r.a, r.b, r.d].any (fun n => t.bound n && (match n with
      | some k =>
        let x := t.stream k
        (List.range x.remaining).any (fun j => m.testBit (j % 16) &&
          s.elemMode c.fmt x.base x.fmt x.output (x.elem (x.pos + j)))
      | none => false))

/-! ### Issue -/

/-- A scalar source: read at issue; q0 and q1 are popped by the VU; q2 to q7 are illegal (R230). -/
def vecScalar (r : Reg) : Sem (Nat × Word) := do
  if 58 ≤ r.toNat then illegalOp
  if 56 ≤ r.toNat then pure (r.toNat, 0)
  else do
    let v ← readS r
    pure (0, v)

/-- Puts a command into the thread's VU queue, or into an open capture (R226, R239). -/
def enterVu (c : VuCmd) : Sem Unit := do
  let s ← get
  let cap := s.th.capture
  if cap.left ≠ 0 then
    set (s.modTh (fun t => { t with capture := { cap with left := cap.left - 1, cmds := cap.cmds ++ [c] } }.feed))
  else if cap.cmds ≠ [] || decide (32 ≤ s.th.vuq.length) then block .room
  else set (s.modTh (fun t => { t with vuq := t.vuq ++ [c] }))

/-- The checks of a vector instruction at issue (R230, R231, R237, R240, R243). -/
def vecChecks (i : Instr) : Sem Unit := do
  noTest
  let s ← get
  let t := s.th
  let fmt := bitsN t.vctl.toNat 10 8
  let r := vregsOf i
  if noStreams i && (t.bound r.d || t.bound r.a || t.bound r.b) then illegalOp
  if vecRounds i fmt && decide (5 ≤ t.rm) then illegalOp
  match i with
  | .vsf _ _ => if fmt = 6 then illegalOp
  | .vcvt _ dst => if !convOk fmt dst.toNat || dst = 2 || dst = 7 then illegalOp
  | .vred o _ => if o.d ≠ 58 ∧ o.d ≠ 59 then illegalOp
  | .vext o _ => if o.d ≠ 58 ∧ o.d ≠ 59 then illegalOp
  | .scfg o => if o.d.toNat < 28 ∨ 31 < o.d.toNat then illegalOp
  | _ => pure ()
  if vecStores i || t.bound r.d || t.bound r.a || t.bound r.b then irrevocable

/-- A thread issues its first vector instruction: the record's FRAME word says from now on that the vector extension is
present (R64); a speculative segment holds that write in its commit area (R65, R66), and at level F there is no record. -/
def needVx : Sem Unit := do
  let s ← get
  let t := s.th
  if t.vx then pure ()
  else
    let s := s.modTh (fun t => { t with vx := true })
    if t.level = .F then set s
    else match s.frameStore s.cur (t.record + 0x18) (t.frame + 1) with
      | .ok s => set s
      | .error c => set (s.frameFault s.cur ⟨c, t.record + 0x18⟩)

/-- Issues a vector instruction with its scalar sources and draws already taken. It captures RM, FMT, VL and the I4 table
as they are now (R226; for the table DESIGN CHOICE, log 80: R171 says so of FCVT and MAU commands alone). -/
def issueVec (i : Instr) (scalars : List (Nat × Word)) (draws : List Word) : Sem Unit := do
  let s ← get
  let t := s.th
  let k := s.myCore
  let c : VuCmd :=
    { ins := i, pc := s.pc, einfo := s.baseInfo, hasR := s.hasR, vl := bitsN t.vctl.toNat 6 0, fmt := bitsN t.vctl.toNat 10 8,
      rm := t.rm, tblA := k.tbl4a, tblB := k.tbl4b, level := t.level, scalars := scalars, draws := draws,
      issued := s.clk }
  if 5 ≤ t.rm then
    if s.vecUnsettled c then vuDone
    if s.vecConverts c then illegalOp
  needVx
  let s ← get
  if !s.th.stopped then enterVu c

/-- A vector instruction without scalar sources. -/
def vecPlain (i : Instr) (s : State) : Host.Outcome State Fault Refusal :=
  plain (do
    vecChecks i
    issueVec i [] []) s

/-- A vector instruction with one scalar source. -/
def vecOne (i : Instr) (r : Reg) (u : Bool) (s : State) : Host.Outcome State Fault Refusal :=
  plain (do
    vecChecks i
    let a ← vecScalar r
    killS r u
    issueVec i [a] []) s

/-- A vector instruction with two scalar sources. -/
def vecTwo (i : Instr) (r q : Reg) (u w : Bool) (s : State) : Host.Outcome State Fault Refusal :=
  plain (do
    vecChecks i
    let a ← vecScalar r
    let b ← vecScalar q
    killS r u
    killS q w
    issueVec i [a, b] []) s

/-- VADD (R231). -/
def execVadd (o : VBin) (s : State) : Host.Outcome State Fault Refusal := vecPlain (.vadd o) s
/-- VSUB (R231). -/
def execVsub (o : VBin) (s : State) : Host.Outcome State Fault Refusal := vecPlain (.vsub o) s
/-- VMUL (R231). -/
def execVmul (o : VBin) (s : State) : Host.Outcome State Fault Refusal := vecPlain (.vmul o) s
/-- VFMA (R231). -/
def execVfma (o : VBin) (s : State) : Host.Outcome State Fault Refusal := vecPlain (.vfma o) s
/-- VMAX (R231). -/
def execVmax (o : VBin) (s : State) : Host.Outcome State Fault Refusal := vecPlain (.vmax o) s
/-- VMIN (R231). -/
def execVmin (o : VBin) (s : State) : Host.Outcome State Fault Refusal := vecPlain (.vmin o) s
/-- VDIV (R231). -/
def execVdiv (o : VBin) (s : State) : Host.Outcome State Fault Refusal := vecPlain (.vdiv o) s
/-- VSF (R231, R232). -/
def execVsf (o : VUn) (f : BitVec 3) (s : State) : Host.Outcome State Fault Refusal := vecPlain (.vsf o f) s
/-- VCMP (R231). -/
def execVcmp (o : VBin) (c : BitVec 2) (s : State) : Host.Outcome State Fault Refusal := vecPlain (.vcmp o c) s
/-- VSEL (R231). -/
def execVsel (o : VBin) (s : State) : Host.Outcome State Fault Refusal := vecPlain (.vsel o) s
/-- VBCST (R231). -/
def execVbcst (o : VUn) (ua : Bool) (s : State) : Host.Outcome State Fault Refusal :=
  vecOne (.vbcst o ua) o.a ua s
/-- VRED (R235). -/
def execVred (o : VUn) (op : BitVec 2) (s : State) : Host.Outcome State Fault Refusal := vecPlain (.vred o op) s
/-- VCVT (R231). -/
def execVcvt (o : VUn) (dst : BitVec 3) (s : State) : Host.Outcome State Fault Refusal := vecPlain (.vcvt o dst) s
/-- VPERM (R231). -/
def execVperm (o : VBin) (s : State) : Host.Outcome State Fault Refusal := vecPlain (.vperm o) s
/-- VABS (R231). -/
def execVabs (o : VUn) (s : State) : Host.Outcome State Fault Refusal := vecPlain (.vabs o) s
/-- VSCAN (R235). -/
def execVscan (o : VUn) (op : BitVec 2) (s : State) : Host.Outcome State Fault Refusal := vecPlain (.vscan o op) s

/-- `n` generator outputs in order. -/
def drawN : Nat → Sem (List Word)
  | 0 => pure []
  | n + 1 => do
    let x ← draw
    let rest ← drawN n
    pure (x :: rest)

/-- VRAND: ⌈VL / 2⌉ outputs are taken at issue (R231). -/
def execVrand (d : Reg) (m : BitVec 3) (s : State) : Host.Outcome State Fault Refusal :=
  plain (do
    vecChecks (.vrand d m)
    let s ← get
    let xs ← drawN ((bitsN s.th.vctl.toNat 6 0 + 1) / 2)
    issueVec (.vrand d m) [] xs) s

/-- VLD (R237). -/
def execVld (o : VMem) (s : State) : Host.Outcome State Fault Refusal := vecOne (.vld o) o.base o.ub s
/-- VST (R237). -/
def execVst (o : VMem) (s : State) : Host.Outcome State Fault Refusal := vecOne (.vst o) o.base o.ub s
/-- VLDS (R237). -/
def execVlds (o : VMemT) (s : State) : Host.Outcome State Fault Refusal := vecTwo (.vlds o) o.base o.t o.ub o.ut s
/-- VSTS (R237). -/
def execVsts (o : VMemT) (s : State) : Host.Outcome State Fault Refusal := vecTwo (.vsts o) o.base o.t o.ub o.ut s
/-- VLDX (R237). -/
def execVldx (o : VMemT) (s : State) : Host.Outcome State Fault Refusal := vecOne (.vldx o) o.base o.ub s
/-- VSTX (R237). -/
def execVstx (o : VMemT) (s : State) : Host.Outcome State Fault Refusal := vecOne (.vstx o) o.base o.ub s
/-- VMSK (R237). -/
def execVmsk (o : VUn) (ua : Bool) (s : State) : Host.Outcome State Fault Refusal :=
  vecOne (.vmsk o ua) o.a ua s
/-- VEXT (R237). -/
def execVext (o : VBin) (ub : Bool) (s : State) : Host.Outcome State Fault Refusal :=
  vecOne (.vext o ub) o.b ub s
/-- VINS (R237). -/
def execVins (o : VBin) (ua ub : Bool) (s : State) : Host.Outcome State Fault Refusal :=
  vecTwo (.vins o ua ub) o.a o.b ua ub s

/-- SCFG: SB changes at issue; SCFG v, s0 unbinds (R233). -/
def execScfg (o : Un) (s : State) : Host.Outcome State Fault Refusal :=
  plain (do
    vecChecks (.scfg o)
    let a ← vecScalar o.a
    killS o.a o.ua
    let bit := 2 ^ (o.d.toNat - 28)
    modify (fun s => s.modTh (fun t =>
      { t with sb := if o.a = 0 then t.sb - (if t.sb &&& bit = 0 then 0 else bit) else t.sb ||| bit }))
    issueVec (.scfg o) [a] []) s

/-- A capture is open (R239). -/
def noCapture : Sem Unit := do
  let s ← get
  if s.th.capture.left ≠ 0 then illegalOp

/-- A scalar source of an instruction that acts at issue: the VU's ports are illegal here (R230). -/
def vecIssueScalar (r : Reg) (u : Bool) : Sem Word := do
  if 56 ≤ r.toNat then illegalOp
  Src1.read ⟨r, u⟩

/-- VCFG (R238). -/
def execVcfg (o : Un) (s : State) : Host.Outcome State Fault Refusal :=
  plain (do
    noCapture
    let a ← vecIssueScalar o.a o.ua
    let vl := bitsN a.toNat 6 0
    let f := bitsN a.toNat 10 8
    if vl = 0 ∨ (f ≠ 0 ∧ f ≠ 1 ∧ f ≠ 6) then writeS o.d 0
    else
      needVx
      modify (fun s => s.modTh (fun t => { t with vctl := putBits (putBits t.vctl 6 0 (min vl 64)) 10 8 f }))
      writeS o.d (BitVec.ofNat 64 (min vl 64))) s

/-- SSTAT (R236). -/
def execSstat (d v : Reg) (s : State) : Host.Outcome State Fault Refusal :=
  plain (do
    noTest
    noCapture
    let s ← get
    if s.th.bound (some v.toNat) then irrevocable
    syncVec
    needVx
    let s ← get
    let x := s.th.stream v.toNat
    writeS d (if x.bound then BitVec.ofNat 64 x.remaining else BitVec.ofNat 64 (2 ^ 64 - 1))) s

/-- REPV (R239): a capture opens for the next n vector instructions. -/
def execRepv (n : BitVec 4) (o : Src1) (stagger : Word) (m : BitVec 3) (s : State) :
    Host.Outcome State Fault Refusal :=
  plain (do
    noCapture
    let c ← vecIssueScalar o.a o.ua
    if 32 ≤ stagger.toNat then illegalOp
    let s ← get
    if s.th.capture.cmds ≠ [] then block .room
    needVx
    modify (fun s => s.modTh (fun t => { t with capture :=
      { left := n.toNat + 1, count := c.toNat % 2 ^ 16, stagger := stagger.toNat, mask := m.toNat } }))) s

end Sys2Proof.Machine
end

