-- ==== Sys2Proof/Machine/Vu.lean ====
section
/-! DEFINITION. The cluster's vector unit: the choice of heads (R226, R187), the execution of a vector
instruction with its streams and memory elements (R228 to R238), and vector faults (R241). -/

namespace Sys2Proof.Machine

/-- The element format of VCTL.FMT (R228). -/
def vFmt (f : Nat) : Fmt := fmtComp f
/-- The bits of an element that count. -/
def elemCode (f c : Nat) : Nat := if f = 1 then c % 2 ^ 16 else c % 2 ^ 32

def ofI32 (x : Int) : Nat := (BitVec.ofInt 32 x).toNat

/-! ### One element of an arithmetic instruction -/

/-- The arithmetic of INT32 (R228): it raises no flag. -/
def intOp (i : Instr) (a b d : Nat) : Nat :=
  match i with
  | .vadd _ => ofI32 (i32 a + i32 b)
  | .vsub _ => ofI32 (i32 a - i32 b)
  | .vmul _ => ofI32 (i32 a * i32 b)
  | .vfma _ => ofI32 (i32 a * i32 b + i32 d)
  | .vmax _ => if i32 a < i32 b then b else a
  | .vmin _ => if i32 b < i32 a then b else a
  | .vdiv _ => if b = 0 then 0xFFFFFFFF else ofI32 (Int.tdiv (i32 a) (i32 b))
  | .vabs _ => ofI32 ((i32 a).natAbs : Int)
  | _ => a

/-- One element of an instruction that works element by element (R231): the code and its flags. `sel` is the
mask bit of VSEL, `x` the scalar of VBCST. -/
def elemOp (c : VuCmd) (a b d : Nat) (sel : Bool) (x : Word) : Nat × Flags :=
  let f := vFmt c.fmt
  let t : Tbl4 := ⟨c.tblA, c.tblB⟩
  let va := f.decode t a
  let vb := f.decode t b
  match c.ins with
  | .vbcst _ _ => (x.toNat % 2 ^ 32, 0)
  | .vsel _ => (if sel then a else b, 0)
  | .vcvt _ dst => convElem c.fmt dst.toNat t c.rm a
  | .vsf _ k =>
    let r := special k.toNat va
    let q := f.round t c.rm r.1
    (q.1, q.2 ||| r.2)
  | i =>
    if c.fmt = 6 then (intOp i a b d, 0)
    else match i with
      | .vadd _ => realOp .add f c.rm va vb
      | .vsub _ => realOp .sub f c.rm va vb
      | .vmul _ => realOp .mul f c.rm va vb
      | .vdiv _ => realOp .div f c.rm va vb
      | .vfma _ => settle1 f c.rm (sumVals c.rm [va.mul vb, term (f.decode t d)])
      | .vmax _ => select1 f true a b
      | .vmin _ => select1 f false a b
      | .vabs _ => (a % 2 ^ (f.bits - 1), 0)
      | _ => (a, 0)

/-! ### Memory elements (R237, R438) -/

/-- Where an element lies and how it is stored there. -/
structure MemElem where
  ea : Word
  place : Place
  /-- Format in memory, and the nibble of an I4 element. -/
  fmt : Nat
  high : Bool
  deriving DecidableEq, Repr

/-- Checks element e from a base (R237, R438): R103 with the element's size, then its own format. Bytes of the side array
of a block-scaled window are decoded and encoded as elements (R176; DESIGN CHOICE, log 81). -/
def memElem (c : VuCmd) (base : Word) (e : Int) (outside : Nat) (store : Bool) : Sem MemElem := do
  let s ← get
  let g := s.fmtAt base outside
  let ea := s.elemAddr base e outside
  let n := memBytes g
  let p ← check (if store then .store n else .load n) ea
  let s ← get
  let f := s.fmtAt ea outside
  let ok := f == c.fmt || (if store then convOk c.fmt f else convOk f c.fmt)
  if memBytes f ≠ n || (f == 5) != (g == 5) || !ok then trap cILLEGAL ea
  pure ⟨ea, p, f, f == 5 && e % 2 != 0⟩

/-- `n` bytes at a place, for the VU: through the L1 as a load of the thread (R71, R72, R104, R243). An access to another
cluster's scratchpad is performed as the instruction completes, which is its arrival there (R227, R310). -/
def vuRead (p : Place) (ea : Word) (n : Nat) : Sem Nat := do
  let s ← get
  match p with
  | .tcm off =>
    unitFree off
    let s := s.tcmTouch s.cid off false
    set s
    refusePoison (s.tcmPoison s.cid off n)
    pure ((List.range n).foldr (fun i acc => (s.tcmByte s.cid (off + i)).toNat + 256 * acc) 0)
  | .spad cl off =>
    refusePoison (s.spadPoison cl off n)
    pure ((s.cluster cl).read off n)
  | .bank key => pure (readB s.myCluster.spad key n)
  | .chip pa =>
    match s.freshen (pa / 256) 5 with
    | .ok s' => set s'
    | .error f => trap f ea
    modify (fun s => s.l1Touch s.cid (pa / 64) false false)
    chipLoad pa n
  | .ctl cl off => pure (s.ctlRead cl off).toNat
  | .block q off => pure (s.blockRead q off).toNat

/-- The scale that a window adds to an element at an offset. -/
def State.memScale (s : State) (m : MemElem) : Int :=
  match m.place, s.winOf m.ea with
  | .spad cl off, some (_, w) => w.scale + (s.cluster cl).winBE w ((w.elemAt (off - w.base)).1 + b2n m.high)
  | _, _ => 0

/-- A conversion under the thread's mode with RM 5 to 7 that was not known at issue is refused (R161; log 88). -/
def vuMode (c : VuCmd) (src dst : Nat) (scaled : Bool) : Sem Unit :=
  if decide (5 ≤ c.rm) && modeUsed src dst scaled then trap cILLEGAL c.einfo else pure ()

/-- Reads an element as a code of VCTL.FMT (R176, R438): equal formats without scale move bits, with a scale they are
scaled and rounded under the thread's mode (DESIGN CHOICE, log 82). -/
def memRead (c : VuCmd) (m : MemElem) : Sem Nat := do
  let v ← vuRead m.place m.ea (memBytes m.fmt)
  let s ← get
  let raw := if m.fmt = 5 then (if m.high then v / 16 % 16 else v % 16) else v % 2 ^ fmtBits m.fmt
  let k := s.memScale m
  if m.fmt = c.fmt ∧ k = 0 then pure raw
  else
    vuMode c m.fmt c.fmt (k != 0)
    let t : Tbl4 := ⟨c.tblA, c.tblB⟩
    let r := (vFmt c.fmt).round t c.rm (((fmtComp m.fmt).decode t raw).scale k)
    flags r.2
    pure r.1

/-- The bits of byte `k` of a place that the running vector instruction may still write: those that no later scalar store of
the thread has taken (R309). -/
def State.vuBits (s : State) (p : Place) (k : Nat) (mask : Byte) : Byte :=
  match p.code s.cid with
  | some c => mask &&& ~~~(s.th.storedAfter ((s.th.vuq.head?.map (fun x => x.issued)).getD s.clk) (c + k))
  | none => mask

/-- Writes bits of an element outside the block-scaled windows. -/
def vuWrite (m : MemElem) (raw : Nat) : Sem Unit := do
  let n := memBytes m.fmt
  let mask : Byte := if m.fmt = 5 then (if m.high then 0xF0 else 0x0F) else 0xFF
  let new : Nat := if m.fmt = 5 then raw % 16 * 17 else raw
  let s ← get
  let byte (k : Nat) : Byte := BitVec.ofNat 8 (new / 256 ^ k)
  let mix (k : Nat) (old : Byte) : Byte :=
    let b := s.vuBits m.place k mask
    (old &&& ~~~b) ||| (byte k &&& b)
  let merged (old : Nat → Byte) : Nat := (List.range n).foldr (fun k v => (mix k (old k)).toNat + 256 * v) 0
  match m.place with
  | .tcm off =>
    unitFree off
    let s := s.tcmTouch s.cid off true
    set (s.tcmWrite s.cid off n (merged (fun k => s.tcmByte s.cid (off + k))))
  | .spad cl off =>
    set (s.spadWrite cl off n (merged (fun k => BitVec.ofNat 8 ((s.cluster cl).read (off + k) 1))))
  | .chip pa =>
    bufferCells pa ((List.range n).map (fun k => (pa + k, byte k, s.vuBits m.place k mask))) []
  | _ => pure ()

/-- A block-scaled element whose write waits for the whole instruction (R234): cluster, window, number, value. -/
abbrev Deferred := List (Nat × Win × Nat × Val)

/-- Writes a code of VCTL.FMT to an element; one of a block-scaled window is deferred. Equal formats move bits, with a
scale they are scaled and rounded under the thread's mode (DESIGN CHOICE, log 82). -/
def memWrite (c : VuCmd) (m : MemElem) (code : Nat) : Sem Deferred := do
  let s ← get
  let t : Tbl4 := ⟨c.tblA, c.tblB⟩
  let v := (vFmt c.fmt).decode t code
  match m.place, s.winOf m.ea with
  | .spad cl off, some (_, w) =>
    if w.bs then
      vuMode c c.fmt m.fmt true
      pure [(cl, w, (w.elemAt (off - w.base)).1 + b2n m.high, v)]
    else if m.fmt = c.fmt ∧ w.scale = 0 then
      vuWrite m code
      pure []
    else
      vuMode c c.fmt m.fmt (w.scale != 0)
      let r := (fmtComp m.fmt).round t c.rm (v.scale (-w.scale))
      flags r.2
      vuWrite m r.1
      pure []
  | _, _ =>
    if m.fmt = c.fmt then
      vuWrite m code
      pure []
    else
      vuMode c c.fmt m.fmt false
      let r := (fmtComp m.fmt).round t c.rm v
      flags r.2
      vuWrite m r.1
      pure []

/-- Performs the deferred elements: each window's whole blocks choose a block exponent (R176, R234). -/
def flushDeferred (c : VuCmd) (ds : Deferred) : Sem Unit := do
  let t : Tbl4 := ⟨c.tblA, c.tblB⟩
  let wins := (ds.map (fun x => (x.1, x.2.1))).eraseDups
  wins.forM (fun (cl, w) => do
    let vs := (ds.filter (fun x => x.1 == cl && x.2.1 == w)).map (fun x => (x.2.2.1, (x.2.2.2, Val.fin false 0 0)))
    let s ← get
    let r := s.winWrite cl w t (w.enc t c.rm) vs
    set r.1
    flags r.2)

/-! ### Registers after stagger (R239) -/

/-- The v registers of an execution: fields selected by the stagger mask are moved on by `shift`. -/
def VuCmd.regs (c : VuCmd) : VRegs :=
  let r := vregsOf c.ins
  let up (on : Bool) (n : Option Nat) : Option Nat := n.map (fun k => if on then (k + c.shift) % 32 else k)
  let sd := c.sel.testBit 2
  let ss := c.sel.testBit 1
  let st := c.sel.testBit 0
  if r.single then { r with d := up sd r.d, a := up (if c.hasR then st else ss) r.a }
  else match c.ins with
    | .vldx _ | .vstx _ => { r with d := up sd r.d, b := up st r.b }
    | .vext _ _ => { r with a := up ss r.a }
    | _ => if c.hasR then { r with d := up sd r.d, a := up ss r.a, b := up st r.b }
           else { r with d := up sd r.d, a := up sd r.a, b := up ss r.b }

/-! ### Execution -/

/-- The scalar source k of a command, popped or read. -/
def VuCmd.scalar (c : VuCmd) (k : Nat) : Word := (c.scalars.getD k (0, 0)).2

/-- Is a v register bound to a stream as the VU executes? -/
def Thread.streamOf (t : Thread) (n : Option Nat) : Option (Nat × Stream) :=
  match n with
  | some k => if (t.stream k).bound then some (k, t.stream k) else none
  | none => none

/-- The element at position `p` of a stream, checked. -/
def streamElem (c : VuCmd) (x : Stream) (p : Nat) (store : Bool) : Sem MemElem :=
  memElem c x.base (x.elem p) x.fmt store

/-- Checks every active element of a stream from its position on, before anything moves (R438). -/
def streamCheck (c : VuCmd) (x : Stream) (n : Nat) (act : Nat → Bool) : Sem Unit :=
  (List.range n).forM (fun j =>
    if act (j % 16) then do
      let _ ← streamElem c x (x.pos + j) x.output
      pure ()
    else pure ())

/-- An operand at element i of a slice that starts at stream element `at_`: a register's element i, or the
stream's next one. -/
def operandAt (c : VuCmd) (n : Option Nat) (at_ i : Nat) : Sem Nat := do
  let s ← get
  match n, s.th.streamOf n with
  | _, some (_, x) => do
    let m ← streamElem c x (x.pos + at_ + i) false
    memRead c m
  | some k, none => pure (elemCode c.fmt (s.th.v k i))
  | none, none => pure 0

/-- Writes element i of the destination. -/
def destAt (c : VuCmd) (n : Option Nat) (at_ i code : Nat) : Sem Deferred := do
  let s ← get
  match n, s.th.streamOf n with
  | _, some (_, x) => do
    let m ← streamElem c x (x.pos + at_ + i) true
    memWrite c m code
  | some k, none => do
    set (s.modTh (fun t => t.setV k i code))
    pure []
  | none, none => pure []

/-- The slices of one instruction: each one's first element of the streams, and its elements. Without streams there is one
slice of VL elements (R229, R234). -/
def vecSlices (c : VuCmd) (streams : Bool) (n : Nat) : List (Nat × List Nat) :=
  if streams then (List.range ((n + 15) / 16)).map (fun j => (16 * j, List.range (min 16 (n - 16 * j))))
  else [(0, List.range c.vl)]

/-- The bound operands in the order s, t, d (R234). -/
def Thread.streamsIn (t : Thread) (c : VuCmd) (r : VRegs) : List (Nat × Stream) :=
  let src := if !c.hasR && !r.single && r.b.isSome then [r.b] else [r.a, r.b]
  ((src ++ [r.d]).filterMap (fun n => t.streamOf n)).eraseDups

/-- The bound operands and the checks of R234: the element count. -/
def streamsOf (c : VuCmd) (r : VRegs) : Sem (List (Nat × Stream) × Nat) := do
  let s ← get
  let t := s.th
  let xs := t.streamsIn c r
  match xs with
  | [] => pure ([], 0)
  | x :: _ =>
    if noStreams c.ins then trap cILLEGAL c.einfo
    let n := x.2.remaining
    match xs.find? (fun y => y.2.remaining < n) with
    | some y => trap cSTREAM (BitVec.ofNat 64 y.1)
    | none => pure ()
    let dIn := match t.streamOf r.d with
      | some y => !y.2.output
      | none => false
    let rd := [r.a, r.b] ++ (if r.readsD then [r.d] else [])
    if dIn || rd.any (fun k => match t.streamOf k with
        | some y => y.2.output
        | none => false) then trap cILLEGAL c.einfo
    pure (xs, n)

/-- Every stream moves on by the elements of the instruction. -/
def advanceStreams (xs : List (Nat × Stream)) (n : Nat) : Sem Unit :=
  modify (fun s => s.modTh (fun t => xs.foldl (fun (t : Thread) x =>
    t.setStream x.1 { t.stream x.1 with pos := x.2.pos + n }) t))

/-- An instruction that works element by element (R231, R234): of each slice the inputs are read, then the outputs are
written. -/
def vecElementwise (c : VuCmd) : Sem Unit := do
  let r := c.regs
  let (xs, n) ← streamsOf c r
  let s ← get
  let mk := maskOf c.ins
  let m := (s.th.mask mk).toNat
  let isSel := match c.ins with
    | .vsel _ => true
    | _ => false
  let act (i : Nat) : Bool := isSel || m.testBit i
  xs.forM (fun x => streamCheck c x.2 n act)
  let ds ← (vecSlices c (xs ≠ []) n).foldlM (fun (ds : Deferred) (q : Nat × List Nat) => do
    let ys ← (q.2.filter act).mapM (fun i => do
      let a ← operandAt c r.a q.1 i
      let b ← operandAt c r.b q.1 i
      let d ← if r.readsD then operandAt c r.d q.1 i else pure 0
      let y := elemOp c a b d (m.testBit i) (c.scalar 0)
      flags y.2
      pure (i, y.1))
    ys.foldlM (fun (ds : Deferred) (y : Nat × Nat) => do
      let more ← destAt c r.d q.1 y.1 y.2
      pure (ds ++ more)) ds) []
  flushDeferred c ds
  advanceStreams xs n

/-- The pushed value of VRED or the running value of VSCAN over some elements (R235). -/
def redValue (c : VuCmd) (op : Nat) (codes : List Nat) (scan : Bool) : Nat × Flags :=
  let f := vFmt c.fmt
  let t : Tbl4 := ⟨c.tblA, c.tblB⟩
  -- a VRED pushes FP32 values for BF16 elements
  let wide (x : Nat) : Nat := if c.fmt = 1 && !scan then x * 2 ^ 16 else x
  match op with
  | 0 =>
    if c.fmt = 6 then (ofI32 (satW 32 (codes.foldl (fun (z : Int) x => z + i32 x) 0)), 0)
    else if codes = [] then (0, 0)
    else (if c.fmt = 1 && !scan then Fmt.fp32 else f).roundInv t c.rm (sumVals c.rm (codes.map (fun x => term (f.decode t x))))
  | k =>
    let isMax := k == 1
    match codes with
    | [] => if c.fmt = 6 then (if isMax then 0x80000000 else 0x7FFFFFFF, 0)
            else (if isMax then 0xFF800000 else 0x7F800000, 0)
    | x :: rest =>
      let r := rest.foldl (fun (z : Nat × Flags) y =>
        if c.fmt = 6 then (if isMax then (if i32 z.1 < i32 y then y else z.1) else (if i32 y < i32 z.1 then y else z.1), 0)
        else
          let q := select1 f isMax z.1 y
          (q.1, z.2 ||| q.2)) (if c.fmt = 6 then (x, 0) else select1 f isMax x x)
      (wide r.1, r.2)

/-- The checks of every active stream element of VRED or VSCAN (R234, R438). -/
def redCheck (c : VuCmd) (xs : List (Nat × Stream)) (n : Nat) : Sem Unit := do
  let s ← get
  let m := (s.th.mask (maskOf c.ins)).toNat
  xs.forM (fun x => streamCheck c x.2 n (fun i => m.testBit i))

/-- The active source elements of one slice, in order (R234, R235). -/
def redSlice (c : VuCmd) (r : VRegs) (q : Nat × List Nat) : Sem (List (Nat × Nat)) := do
  let s ← get
  let m := (s.th.mask (maskOf c.ins)).toNat
  (q.2.filter (fun i => m.testBit i)).mapM (fun i => do
    let a ← operandAt c r.a q.1 i
    pure (i, a))

/-- A result goes to q2 or q3, which must have room; it can be popped from the next clk on (R67, R227). -/
def vuPush (port : Nat) (v : Word) : Sem Unit := do
  let s ← get
  match s.pushPort port v with
  | some s' => set (s'.modTh (fun t => { t with pushAt := some (port, s.clk) }))
  | none => block (.port port)

/-- VRED (R235): the value goes to q2 or q3, which must have room. -/
def vecRed (c : VuCmd) (port op : Nat) : Sem Unit := do
  let r := c.regs
  let (xs, n) ← streamsOf c r
  redCheck c xs n
  let ins ← (vecSlices c (xs ≠ []) n).mapM (redSlice c r)
  let y := redValue c op (ins.flatMap (fun x => x.map (fun y => y.2))) false
  flags y.2
  advanceStreams xs n
  vuPush port (BitVec.ofNat 64 y.1)

/-- VSCAN (R235): each active element receives the value over the active ones up to it, across slices. -/
def vecScan (c : VuCmd) (op : Nat) : Sem Unit := do
  let r := c.regs
  let (xs, n) ← streamsOf c r
  redCheck c xs n
  let r2 ← (vecSlices c (xs ≠ []) n).foldlM (fun (acc : List Nat × Deferred) q => do
    let ins ← redSlice c r q
    let ys := (List.range ins.length).map (fun j =>
      let x := ins.getD j (0, 0)
      (x.1, redValue c op (acc.1 ++ (ins.take (j + 1)).map (fun z => z.2)) true))
    let ds ← ys.foldlM (fun (ds : Deferred) y => do
      flags y.2.2
      let more ← destAt c r.d q.1 y.1 y.2.1
      pure (ds ++ more)) acc.2
    pure (acc.1 ++ ins.map (fun x => x.2), ds)) ([], [])
  flushDeferred c r2.2
  advanceStreams xs n

/-- VLD to VSTX (R237): every active element is checked before any access. -/
def vecMemory (c : VuCmd) (off : Word) (index : Nat → Int) (store : Bool) : Sem Unit := do
  let r := c.regs
  let (_, _) ← streamsOf c r
  let s ← get
  let base := c.scalar 0 + off
  let m := (s.th.mask (maskOf c.ins)).toNat
  let t := s.th
  let items := (List.range c.vl).filter (fun i => m.testBit i)
  let es ← items.mapM (fun i => do
    let e ← memElem c base (index i) c.fmt store
    pure (i, e))
  let d := r.d.getD 0
  if store then
    let ds ← es.foldlM (fun (ds : Deferred) (x : Nat × MemElem) => do
      let more ← memWrite c x.2 (elemCode c.fmt (t.v d x.1))
      pure (ds ++ more)) []
    flushDeferred c ds
  else
    let vs ← es.mapM (fun x => do
      let v ← memRead c x.2
      pure (x.1, v))
    modify (fun s => s.modTh (fun t => vs.foldl (fun (t : Thread) x => t.setV d x.1 x.2) t))

/-- The element of VRAND from its draws (R231). -/
def randElem (fmt : Nat) (draws : List Word) (i : Nat) : Nat :=
  let out := (draws.getD (i / 2) 0).toNat
  let hi := i % 2 = 0
  match fmt with
  | 0 => unitCode .fp32 (if hi then bitsN out 63 40 else bitsN out 31 8) 24
  | 1 => unitCode .bf16 (if hi then bitsN out 63 56 else bitsN out 31 24) 8
  | _ => if hi then bitsN out 63 32 else bitsN out 31 0

/-- Doubleword k of a stream descriptor, read as a load of 8 bytes is, aligned to 8 (DESIGN CHOICE, log 106); a fault of
R103 names the descriptor (R233). -/
def descWord (a : Word) (k : Nat) : Sem Word := fun s =>
  let ea := a + BitVec.ofNat 64 (8 * k)
  match (do let p ← check (.load 8) ea; vuRead p ea 8) s with
  | .ok v s => .ok (BitVec.ofNat 64 v) s
  | .error (.trap f) s => .error (.trap (if f.cause = cMCHECK then f else ⟨f.cause, a⟩)) s
  | .error e s => .error e s

/-- SCFG as the VU executes it: the descriptor's 32 bytes are read (R233). One that faults, or is discarded, leaves the VU's
stream as it was, and VCTL.SB as the issue has set it (DESIGN CHOICE, log 107). -/
def vecScfg (c : VuCmd) (unbind : Bool) : Sem Unit := do
  let k := c.regs.d.getD 0
  if k < 28 ∨ 31 < k then trap cILLEGAL c.einfo
  if unbind then modify (fun s => s.modTh (fun t => t.setStream k {}))
  else
    modify (fun s => s.modTh (fun t => t.setStream k { bound := true }))
    let a := c.scalar 0
    let w0 ← descWord a 0
    let w1 ← descWord a 1
    let w2 ← descWord a 2
    let w3 ← descWord a 3
    let x : Stream := { bound := true, base := w0, bounds := w1, strides := w2, ctl := w3 }
    let s ← get
    if (x.fmt = 2 ∨ x.fmt = 7) && (s.winOf x.base).isNone then trap cILLEGAL a
    set (s.modTh (fun t => t.setStream k x))

/-- What a vector instruction does (R231 to R238). -/
def vecBody (c : VuCmd) : Sem Unit := do
  let r := c.regs
  match c.ins with
  | .vcmp o cc => do
    let (_, _) ← streamsOf c r
    let s ← get
    let t := s.th
    let m := (t.mask (maskOf c.ins)).toNat
    let f := vFmt c.fmt
    let rs := (List.range c.vl).filter (fun i => m.testBit i) |>.map (fun i =>
      let a := elemCode c.fmt (t.v (r.a.getD 0) i)
      let b := elemCode c.fmt (t.v (r.b.getD 0) i)
      (i, if c.fmt = 6 then
          ((match cc.toNat with
            | 0 => i32 a == i32 b
            | 1 => decide (i32 a < i32 b)
            | 2 => decide (i32 a ≤ i32 b)
            | _ => false), (0 : Flags))
        else condVal cc.toNat (f.decode ⟨0, 0⟩ a) (f.decode ⟨0, 0⟩ b)))
    flags (rs.foldl (fun x y => x ||| y.2.2) 0)
    let w := rs.foldl (fun w y => w + b2n y.2.1 * 2 ^ y.1) 0
    modify (fun s => s.modTh (fun t => { t with masks := smSet 0 t.masks o.d.toNat (BitVec.ofNat 64 w) }))
  | .vperm _ => do
    let (_, _) ← streamsOf c r
    let s ← get
    let t := s.th
    let m := (t.mask (maskOf c.ins)).toNat
    let vs := ((List.range c.vl).filter (fun i => m.testBit i)).map (fun i =>
      let j := t.v (r.b.getD 0) i
      (i, if j < 64 then elemCode c.fmt (t.v (r.a.getD 0) j) else 0))
    modify (fun s => s.modTh (fun t => vs.foldl (fun (t : Thread) x => t.setV (r.d.getD 0) x.1 x.2) t))
  | .vrand _ _ => do
    let (_, _) ← streamsOf c r
    modify (fun s =>
      let m := (s.th.mask (maskOf c.ins)).toNat
      s.modTh (fun t => ((List.range c.vl).filter (fun i => m.testBit i)).foldl (fun (t : Thread) i =>
        t.setV (r.d.getD 0) i (randElem c.fmt c.draws i)) t))
  | .vred o op => vecRed c o.d.toNat op.toNat
  | .vscan _ op => vecScan c op.toNat
  | .vld _ | .vst _ | .vlds _ | .vsts _ | .vldx _ | .vstx _ => do
    let s ← get
    match vecAccess c s.th r.b with
    | some (off, index, store) => vecMemory c off index store
    | none => pure ()
  | .vmsk o _ => modify (fun s => s.modTh (fun t =>
      { t with masks := smSet 0 t.masks o.d.toNat (c.scalar 0 &&& t.mask (maskOf c.ins)) }))
  | .vext o _ => do
    let (_, _) ← streamsOf c r
    let s ← get
    let i := (c.scalar 0).toNat % 64
    let act := decide (i < c.vl) && (s.th.mask (maskOf c.ins)).toNat.testBit i
    vuPush o.d.toNat (BitVec.ofNat 64 (if act then s.th.v (r.a.getD 0) i else 0))
  | .vins _ _ _ => do
    let (_, _) ← streamsOf c r
    modify (fun s =>
      let i := (c.scalar 1).toNat % 64
      let act := decide (i < c.vl) && (s.th.mask (maskOf c.ins)).toNat.testBit i
      if act then s.modTh (fun t => t.setV (r.d.getD 0) i ((c.scalar 0).toNat % 2 ^ 32)) else s)
  | .scfg o => vecScfg c (o.a == 0)
  | _ => vecElementwise c

/-! ### Timing and completion -/

/-- The latency of a load at an address (R60, R106). -/
def State.latency (s : State) (lv : Level) (ea : Word) : Nat :=
  let line (l : Nat) (tcm : Bool) : Nat := if s.myCore.hasLine l tcm then 4 else s.missClk s.cid l
  match regionOf ea with
  | .tcm off => if off < s.myCore.tcmUnits * 0x10000 then 2 else line (overflowLine s.cid off) true
  | .own _ => 6
  | .cluster k _ => 20 + 2 * meshHops s.kid k
  | .chip => match s.xlate s.th.part lv .load ea with
    | .ok pa => line (pa / 64) false
    | .error _ => 0
  | .bad => 0

/-- The slices of the running thread's command, on the elements of its first stream or on VL (R227, R234). -/
def State.vecCount (s : State) (c : VuCmd) : Nat :=
  let n := match s.th.streamsIn c c.regs with
    | [] => c.vl
    | x :: _ => x.2.remaining
  let per := if c.fmt = 1 then 32 else 16
  (n + per - 1) / per

/-- The time of the running thread's command (R227), on the elements of its first stream or on VL (R234). The first
element of a memory instruction is its first active one. What a stream adds is the latency of its first element, and a
clock for every 64 bytes over one a slice. -/
def State.vecTime (s : State) (c : VuCmd) : Nat :=
  let r := c.regs
  let xs := s.th.streamsIn c r
  let n := match xs with
    | [] => c.vl
    | x :: _ => x.2.remaining
  let k := s.vecCount c
  let m := (s.th.mask (maskOf c.ins)).toNat
  let first : Nat := match vecAccess c s.th r.b, (List.range c.vl).find? (fun i => m.testBit i) with
    | some (off, index, _), some i => s.latency c.level (s.elemAddr (c.scalar 0 + off) (index i) c.fmt)
    | _, _ => 0
  let streams := xs.foldl (fun (w : Nat) x =>
    let a := s.elemAddr x.2.base (x.2.elem x.2.pos) x.2.fmt
    let bytes := n * memBytes (s.fmtAt x.2.base x.2.fmt)
    max w ((if x.2.output then 0 else s.latency c.level a) + ((bytes + 63) / 64 - k))) 0
  streams + match c.ins with
    | .vdiv _ | .vsf _ _ => 12 + 4 * k
    | .vred _ _ | .vscan _ _ => 8 + k
    | .vld _ | .vst _ => 2 + k + first
    | .vlds _ | .vsts _ | .vldx _ | .vstx _ => 2 + c.vl + first
    | .vext _ _ | .vins _ _ _ | .vmsk _ _ => 4
    | .scfg o => if o.a = 0 then 4 else 4 + s.latency c.level (c.scalar 0)
    | _ => 4 + k

/-- A vector fault: pending for its thread, the first one kept (R241). -/
def Thread.vecFault (t : Thread) (f : Flt) (pc : Word) : Thread :=
  { t with pendVec := t.pendVec <|> some (f, pc) }

/-- The head of a VU queue leaves; a capture that waits for room goes on. With the queue empty no later scalar store has to
be kept in mind (R309). -/
def Thread.vuPop (t : Thread) : Thread :=
  let t := { t with vuq := t.vuq.drop 1, vuWait := none }.feed
  if t.vuq = [] then { t with stored := [] } else t

/-- A vector instruction that was queued before a segment began belongs to the state that its re-run starts from, with the
flags `f` that it has raised (R316). -/
def State.keepVec (s : State) (tid : Nat) (c : VuCmd) (f : Word) : State :=
  { s with snaps := s.snaps.map (fun x =>
      if x.1 = tid ∧ x.2.vuq.any c.same then
        let t := s.thread tid
        (x.1, { x.2 with
          vuq := x.2.vuq.filter (fun y => !(c.same y)), vregs := t.vregs, masks := t.masks, q2 := t.q2, q3 := t.q3,
          str28 := t.str28, str29 := t.str29, str30 := t.str30, str31 := t.str31, pendVec := t.pendVec,
          fctl := x.2.fctl ||| f })
      else x) }

/-- VU_INSTRUCTION_COMPLETE (R226, R227, R241): the instruction has its effect at the level it was issued at;
one that waits for a recompute, for commit room or for a full port is tried again. -/
def execVuInstructionComplete (s : State) : Host.Outcome State Fault Refusal :=
  event (fun s =>
    let tid := s.ev.tid
    match (s.thread tid).vuq with
    | c :: _ =>
      if !(c.running && c.started == s.ev.since) then s
      else
        let lv := (s.thread tid).level
        let old := (s.thread tid).fctl
        let s0 := { s with cur := tid }.modThread tid (fun t => { t with level := c.level, fctl := t.fctl &&& 0xE0 })
        match vecBody c s0 with
        | .ok _ s1 =>
          let f := (s1.thread tid).fctl &&& 0x1F
          (s1.modThread tid (fun t => { t with level := lv, fctl := old ||| f }.vuPop)).keepVec tid c f
        | .error (.trap f) _ => (s.modThread tid (fun t => (t.vecFault f c.pc).vuPop)).keepVec tid c 0
        | .error (.pending _ f) _ => (s.modThread tid (fun t => (t.vecFault f c.pc).vuPop)).keepVec tid c 0
        | .error (.block w) _ =>
          let s := match w with
            | .stale line => s.startRecompute line
            | .commit => s.post 0 .segmentCommitComplete { tid := tid }
            | _ => s
          s.post 1 .vuInstructionComplete s.ev
    | [] => s) s

/-! ### Start -/

/-- A head that may start now: the thread's stores to other clusters' scratchpads have arrived (R243, R310). -/
def State.vuReady (s : State) (tid : Nat) : Bool :=
  let t := s.thread tid
  match t.vuq with
  | c :: _ => !c.running && decide (c.issued < s.clk) && (t.vuPorts c).isNone && t.meshOut == 0
  | [] => false

/-- A head that waits for an entry of q0 or q1. -/
def State.vuStarved (s : State) (tid : Nat) : Option Nat :=
  let t := s.thread tid
  match t.vuq with
  | c :: _ => if c.running then none else t.vuPorts c
  | [] => none

/-- The lane groups of a cluster that are busy. -/
def State.groupsBusy (s : State) (cl : Nat) : Nat :=
  ((List.range 32).filter (fun j => match (s.thread (32 * cl + j)).vuq with
    | c :: _ => c.running
    | [] => false)).length

/-- The weighted round robin of R187 over `n` queues: the chosen one, the new credits and pointer. -/
def wrr (n ptr : Nat) (ready : Nat → Bool) (weight : Nat → Nat) (credit : SMap Nat) : Option (Nat × SMap Nat × Nat) :=
  let e := (List.range n).filter ready
  if e = [] then none
  else
    let credit := if e.all (fun q => smGet 0 credit q == 0) then
        (List.range n).foldl (fun c q => smSet 0 c q (weight q)) credit else credit
    match ((List.range n).map (fun j => (ptr + j) % n)).find? (fun q => ready q && smGet 0 credit q != 0) with
    | some q => some (q, smSet 0 credit q (smGet 0 credit q - 1), (q + 1) % n)
    | none => none

/-- The VU weight of a slot (R226). -/
def State.vuWeight (s : State) (tid : Nat) : Nat :=
  let t := s.thread tid
  if t.vuq = [] then 1
  else match s.launchOf t with
    | some l => l.vshare
    | none => 1

/-- Starts the head of a thread on a lane group; one of a thread with a pending vector fault is discarded with
its pops (R241). -/
def State.vuStart (s : State) (tid : Nat) : State :=
  let t := s.thread tid
  match t.vuq with
  | c :: rest =>
    let (t, xs) := t.vuTake c.scalars
    if t.pendVec.isSome then s.setThread tid t.vuPop
    else
      let c := { c with scalars := xs, running := true, started := s.clk }
      ((s.work ({ s with cur := tid }.vecCount c) Config.sliceWeight).setThread tid { t with vuq := c :: rest, vuWait := none }).post ({ s with cur := tid }.vecTime c)
        .vuInstructionComplete { tid := tid, since := s.clk }
  | [] => s

/-- Fills the free lane groups of a cluster. -/
def State.vuFill (s : State) (cl : Nat) : Nat → State
  | 0 => s
  | n + 1 =>
    if 8 ≤ s.groupsBusy cl then s
    else
      let k := s.cluster cl
      match wrr 32 k.vuPtr (fun j => s.vuReady (32 * cl + j)) (fun j => s.vuWeight (32 * cl + j)) k.vuCredit with
      | none => s
      | some (j, credit, ptr) =>
        ((s.setCluster cl { k with vuCredit := credit, vuPtr := ptr }).vuStart (32 * cl + j)).vuFill cl n

/-- VU_INSTRUCTION_START (R226): free lane groups take heads; a head that lacks its q0 or q1 entry waits (R67). -/
def execVuInstructionStart (s : State) : Host.Outcome State Fault Refusal :=
  event (fun s =>
    let cl := s.ev.cl
    let s := s.vuFill cl 32
    (List.range 32).foldl (fun (s : State) j =>
      let tid := 32 * cl + j
      match s.vuStarved tid, (s.thread tid).vuWait with
      | some _, none => (s.modThread tid (fun t => { t with vuWait := some s.clk })).post (2 ^ 24)
          .vuPopStallTimeout { tid := tid, since := s.clk }
      | _, _ => s) s) s

/-- VU_POP_STALL_TIMEOUT (R67, R241): QUEUE_STALL with the port; nothing is popped. -/
def execVuPopStallTimeout (s : State) : Host.Outcome State Fault Refusal :=
  event (fun s =>
    let tid := s.ev.tid
    let t := s.thread tid
    match t.vuq, s.vuStarved tid with
    | c :: _, some p =>
      if t.vuWait = some s.ev.since then
        s.setThread tid (t.vecFault ⟨cQSTALL, BitVec.ofNat 64 p⟩ c.pc).vuPop
      else s
    | _, _ => s) s

/-- Has a cluster's VU something to do now? -/
def State.vuBusy (s : State) (cl : Nat) : Bool :=
  (List.range 32).any (fun j =>
    let tid := 32 * cl + j
    (s.vuReady tid && decide (s.groupsBusy cl < 8)) ||
    ((s.vuStarved tid).isSome && (s.thread tid).vuWait.isNone))

end Sys2Proof.Machine
end

