-- ==== Sys2Proof/Machine/Mau.lean ====
section
/-! DEFINITION. The MAU's queues (R185 to R188): which head may start, the start and the completion of commands
(R138 to R142, R189, R190, R206), exchanges of spread bits (R149, R150). -/

namespace Sys2Proof.Machine

/-! ### Exchanges (R149) -/

/-- Halts a command on an active field: HALTED is set, BUSY goes with its end (R142, R150). -/
def State.haltField (s : State) (c : MauCmd) (xcopy : Bool) : State :=
  match c.held with
  | pa :: _ =>
    let d := Desc.ofNat (s.pread pa 64)
    if d.active then s.putShift pa (d.withBits true true true xcopy) else s
  | [] => s

/-- FLXCH's checks (R149): the two physical bits. BIT is 0 for reason 8, which concerns the two together (R144; DESIGN
CHOICE, log 79). -/
def State.xchCheck (s : State) (c : MauCmd) : Except Flt (Nat × Nat) := do
  let h := c.arg 0
  let x := (c.arg 1).toNat
  let r := c.arg 2
  let (d, _) ← s.cmdDesc c h
  let (a, b) := (bitsN x 5 0, bitsN x 13 8)
  if bitsN x 63 14 ≠ 0 || bitsN x 7 6 ≠ 0 then throw (badField 6 h)
  if d.n ≤ a then throw (badField 6 h a)
  if d.n ≤ b then throw (badField 6 h b)
  if s.isBound c.part h.toNat d then throw (badField 9 h)
  if d.mapBit a < d.l ∨ d.l ≤ d.mapBit b then throw (badField 8 h)
  if r.toNat % 64 ≠ 0 || regionOf r != .chip then throw (badField 13 h)
  pure (d.mapBit a, d.mapBit b)

/-- The issuer's own buffered STX to elements that leave by its exchange are performed as the exchange starts: they fall
before it (R141; DESIGN CHOICE, log 87). -/
def State.sendOwn (s : State) (c : MauCmd) (d : Desc) (pa pl : Nat) (v : Bool) : State :=
  let xs := (s.thread c.tid).leaving pa (some (pl, v))
  let held := (s.thread c.tid).entries.flatMap (fun e => match e with
    | .store _ cs _ _ => cs
    | _ => [])
  let cs := (xs.flatMap (fun x => elemCells d x.q x.pa x.code)).filter (heldIn held)
  let s := if cs = [] then s else s.homeWrite (s.writerOf c.tid) (s.settleCells cs)
  s.moveStores c d pa (fun p => if p.testBit pl != v then none else some p) (xs.map (fun x => x.q))

/-- The packets of the send phase: each local element that leaves, at its place in the partner's area, for which the device
takes its own r (R149; PRESUMED, log 96). -/
def xchPackets (c : MauCmd) (d : Desc) (pl : Nat) (v : Bool) (partner : Nat) : Eng (List Packet) := do
  let ps := (List.range (2 ^ d.l)).filter (fun p => p.testBit pl != v)
  ps.mapM (fun p => do
    let code ← fieldRd c d p
    let i := dropBit p pl
    let n := if d.fmt = 5 then 0 else d.size
    let w := if d.fmt = 5 then code + i % 2 * 16 else code
    let mark := 2 ^ 63 + n * 2 ^ 58 + c.id % 2 ^ 32 * 2 ^ 26 + c.cid * 2 ^ 16 + (c.arg 0).toNat % 4096
    pure { kind := 0, cls := 0, vc := 0, gen := 0, seq := 0, src := 0, dst := partner, part := c.part,
           score := c.cid, slot := c.tid % 4, addr := c.arg 2 + BitVec.ofNat 64 (d.offset i),
           data := [BitVec.ofNat 64 w], aux := BitVec.ofNat 64 mark, mid := none })

/-- The exchange starts: the map, SHIFT, and the send phase (R149). -/
def State.xchStart (s : State) (c : MauCmd) : State :=
  match s.xchCheck c with
  | .error f => s.axisEnd c (some f)
  | .ok (ps, pl) => match s.cmdDesc c (c.arg 0) with
    | .error f => s.axisEnd c (some f)
    | .ok (d, pa) => match s.sigma c d with
      | .error f => s.axisEnd c (some f)
      | .ok none => s.axisEnd c none
      | .ok (some sig) =>
        let other := sig ^^^ 2 ^ (ps - d.l)
        match s.vread c.part c.level (d.aux + BitVec.ofNat 64 (2 * other)) 2 with
        | .error e => s.axisEnd c (some ⟨e, d.aux⟩)
        | .ok w =>
          let s := (s.spreadLoads c.part c.level d).sendOwn c d pa pl (sig.testBit (ps - d.l))
          let s := s.putDesc pa (Desc.swapMap d.map d.n ps pl) (Desc.shiftOf true true false (!d.phase) true false pl ps)
          let s := s.modPart c.part (fun q => { q with exchArea := smSet 0 q.exchArea (c.arg 0).toNat (c.arg 2) })
          match (xchPackets c d pl (sig.testBit (ps - d.l)) (w % 2 ^ 14)).run s with
          | .error f => (s.haltField c false).axisEnd c (some f)
          | .ok (pks, s) =>
            let s := s.modMau c.cid c.id (fun x => { x with stage := 1, sends := pks.length })
            let s := pks.foldl (fun (s : State) p => s.sendPacket p) s
            s.post (2 ^ 26) .flxchPartnerTimeout { core := c.cid, cl := c.tid / 32, id := c.id, since := c.started }

/-- FLXCH_COPY_PHASE (R149, R150): once every send is acknowledged and every element has arrived, the receive area
is copied into place; a failed send halts the exchange. -/
def execFlxchCopyPhase (s : State) : Host.Outcome State Fault Refusal :=
  event (fun s => match s.findMau s.ev.core s.ev.id with
    | none => s
    | some c =>
      let h := (c.arg 0).toNat
      if c.stage ≠ 1 then s
      else if s.ev.status ≠ 0 then (s.haltField c false).axisEnd c (some ⟨s.ev.status, s.ev.v⟩)
      else match s.cmdDesc c (c.arg 0) with
        | .error f => (s.haltField c false).axisEnd c (some f)
        | .ok (d, pa) =>
          if c.sends ≠ 0 ∨ smGet 0 (s.part c.part).exch h < 2 ^ (d.l - 1) then s
          else
            let s := s.putShift pa (d.withBits true true false true)
            match s.sigma c d with
            | .error f => (s.haltField c true).axisEnd c (some f)
            | .ok sig =>
              let (s, _, f) := s.runPairs (copyBlock c d pa (c.arg 2) (ownBit d sig)) (List.range d.blocks)
              match f with
              | some f => (s.haltField c true).axisEnd c (some f)
              | none =>
                let s := s.putShift pa (d.withBits true false false true)
                let s := s.modPart c.part (fun q => { q with exch := smSet 0 q.exch h 0 })
                s.axisEnd c none) s

/-- FLXCH_PARTNER_TIMEOUT (R150): the partner's data is still missing. -/
def execFlxchPartnerTimeout (s : State) : Host.Outcome State Fault Refusal :=
  event (fun s => match s.findMau s.ev.core s.ev.id with
    | none => s
    | some c =>
      let missing : Bool := match s.cmdDesc c (c.arg 0) with
        | .ok (d, _) => decide (smGet 0 (s.part c.part).exch (c.arg 0).toNat < 2 ^ (d.l - 1))
        | .error _ => true
      if decide (c.stage = 1 ∧ c.started = s.ev.since) && missing then (s.haltField c false).axisEnd c (some (badField 12 (c.arg 0)))
      else s) s

/-! ### Axis commands start and complete -/

def isXch (c : MauCmd) : Bool :=
  match c.ins with
  | .flxch _ => true
  | _ => false

/-- An axis command that holds its descriptors begins (R139, R440): a halted remap is completed first; an exchange
issued again after a halt in its send phase forgets what had arrived (R150), which no other command does (DEDUCED, log 21). -/
def State.axisBegin (s : State) (c : MauCmd) : State :=
  let again := isXch c && (match s.cmdDesc c (c.arg 0) with
    | .ok (d, _) => d.halted && d.exch && !d.xcopy
    | .error _ => false)
  let s := if again then s.modPart c.part (fun q => { q with exch := smSet 0 q.exch (c.arg 0).toNat 0 }) else s
  let (s, bad) := c.handles.foldl (fun (x : State × Option Flt) h => match x.2 with
    | some f => (x.1, some f)
    | none => x.1.finishHalted c h) (s, none)
  match bad with
  | some f => s.axisEnd c (some f)
  | none =>
    if s.modeLost c then s.axisEnd c (some ⟨cILLEGAL, 0⟩)
    else if isXch c then s.xchStart c
    else match s.axisPlan c with
      | .error f => s.axisEnd c (some f)
      | .ok .nothing => s.axisEnd c none
      | .ok p =>
        let e : Ev := { core := c.cid, cl := c.tid / 32, id := c.id }
        let t := s.axisTime c p
        let s := s.modMau c.cid c.id (fun x => { x with stage := 1, arrived := s.clk })
        let s := match p, c.handles with
          | .shift pc pv, h :: _ => match s.cmdDesc c h with
            | .ok (d, pa) =>
              s.putDesc pa (Desc.swapMap d.map d.n pc pv) (Desc.shiftOf true true false (!d.phase) false false pv pc)
            | .error _ => s
          | _, _ => s
        let now := c.handles.map (fun h => match s.cmdDesc c h with
          | .ok (_, pa) => s.pread pa 64
          | .error _ => 0)
        (s.modMau c.cid c.id (fun x => { x with descs := now })).post t .mauCommandComplete e

/-- Takes descriptors one after another as they come free, then begins (R138). -/
def State.axisStep (s : State) (cid id : Nat) : Nat → State
  | 0 => s
  | n + 1 => match s.findMau cid id with
    | none => s
    | some c =>
      if !c.running || c.stage ≠ 0 || !(s.axisMay c) then s
      else match s.nextDesc c with
        | .error f => s.axisEnd c (some f)
        | .ok none => s.axisBegin c
        | .ok (some (d, pa)) =>
          let s := (s.sliceLoad pa 64).putShift pa (d.withBits true d.active d.halted d.xcopy)
          (s.modMau cid id (fun x => { x with held := x.held ++ [pa], arrived := s.clk })).axisStep cid id n

/-- An axis command leaves its queue and takes the axis datapath (R186); in LIMITED service it completes with reason
2 (R78); AXLD leaves its slot empty until it is done (R197). -/
def State.axisStart (s : State) (c : MauCmd) : State :=
  if s.limited then s.mauFinish c (some (mauReason 2))
  else
    let s := s.modMau c.cid c.id (fun x => { x with running := true, started := s.clk, arrived := s.clk })
    let s := match c.ins with
      | .axld o _ _ => s.modCore c.cid (fun x => { x with axis := smSet none x.axis o.d.toNat none })
      | _ => s
    s.axisStep c.cid c.id 4

/-- Does an AXLD read the TCM unit that moves, and so wait (R72)? -/
def State.axldMoving (s : State) (c : MauCmd) : Bool :=
  match c.ins, regionOf (c.arg 0) with
  | .axld _ k cplx, .tcm off =>
    let n := 2 ^ k.toNat * 2 ^ k.toNat * (if cplx then 8 else 4)
    (s.core c.cid).unitMoving off || (s.core c.cid).unitMoving (off + n - 1)
  | _, _ => false

/-- The lines that the pass of an axis command may write (R388). -/
def State.axisLines (s : State) (c : MauCmd) : List Nat :=
  match c.ins with
  | .axld _ _ _ => []
  | _ =>
    let d := c.descFor (c.arg 0)
    linesIn (s.runsOf c.part d.base d.span)

/-- MAU_COMMAND_COMPLETE (R190): tile commands are done with their last row; an axis command makes its pass, and
a dune shift ends or halts (R135, R142). -/
def execMauCommandComplete (s : State) : Host.Outcome State Fault Refusal :=
  event (fun s => match s.findMau s.ev.core s.ev.id with
    | none => s
    | some c =>
      if c.isTile then s.mauFinish c none
      else if c.stage ≠ 1 || isXch c then s
      else if s.axldMoving c || s.writeHeld (s.axisLines c) then s.post 1 .mauCommandComplete s.ev
      else
        let (s, fl, f) := s.axisPass c
        let c := { c with flags := c.flags ||| fl }
        match f with
        | some f => (s.haltField c false).axisEnd c (some f)
        | none =>
          let s := match c.held with
            | pa :: _ =>
              let d := Desc.ofNat (s.pread pa 64)
              if d.active then s.putShift pa (d.withBits true false false d.xcopy) else s
            | [] => s
          s.axisEnd c none) s

/-! ### The choice of heads (R186, R187, R206) -/

/-- The head of a core's queue, past its two clocks and its barrier operand (R185, R188). -/
def State.mauHead (s : State) (cid : Nat) : Option MauCmd :=
  match (s.core cid).mauWaiting with
  | c :: _ => if c.issued + 2 ≤ s.clk && s.desigDone (cid / 8) c.desig then some c else none
  | [] => none

/-- Does the axis datapath of a cluster run a command? -/
def State.axisRunning (s : State) (cl : Nat) : Bool :=
  (List.range 8).any (fun j => (s.core (8 * cl + j)).mauq.any (fun c => c.running && !c.isTile))

/-- Has the thread an earlier vector store, or a vector instruction on a stream, that is not complete (R210, R324)? -/
def State.storesBefore (s : State) (c : MauCmd) : Bool :=
  let t := s.thread c.tid
  (t.vuq ++ (if t.capture.left = 0 then t.capture.cmds else [])).any (fun v =>
    decide (v.issued < c.issued) && (vecStores v.ins || (vregsOf v.ins).d.any (fun k => decide (28 ≤ k))))

/-- Does a command read a scratchpad (R210)? -/
def MauCmd.readsSpad (c : MauCmd) : Bool :=
  match c.ins with
  | .tldb _ | .mma _ _ _ _ _ | .mmaz _ _ _ _ _ => true
  | .axld _ _ _ => match regionOf (c.arg 0) with
    | .own _ | .cluster _ _ => true
    | _ => false
  | _ => false

/-- The conditions of R186; before a command that reads a scratchpad, the thread's earlier stores are performed (R210). -/
def State.mauReady (s : State) (cid : Nat) : Bool :=
  match s.mauHead cid with
  | none => false
  | some c =>
    if c.readsSpad && s.storesBefore c then false
    else
    let run := (s.core cid).mauq.filter (fun x => x.running)
    let writers := run.flatMap MauCmd.writes
    let readers := run.flatMap MauCmd.reads
    match c.ins with
    | .tldb _ => c.slotWrites.all (fun b =>
        !((run.flatMap MauCmd.slotReads).contains b) && !((run.flatMap MauCmd.slotWrites).contains b))
    | .mma _ _ _ _ _ | .mmaz _ _ _ _ _ =>
      run.all (fun x => !x.isMma) && c.slotReads.all (fun b => !((run.flatMap MauCmd.slotWrites).contains b))
        && c.writes.all (fun t => !(writers.contains t) && !(readers.contains t))
    | .tst _ => c.reads.all (fun t => !(readers.contains t))
    | .tclr _ => c.writes.all (fun t => !(writers.contains t) && !(readers.contains t))
    | _ => !(s.axisRunning (cid / 8))

/-- A head whose thread has a pending MAU fault is discarded (R206). -/
def State.mauDrop (s : State) (cid : Nat) : Option MauCmd :=
  match s.mauHead cid with
  | some c => if (s.thread c.tid).pendMau.isSome then some c else none
  | none => none

/-- Discards heads while there are any to discard. -/
def State.mauDiscard (s : State) (cid : Nat) : Nat → State
  | 0 => s
  | n + 1 => match s.mauDrop cid with
    | some c => (s.modCore cid (fun k => { k with mauq := k.mauq.filter (fun x => x.id != c.id) })).mauDiscard cid n
    | none => s

/-- Axis commands of a cluster that can take their next descriptor. -/
def State.axisReady (s : State) (cl : Nat) : List MauCmd :=
  (List.range 8).flatMap (fun j => (s.core (8 * cl + j)).mauq.filter (fun c =>
    c.running && !c.isTile && c.stage == 0 && s.axisMay c))

/-- Has the MAU of a cluster something to start, to discard or to take? -/
def State.mauEnabled (s : State) (cl : Nat) : Bool :=
  (List.range 8).any (fun j => (s.mauDrop (8 * cl + j)).isSome || (s.mauReady (8 * cl + j) && (s.cluster cl).mauAt ≤ s.clk))
  || s.axisReady cl != []

/-- The weight of a core's queue (R187). -/
def State.mauWeight (s : State) (cid : Nat) : Nat :=
  match (s.core cid).mauWaiting with
  | c :: _ => c.share
  | [] => 1

/-- MAU_COMMAND_START (R138, R187, R206): discards, descriptors taken, then one head started. -/
def execMauCommandStart (s : State) : Host.Outcome State Fault Refusal :=
  event (fun s =>
    let cl := s.ev.cl
    let s := (List.range 8).foldl (fun (s : State) j => s.mauDiscard (8 * cl + j) 8) s
    let s := (s.axisReady cl).foldl (fun (s : State) c => s.axisStep c.cid c.id 4) s
    let k := s.cluster cl
    if s.clk < k.mauAt then s
    else match wrr 8 k.mauPtr (fun j => s.mauReady (8 * cl + j)) (fun j => s.mauWeight (8 * cl + j)) k.mauCredit with
      | none => s
      | some (j, credit, ptr) => match s.mauHead (8 * cl + j) with
        | none => s
        | some c =>
          let s := s.setCluster cl { s.cluster cl with mauCredit := credit, mauPtr := ptr, mauAt := s.clk + 1 }
          if c.isTile then s.tileStart c else s.axisStart c) s

end Sys2Proof.Machine
end

