-- ==== Sys2Proof/Machine/Power.lean ====
section
/-! DEFINITION. Bring-up (R430), the end of the march (R18, R77), the boundary of core store (R71, R72), scrub
and poison (R418), the current governor (R426) and the MAU ramp (R428). -/

namespace Sys2Proof.Machine

/-- Bytes at consecutive addresses. -/
def putBytes (m : List Host.Cell) (a : Nat) : List Nat → List Host.Cell
  | [] => m
  | b :: bs => putBytes (smSet 0 m a (BitVec.ofNat 8 b)) (a + 1) bs

/-- The boot ROM releases a core into test mode (R10): text at 0, parameter block at 0x1000, thread 0 at level F
with s4 = 0x1000. The core fails when it has not halted after 2^32 clk (R18). -/
def State.startTest (s : State) (cid : Nat) (text params : List Nat) : State :=
  let s := s.modCore cid (fun c =>
    { c with test := true, started := true, tcm := putBytes (putBytes [] 0 text) 0x1000 params })
  let s := s.setThread (4 * cid) { occ := true, level := .F, sregs := [(4, .resident 0x1000)] }
  s.post (2 ^ 32) .marchTimeout { core := cid }

/-- Step 4: every SRAM and all LPDDR zero-filled, full-empty bits empty, SRAMW fixed (R430, R378). -/
def State.memInit (s : State) (sramw : Nat) : State :=
  { s with
    mem := [], poison := [], behind := [], current := [], slices := [], recWait := [],
    cores := s.cores.map (fun (x : Nat × Core) => (x.1, { x.2 with tcm := [], prf := [], l1 := [] })),
    clusters := s.clusters.map (fun (x : Nat × Cluster) => (x.1, { x.2 with spad := [], full := [] })),
    devstat := putBits (putBits s.devstat 39 36 (min sramw 12)) 1 1 1 }

/-- POWER_UP (R430): steps 1 to 4 and the start of step 5. What the board and firmware bring is the step's argument: whether
the rails and clocks are stable (`ok`), the failing step 3 or 4 (`n`, 0 for none), SRAMW (`idx`), and the march
image (`nums`: the length of the text, the text, and the parameter blocks of the eight cores of a cluster).
Where the boot ROM's check of the firmware fails the device stays in it (R416). -/
def execPowerUp (s : State) : Host.Outcome State Fault Refusal :=
  event (fun s =>
    let e := s.ev
    let s := { s with powered := true }
    let failAt (s : State) (k : Nat) : State :=
      { s with devstat := putBits (putBits s.devstat 6 6 1) 35 32 k }
    if !e.ok || !Config.firmwareVerifies then s
    else if e.n = 3 then failAt s 3
    else
      let s := { s with devstat := putBits s.devstat 0 0 1 }
      if e.n = 4 then failAt s 4
      else
        let s := s.memInit e.idx
        let len := e.nums.headD 0
        let text := (e.nums.drop 1).take len
        let rest := e.nums.drop (1 + len)
        let share := rest.length / 8
        let s := (List.range 1024).foldl (fun (s : State) c =>
          s.startTest c text ((rest.drop (c % 8 * share)).take share)) s
        (s.post 65536 .carveInterval {}).post (32 - s.clk % 32) .governorWindow {}) s

/-- MARCH_TIMEOUT (R18, R77). -/
def execMarchTimeout (s : State) : Host.Outcome State Fault Refusal :=
  event (fun s =>
    let c := s.ev.core
    if (s.core c).test && !(s.core c).haltedDone && !(s.core c).testFault then
      ((s.modThread (4 * c) (fun t => { t with stopped := true })).withdrawCluster (c / 8)).bringUp
    else s) s

/-- The cores of die 0 that have a continuation (R430). -/
def State.die0Busy (s : State) : List Nat :=
  ((s.threads.filter (fun x => x.1 < 1024 && x.2.occ)).map (fun x => x.1 / 4)).eraseDups

/-- READY_CLOCK_RAISE (R430): firmware pre-empts the cores of die 0 (`n` = 0), one that takes a unit meanwhile too, and once
all are drained, it raises the clock and resumes them. -/
def execReadyClockRaise (s : State) : Host.Outcome State Fault Refusal :=
  event (fun s =>
    let cs := s.die0Busy
    if s.ev.n = 0 then
      let s := cs.foldl (fun (s : State) c => s.post 0 .preemptMessage { core := c }) s
      s.post 1 .readyClockRaise { n := 1 }
    else if cs.all (fun c => ((s.core c).preempted && (s.core c).saved) || (s.core c).withdrawn) then
      let s := { s with devstat := putBits s.devstat 5 5 1 }
      cs.foldl (fun (s : State) c => s.post 0 .resumeMessage { core := c }) s
    else
      let more := cs.filter (fun c => !(s.core c).preempted && !(s.core c).withdrawn)
      (more.foldl (fun (s : State) c => s.post 0 .preemptMessage { core := c }) s).post 16 .readyClockRaise { n := 1 }) s

/-- CORE_RESTART (R114, R118): firmware lets a core's halted or stopped threads issue again, at an address where
it gives one. A faulted continuation stays stopped (R116). -/
def execCoreRestart (s : State) : Host.Outcome State Fault Refusal :=
  event (fun s => (List.range 4).foldl (fun (s : State) k =>
    s.modThread (4 * s.ev.core + k) (fun t =>
      if t.stopped && t.st != 7 then
        { t with stopped := false, wait := none, pc := if s.ev.ok then s.ev.v &&& ~~~1#64 else t.pc }
      else t)) s) s

/-! ### The TCM/L1 boundary (R71, R72) -/

/-- M(w): the misses that the sampled accesses would have had with w ways. -/
def Core.missesAt (c : Core) (w : Nat) : Nat :=
  c.sampled - (List.range w).foldl (fun n d => n + smGet 0 c.depthHits d) 0

/-- The way count of the next interval: the least M, w before w - 1 before w + 1, and only for a gain of more
than A / 64. -/
def Core.chooseWays (c : Core) : Nat :=
  let w := 16 - c.tcmUnits
  let ok (k : Nat) : Bool := decide (16 - c.tcmMax ≤ k ∧ k ≤ 16 - c.tcmMin)
  let cands := [w, w - 1, w + 1].filter ok
  let best := cands.foldl (fun b k => if c.missesAt k < c.missesAt b then k else b) (cands.headD w)
  if c.missesAt best + c.sampled / 64 < c.missesAt w then best else w

/-- Does a set hold as many pinned lines as a way count? -/
def Core.pinsFill (c : Core) (w : Nat) : Bool :=
  c.l1.any (fun x => x.pinned &&
    decide (w ≤ (c.l1.filter (fun y => y.pinned && y.line % 1024 == x.line % 1024)).length))

/-- CARVE_INTERVAL (R71): every core chooses, and the counters restart. -/
def execCarveInterval (s : State) : Host.Outcome State Fault Refusal :=
  event (fun s =>
    let s := s.cores.foldl (fun (s : State) x =>
      let c := s.core x.1
      let w := 16 - c.tcmUnits
      let new := c.chooseWays
      let c' := { c with depthHits := [], sampled := 0 }
      if c.test || new = w || c.moving.isSome then s.setCore x.1 c'
      else if new < w && c.pinsFill new then s.setCore x.1 { c' with refused := true }
      else (s.setCore x.1 { c' with moving := some (16 - new) }).post 4096 .carveMoveDone { core := x.1 }) s
    s.post 65536 .carveInterval {}) s

/-- CARVE_MOVE_DONE (R72). -/
def execCarveMoveDone (s : State) : Host.Outcome State Fault Refusal :=
  event (fun s => match (s.core s.ev.core).moving with
    | none => s
    | some m => s.boundaryTo s.ev.core m) s

/-! ### Errors, governor, ramp -/

/-- MEMORY_SCRUB (R418) of one 4-byte word: `n` = 1 a single-bit error, corrected and counted in the error log;
2 a double-bit error, poisoned in place. -/
def execMemoryScrub (s : State) : Host.Outcome State Fault Refusal :=
  event (fun s => match s.ev.site with
    | none => s
    | some x =>
      let a : Nat := match x with
        | .chip pa => pa
        | .spad cl off => 0x10000000 + cl * 0x400000 + off
        | .tcm _ off => off
        | .reg tid n isF => lruCode (tid % 4) n isF
        | .area _ n => n
      if s.ev.n = 1 then { s with errors := s.errors ++ [(1, BitVec.ofNat 64 a)] }
      else if s.ev.n = 2 && !(s.poison.contains x) then { s with poison := x :: s.poison }
      else s) s

/-- The demand of the window that ends: plane advances, axis clocks and VU slices with their weights (R426). -/
def State.windowDemand (s : State) : Nat :=
  s.demand + Config.axisWeight * s.cores.foldl (fun (n : Nat) x => x.2.mauq.foldl (fun n c =>
    if c.running && !c.isTile && c.stage == 1 && !(isXch c) then n + min 32 (s.clk - c.arrived) else n) n) 0

/-- GOVERNOR_WINDOW (R425, R426), every 32 clk: the estimate of the next window, in units of 0.1 mA, follows the demand
within RISE and FALL. The clocks withheld for it lengthen times only (log 45). -/
def execGovernorWindow (s : State) : Host.Outcome State Fault Refusal :=
  event (fun s =>
    let w := s.slew.toNat
    let i := s.governor
    let d := s.windowDemand
    let next := if w.testBit 31 then max (i - bitsN w 24 16 * 256) (min (i + bitsN w 8 0 * 256) d) else d
    { s with governor := next, demand := 0 }.post 32 .governorWindow {}) s

/-- MAU_RAMP_ARM (R428): the tile datapath has run no command for IDLE clk, as IDLE is now. -/
def execMauRampArm (s : State) : Host.Outcome State Fault Refusal :=
  event (fun s =>
    let k := s.cluster s.ev.cl
    let due := s.ev.since + bitsN s.shape.toNat 15 0
    if k.mauIdle ≠ s.ev.since || s.tileRunning s.ev.cl then s
    else if s.clk < due then s.post (due - s.clk) .mauRampArm s.ev
    else s.setCluster s.ev.cl { k with ramped := true }) s

end Sys2Proof.Machine
end

