-- ==== Sys2Proof/Machine/Sched.lean ====
section
/-! DEFINITION. Launches (R265 to R271, R287, R288), gangs (R272), ready queues and the lottery (R274, R275),
records of new units (R280), pre-emption (R283 to R285), and the scheduling instructions (R288 to R294). -/

namespace Sys2Proof.Machine

/-! ### The header's checks (R269) -/

/-- The first condition of step 2 that fails: the offset of the doubleword it names. -/
def Launch.bad (l : Launch) (wbmask : Word) : Option Nat :=
  let w (k : Nat) : Nat := (l.hdr.getD k 0).toNat
  let beyond := (List.range 6).filter (fun k => decide (l.nf ≤ k))
  let size (c : Nat) : Nat := l.prodOf ((List.range l.nf).filter (fun k => l.place k == c))
  let base := bitsN l.barriers 15 0
  let n := bitsN l.barriers 31 16
  let conds : List (Bool × Nat) := [
    (bitsN (w 2) 63 57 != 0, 0x10), (bitsN (w 7) 63 61 != 0 || bitsN (w 7) 7 4 != 0, 0x38),
    (bitsN (w 10) 13 5 != 0, 0x50), (bitsN (w 11) 63 32 != 0, 0x58),
    (w 13 != 0, 0x68), (w 14 != 0, 0x70), (w 15 != 0, 0x78),
    (l.nf == 0 || decide (6 < l.nf), 0x10),
    (beyond.any (fun k => l.width k != 0 || l.place k != 0), 0x10),
    (beyond.any (fun k => l.count k != 0), 0x18 + 8 * ((beyond.find? (fun k => l.count k != 0)).getD 0 / 2)),
    (decide (64 < (List.range l.nf).foldl (fun n k => n + l.width k) 0), 0x10),
    ((List.range l.nf).any (fun k => decide (5 ≤ l.place k)), 0x10),
    (decide (2 ≤ l.smode), 0x38), (l.entry.toNat % 2 != 0, 0),
    (!(decide (2 ≤ l.tcmMin ∧ l.tcmMin ≤ l.tcmMax ∧ l.tcmMax ≤ 14)), 0x38),
    (decide (8 < size 2 ∨ 8 < size 3 ∨ 4 < size 4), 0x10),
    (decide (64 < base + n) || (List.range n).any (fun k => !(wbmask.toNat.testBit (base + k))), 0x58),
    (n != 0 && !l.isGang, 0x58),
    (decide (l.ckind < 2 ∧ l.done ≠ 0 ∧ (l.done.toNat % 8 ≠ 0 ∨ l.done.toNat < 0x100000000)), 0x40)]
  (conds.find? (fun c => c.1)).map (fun c => c.2)

/-- Where DONE lies, as an 8-byte store at the launcher's level: a physical address or a cause. -/
def State.donePlace (s : State) (p : Nat) (l : Launch) : Except Nat Nat :=
  match regionOf l.done with
  | .chip => match s.xlate p l.level .store l.done with
    | .error c => .error c
    | .ok pa => if s.isDerived pa then .error cDWRITE else .ok pa
  | _ => .error cPROT

/-- Steps 2 to 4. -/
def State.headerFault (s : State) (p : Nat) (l : Launch) : Option Flt :=
  match l.bad (s.part p).wbmask with
  | some off => some ⟨cLBAD, BitVec.ofNat 64 off⟩
  | none => match (List.range l.nf).find? (fun k => decide (2 ^ l.width k < l.count k)) with
    | some k => some ⟨cLRANGE, BitVec.ofNat 64 k⟩
    | none =>
      if l.ckind < 2 ∧ l.done ≠ 0 then
        match s.donePlace p l with
        | .error c => some ⟨c, l.done⟩
        | .ok _ => none
      else none

/-! ### Acceptance (R288) -/

/-- A key for a launch at a header address: the lowest number that no launch in progress there has. -/
def State.launchKey (s : State) (p : Nat) (a : Word) : Word :=
  let key (n : Nat) : Word := BitVec.ofNat 64 (a.toNat % 2 ^ 48 + n * 2 ^ 48)
  match (List.range 256).find? (fun n => (s.findLaunch p (key n)).isNone) with
  | some n => key n
  | none => key 0

/-- Something for the capture stream of a partition that captures (R422). -/
def State.capture (s : State) (p : Nat) (ws : List Word) : State :=
  if bitsN (s.part p).trctl.toNat 2 0 = 0 then s
  else { s with host := { s.host with captured := s.host.captured ++ [(p, ws)] } }

/-- A word of a parameter block, as the launching core names it, as performed; a stale derived line is recomputed first. -/
def State.paramWord (s : State) (p cid : Nat) (a : Word) : Option (Word × State) :=
  match regionOf a, s.framePlace p cid .load a with
  | _, .error _ => none
  | .chip, .ok _ => match s.engineRead p .S a 8 with
    | .ok (v, s) => some (BitVec.ofNat 64 v, s)
    | .error _ => none
  | _, .ok _ => if (s.framePoison p cid a).isSome then none else some (s.frameRead p cid a, s.frameTouch p cid a)

/-- The parameter block that a capture copies: 64 bytes, as far as they can be read (log 23). -/
def State.paramBlock (s : State) (p cid : Nat) (a : Word) : List Word × State :=
  (List.range 8).foldl (fun (x : List Word × State) k =>
    match x.2.paramWord p cid (a + BitVec.ofNat 64 (8 * k)) with
    | some (w, s) => (x.1 ++ [w], s)
    | none => x) ([], s)

/-- A launch is captured with its header and parameter block (R422). -/
def State.captureLaunch (s : State) (p : Nat) (l : Launch) : State :=
  if bitsN (s.part p).trctl.toNat 2 0 = 0 then s
  else
    let (ws, s) := s.paramBlock p l.core l.param
    s.capture p ([0, launchAddr l.addr] ++ l.hdr ++ ws)

/-- An accepted launch: its tickets, its place among the partition's launches, its capture. -/
def State.accept_ (s : State) (p : Nat) (l : Launch) : State :=
  let (v, s) := s.free
  let l := { l with addr := s.launchKey p l.addr, rr := v.toNat % 128,
                    minimum := l.unitStamp (if l.units = 0 then 0 else l.nextUnit) }
  let t := bitsN l.ctl 23 8
  let s := s.modPart p (fun q => { q with
    launches := q.launches ++ [l],
    tickets := if t = 0 then q.tickets else smSet 0 q.tickets l.queue t })
  let s := s.captureLaunch p l
  if l.units = 0 then s.post 0 .launchComplete { part := p, v := l.addr } else s

/-- A doubleword as performed, at the thread's level (R288). -/
def readPerformed (ea : Word) : Sem Word := do
  let p ← placeOf { kind := .load, bytes := 8 } ea
  let s ← get
  match p with
  | .tcm off =>
    unitFree off
    refusePoison (s.tcmPoison s.cid off 8)
    let (v, s) := s.tcmLoad s.cid off 8
    set s
    pure (BitVec.ofNat 64 v)
  | .spad cl off =>
    refusePoison (s.spadPoison cl off 8)
    pure (BitVec.ofNat 64 ((s.cluster cl).read off 8))
  | .bank key => pure (BitVec.ofNat 64 (readB s.myCluster.spad key 8))
  | .ctl cl off => pure (s.ctlRead cl off)
  | .block p off => pure (s.blockRead p off)
  | .chip pa =>
    match s.th.lineFault with
    | some c => trap c ea
    | none => pure ()
    if s.isStale pa then block (.stale (pa / 256))
    refusePoison (s.chipPoison pa 8)
    set (s.sliceLoad pa 8)
    pure (BitVec.ofNat 64 (s.pread pa 8))

/-- LAUNCH (R288, R269): a release, after the thread's earlier stores (R318, R320). -/
def execLaunch (o : Src1) (s : State) : Host.Outcome State Fault Refusal :=
  plain (do
    let a ← o.read
    storesPerformed
    commitOnly
    irrevocable
    let s ← get
    let p := s.th.part
    if 256 ≤ s.myPart.launches.length then block .launches
    if a.toNat % 128 ≠ 0 then trap cMISALIGN a
    let hdr ← (List.range 16).mapM (fun k => readPerformed (a + BitVec.ofNat 64 (8 * k)))
    let l : Launch := { addr := a, hdr := hdr, level := s.th.level, core := s.cid }
    let s ← get
    match s.headerFault p l with
    | some f => throw (.trap f)
    | none => set (s.accept_ p l)) s

/-! ### Completion (R287) -/

/-- The completion signal could not be performed: an event of kind 6. -/
def State.doneFailed (s : State) (p : Nat) (l : Launch) (cause : Nat) (info : Word) : State :=
  s.event p 6 cause (launchAddr l.addr) info

/-- The signal of CKIND. -/
def State.signal (s : State) (p : Nat) (l : Launch) : State :=
  if l.ckind < 2 then
    if l.done = 0 then s
    else match s.donePlace p l with
      | .error c => s.doneFailed p l c 0
      | .ok pa =>
        if l.ckind = 1 && (s.chipPoison pa 8).isSome then s.doneFailed p l cMCHECK 0
        else
          let v := if l.ckind = 0 then l.doneval.toNat else (s.pread pa 8 + l.doneval.toNat) % 2 ^ 64
          s.homeWrite engineWriter (cellsOf pa 8 v)
  else if l.ckind = 2 then
    let c := s.core l.core
    let k := l.core / 8
    let serves := (s.part p).clmask.testBit k && (c.preempted || (s.cluster k).part == p)
    if c.withdrawn || !serves then s.doneFailed p l cPRIV (BitVec.ofNat 64 l.core)
    else s.toMailbox l.core (putBits l.doneval 63 62 0) (launchAddr l.addr) 0
  else s

/-- LAUNCH_COMPLETE (R287): the signal is performed, and the launch's place is free. -/
def execLaunchComplete (s : State) : Host.Outcome State Fault Refusal :=
  event (fun s => match s.findLaunch s.ev.part s.ev.v with
    | none => s
    | some l =>
      if l.ended || l.finished = l.units then
        (s.signal s.ev.part l).modPart s.ev.part (fun q => { q with
          launches := q.launches.filter (fun x => x.addr != l.addr) })
      else s) s

/-! ### Placement (R271, R77, R78, R407) -/

/-- The groups that a unit or gang may run in (R271). -/
def Launch.groups (l : Launch) (fs : List Nat) : List Nat :=
  let ones := (List.range l.nf).filter (fun k => l.place k == 1)
  if ones = [] then List.range 16
  else [ones.foldl (fun g k => g * 2 ^ l.width k + fs.getD k 0) 0 % 16]

/-- A list turned so that it begins at a place. -/
def turnList {α : Type} (xs : List α) (k : Nat) : List α :=
  let n := k % max 1 xs.length
  xs.drop n ++ xs.take n

/-- The cluster that receives a launch's next unit: the next in turn whose queue has room (R274). -/
def State.unitSite (s : State) (p : Nat) (l : Launch) : Option Nat :=
  let allowed := (l.groups (l.fields l.created)).flatMap (fun g => (List.range 8).map (fun j => 8 * g + j))
  let after := allowed.filter (fun c => decide (l.rr ≤ c)) ++ allowed.filter (fun c => decide (c < l.rr))
  after.find? (fun c => s.takes p c &&
    decide ((smGet {} (s.cluster c).ready (readyKey p l.queue)).recs.length < 64))

/-- The lowest free frame slots, `n` of them (R268). -/
def Launch.freeSlots (l : Launch) (u n : Nat) : Option (List Nat) :=
  let f := bitsN l.frames 4 0
  if f = 0 then some [u]
  else
    let xs := ((List.range (2 ^ f)).filter (fun k => !(l.pool.contains k))).take n
    if xs.length = n then some xs else none

def Launch.frameBase (l : Launch) (slot : Nat) : Word := BitVec.ofNat 64 (l.frames / 16384 * 16384 + 0x4000 * slot)

/-! ### Records of new units (R280) -/

/-- The STATE word of a new record (R278, R280, R400). -/
def Launch.newState (l : Launch) (st : Nat) : Word :=
  BitVec.ofNat 64 (st * 2 ^ 61 + l.queue * 2 ^ 57 + b2n l.sup * 2 ^ 56 + 64 * 2 ^ 49)

/-- Writes the record of unit u and the words of its frame. -/
def State.newRecord (s : State) (p cid : Nat) (l : Launch) (u slot : Nat) : Saved := do
  let fr := l.frameBase slot
  let r := fr + 0x3FC0
  let fs := l.fields u
  let g := genBase l.seed
  let g := genJump u g.1 g.2
  let ws : List (Word × Word) := [
    (r, BitVec.ofNat 64 (l.entry.toNat % 2 ^ 48)), (r + 8, BitVec.ofNat 64 (l.widOf fs)),
    (r + 16, BitVec.ofNat 64 (l.unitStamp u)), (r + 24, fr), (r + 32, 0), (r + 40, l.newState 1),
    (r + 48, BitVec.ofNat 64 (l.addr.toNat % 2 ^ 48)), (r + 56, 0),
    (fr, 0), (fr + 0x1C0, g.1), (fr + 0x1C8, g.2), (fr + 0x1D0, 0)]
  ws.foldlM (fun s w => s.put p cid w.1 w.2) s

/-- Creates unit u in a frame slot; it counts as created, and as faulted where a write fails. Answers whether it
may run. -/
def State.createUnit (s : State) (p cid : Nat) (l : Launch) (u slot : Nat) (gang : Option (Nat × Nat)) : State × Bool :=
  let r := l.frameBase slot + 0x3FC0
  let s := s.modLaunch p l.addr (fun l => { l with
    created := l.created + 1, pool := if bitsN l.frames 4 0 = 0 then l.pool else slot :: l.pool })
  match s.newRecord p cid l u slot with
  | .ok s =>
    let c : Cont := { st := 1, stamp := l.unitStamp u, launch := l.addr, inLaunch := true, cluster := cid / 8,
                      core := cid, kind := 0, obj := 0, queue := l.queue, fresh := true,
                      slot := gang.map (fun x => x.1), gangNo := (gang.map (fun x => x.2)).getD 0 }
    (s.setCont p r (some c), true)
  | .error (f, s) =>
    let s := match s.frameWrite p cid (r + 40) (l.newState 7) with
      | .ok s' => s'
      | .error _ => s
    let s := s.modLaunch p l.addr (fun l => { l with faulted := l.faulted + 1 })
    let dead : Cont := { st := 7, stamp := l.unitStamp u, launch := l.addr, inLaunch := true, cluster := cid / 8,
                         core := cid, kind := 0, obj := 0, queue := l.queue }
    ((s.setCont p r (some dead)).event p 1 f.cause r f.info, false)

/-- UNIT_CREATE (R274): the next unit of a launch without gangs. -/
def execUnitCreate (s : State) : Host.Outcome State Fault Refusal :=
  event (fun s =>
    let p := s.ev.part
    match s.findLaunch p s.ev.v with
    | none => s
    | some l =>
      if l.isGang || l.ended || l.units ≤ l.created then s
      else match s.unitSite p l, l.freeSlots l.created 1 with
        | some cl, some (slot :: _) =>
          let r := l.frameBase slot + 0x3FC0
          let s := s.modLaunch p l.addr (fun l => { l with rr := (cl + 1) % 128 })
          let (s, ok) := s.createUnit p (8 * cl) l l.created slot none
          let s := s.refreshMin p l.addr
          if ok then s.enqueue cl p l.queue r else s
        | _, _ => s) s

/-! ### Taking a continuation (R73, R181, R255, R275) -/

/-- The slots that some launch keeps for its next gang (R272). -/
def State.planned (s : State) : List (Nat × Launch) :=
  s.parts.flatMap (fun x => x.2.launches.flatMap (fun l => l.gangPlan.map (fun t => (t, l))))

/-- The four slots of a core are idle; one that is kept for a suspended gang member is not (R73, R272). -/
def State.allIdle (s : State) (cid : Nat) : Bool :=
  (List.range 4).all (fun k => !(s.thread (4 * cid + k)).occ && (s.thread (4 * cid + k)).reserved.isNone)

/-- May a core take a continuation of a partition with a pair of TCM limits? -/
def State.mayTake (s : State) (cid p : Nat) (pair : Option (Nat × Nat)) : Bool :=
  let c := s.core cid
  let copies := (s.cluster (cid / 8)).copyq.any (fun x => x.tid / 4 == cid)
  let partOk := c.part == p || (c.mailbox == [] && c.port == [] && !copies)
  let pairOk := match pair with
    | none => true
    | some (lo, hi) => (c.tcmMin == lo && c.tcmMax == hi) || (s.allIdle cid && !(c.l1.any (fun x => x.pinned)))
  s.coreTakes p cid && partOk && pairOk

/-- The boundary goes at once to the nearest value within new limits (R73). -/
def State.takePair (s : State) (cid lo hi : Nat) : State :=
  let c := s.core cid
  if c.tcmMin = lo ∧ c.tcmMax = hi then s
  else
    let s := s.modCore cid (fun c => { c with tcmMin := lo, tcmMax := hi, moving := none })
    let now := c.tcmUnits
    let steps := if now < lo then (List.range (lo - now)).map (fun k => now + 1 + k)
      else if hi < now then (List.range (now - hi)).map (fun k => now - 1 - k) else []
    steps.foldl (fun (s : State) m => s.boundaryTo cid m) s

/-- The core takes a continuation: the MAU state of another partition is cleared, the limits are its launch's, its
continuation goes on in the slot. -/
def State.take (s : State) (tid p : Nat) (r : Word) (pair : Option (Nat × Nat)) : State :=
  let cid := tid / 4
  let s := if (s.core cid).part = p then s else (s.clearMau cid).modCore cid (fun c => { c with part := p })
  let s := match pair with
    | some (lo, hi) => s.takePair cid lo hi
    | none => s
  s.resume tid p r

/-- The limits of a record's launch. -/
def State.pairOf (s : State) (p : Nat) (r : Word) : Option (Nat × Nat) :=
  match s.cont p r with
  | some c => if c.inLaunch then (s.findLaunch p c.launch).map (fun l => (l.tcmMin, l.tcmMax)) else none
  | none => none

/-- New units can have their physical entries for PARAM: the values that give way for `n` of them can be spilled now (R62,
R280). -/
def State.paramRoom (s : State) (cid n : Nat) : Bool :=
  (s.spillWait cid (s.victims cid n false [])).isNone && !(s.victimsShort cid n false [])

/-- May the head of a ready queue run in a slot (R73, R181, R255, R267, R281, R407)? -/
def State.headFits (s : State) (tid p : Nat) (r : Word) : Bool :=
  let pair := s.pairOf p r
  let planOk := s.planned.all (fun x => x.1 != tid)
  let own := match s.cont p r with
    | none => true
    | some c => (!c.onCore || c.core == tid / 4) && (!c.fresh || s.paramRoom (tid / 4) 1) && (match s.findLaunch p c.launch with
      | some l => !c.inLaunch || l.spec || decide (c.stamp ≤ l.minimum)
      | none => true)
  planOk && own && s.mayTake (tid / 4) p pair

/-- The non-empty queues of a cluster whose head may run in a slot, in ascending (p, q): key, head. -/
def State.drawSet (s : State) (tid : Nat) : List (Nat × Word) :=
  (s.cluster (tid / 32)).ready.filterMap (fun x => match x.2.recs with
    | r :: _ => if s.headFits tid (x.1 / 16) r then some (x.1, r) else none
    | [] => none)

/-- The xorshift step (R275). -/
def lotStep (x : BitVec 32) : BitVec 32 :=
  let x := x ^^^ (x <<< 13)
  let x := x ^^^ (x >>> 17)
  x ^^^ (x <<< 5)

/-- Effective tickets (R274). -/
def State.effective (s : State) (key : Nat) : Nat := max 1 (smGet 0 (s.part (key / 16)).tickets (key % 16))

/-- The queue whose interval holds r. -/
def pickInterval (tickets : Nat → Nat) (r : Nat) : List (Nat × Word) → Option (Nat × Word)
  | [] => none
  | x :: xs => if r < tickets x.1 then some x else pickInterval tickets (r - tickets x.1) xs

/-- The draw of a slot (R275): the chosen queue and record. -/
def State.lottery (s : State) (tid : Nat) : Option (Nat × Word × State) :=
  let cl := tid / 32
  let es := s.drawSet tid
  let k := s.cluster cl
  let chosen : Option (Nat × Word) × State :=
    match es.find? (fun e => decide (4096 ≤ (smGet {} k.ready e.1).passed)) with
    | some e => (some e, s)
    | none =>
      let x := lotStep k.lotseed
      let total := es.foldl (fun n e => n + s.effective e.1) 0
      (pickInterval s.effective (x.toNat * total / 2 ^ 32) es, s.modCluster cl (fun k => { k with lotseed := x }))
  if es = [] then none
  else match chosen with
    | (none, _) => none
    | (some (key, r), s) =>
      let passed := es.filter (fun e => e.1 != key)
      let s := s.modCluster cl (fun k =>
        let q := smGet {} k.ready key
        let rd := smSet {} k.ready key { recs := q.recs.drop 1, passed := 0 }
        { k with ready := passed.foldl (fun rd e =>
            let y := smGet {} rd e.1
            smSet {} rd e.1 { y with passed := y.passed + 1 }) rd })
      some (key, r, s)

/-- The slots of a cluster that draw: idle and not reserved. -/
def State.drawSlots (s : State) (cl : Nat) : List Nat :=
  ((List.range 32).map (fun k => 32 * cl + k)).filter (fun t =>
    let x := s.thread t
    !x.occ && x.reserved.isNone && s.drawSet t != [])

/-- LOTTERY_DRAW (R275): one slot of the cluster is served; which of several is a free value (log 5). -/
def execLotteryDraw (s : State) : Host.Outcome State Fault Refusal :=
  event (fun s =>
    let slots := s.drawSlots s.ev.cl
    if slots = [] then s
    else
      let (v, s) := s.free
      match s.lottery (slots.getD (v.toNat % slots.length) 0) with
      | none => s
      | some (key, r, s') =>
        s'.take (slots.getD (v.toNat % slots.length) 0) (key / 16) r (s'.pairOf (key / 16) r)) s

/-! ### Gangs (R272) -/

/-- Slots of a core that a gang can have: no other gang's. -/
def State.gangSlots (s : State) (p cid : Nat) : List Nat :=
  if !(s.coreTakes p cid) then []
  else
    let taken := s.planned
    ((List.range 4).map (fun k => 4 * cid + k)).filter (fun t =>
      let x := s.thread t
      x.reserved.isNone && !(x.occ && (x.gang || x.stopped)) && !(taken.any (fun y => y.1 == t)))

/-- Clusters, cores and slots for the next gang of a launch in a group, by cluster, core and slot; the scheduler's
choice among them is a free value. -/
def State.gangIn (s : State) (p : Nat) (l : Launch) (g choice : Nat) : Option (List (List (List Nat))) :=
  let size (c : Nat) : Nat := l.prodOf ((List.range l.nf).filter (fun k => l.place k == c))
  let cores (cl : Nat) : List (List Nat) :=
    ((turnList (List.range 8) (choice / 8 % 8)).map (fun j => s.gangSlots p (8 * cl + j))).filter
      (fun x => decide (size 4 ≤ x.length))
  let cls := ((turnList (List.range 8) (choice % 8)).map (fun j => 8 * g + j)).filter (fun cl =>
    s.takes p cl && decide (size 3 ≤ (cores cl).length))
  if cls.length < size 2 then none
  else some ((cls.take (size 2)).map (fun cl => ((cores cl).take (size 3)).map (fun xs =>
    (turnList xs (choice / 64)).take (size 4))))

/-- The slot of member m in a choice of slots: its fields of code 2, 3 and 4 name the cluster, the core and the
slot. -/
def Launch.seat (l : Launch) (site : List (List (List Nat))) (m : Nat) : Nat :=
  let vs := l.memberFields.zip (mixed (l.memberFields.map l.count) m)
  let idx (c : Nat) : Nat := (vs.filter (fun x => l.place x.1 == c)).foldl (fun n x => n * l.count x.1 + x.2) 0
  ((site.getD (idx 2) []).getD (idx 3) []).getD (idx 4) 0

/-- Chooses the slots of the next gang. -/
def State.planGang (s : State) (p : Nat) (l : Launch) : Option (List Nat × State) :=
  let (v, s') := s.free
  let fs := l.memberOf (l.created / max 1 l.gangSize) 0
  match (l.groups fs).findSome? (fun g => s.gangIn p l g v.toNat) with
  | none => none
  | some site => some ((List.range l.gangSize).map (fun m => l.seat site m), s')

/-- The slots are idle, and their cores can take the launch. -/
def State.gangReady (s : State) (p : Nat) (l : Launch) : Bool :=
  l.gangPlan.all (fun t => !(s.thread t).occ && s.mayTake (t / 4) p (some (l.tcmMin, l.tcmMax)) && s.paramRoom (t / 4) 4)

/-- The gang's channels get exactly its slots as members, none of which has arrived. -/
def State.gangChannels (s : State) (l : Launch) : State :=
  l.channels.foldl (fun (s : State) ch =>
    let s := s.clearChannel ch
    l.gangPlan.foldl (fun (s : State) t =>
      let s := s.setMembers ch (t / 4) (smGet 0 s.members (1024 * ch + t / 4) ||| 2 ^ (t % 4))
      s.modThread t (fun x => x.setArr ch false false)) s) s

/-- Starts the next gang: its records, its channels, all members in one clock. -/
def State.startGang (s : State) (p : Nat) (l : Launch) (slots : List Nat) : State :=
  let g := l.created / max 1 l.gangSize
  let s := s.gangChannels l
  let s := (List.range l.gangSize).foldl (fun (s : State) m =>
    let t := l.gangPlan.getD m 0
    let u := l.ordinal (l.memberOf g m)
    let slot := if bitsN l.frames 4 0 = 0 then u else slots.getD m 0
    let r := l.frameBase slot + 0x3FC0
    let (s, ok) := s.createUnit p (t / 4) l u slot (some (t, g))
    if ok then s.take t p r (some (l.tcmMin, l.tcmMax)) else s) s
  let s := s.modLaunch p l.addr (fun l => { l with gangLeft := l.gangLeft + l.gangSize, gangPlan := [] })
  s.refreshMin p l.addr

/-- GANG_START (R272): it reserves the slots of the next gang, or, with all of them idle, starts it. -/
def execGangStart (s : State) : Host.Outcome State Fault Refusal :=
  event (fun s =>
    let p := s.ev.part
    match s.findLaunch p s.ev.v with
    | none => s
    | some l =>
      if !l.isGang || l.ended || l.units ≤ l.created || (l.channels != [] && l.gangLeft != 0) then s
      else if l.gangPlan = [] then
        match s.planGang p l with
        | none => s
        | some (plan, s) => s.modLaunch p l.addr (fun l => { l with gangPlan := plan })
      else if l.gangPlan.any (fun t => !(s.coreTakes p (t / 4)) && !(s.core (t / 4)).preempted) then
        s.modLaunch p l.addr (fun l => { l with gangPlan := [] })
      else if !(s.gangReady p l) then s
      else match l.freeSlots 0 l.gangSize with
        | none => s
        | some slots => s.startGang p l slots) s

/-! ### Pre-emption (R283 to R285) -/

/-- The other cores of the gangs that have a member on a core (R272). -/
def State.gangCores (s : State) (cid : Nat) : List Nat :=
  let here := (s.threads.filter (fun x => x.1 / 4 == cid && x.2.occ && x.2.gang)).map (fun x =>
      (x.2.part, x.2.launch, x.2.gangNo)) ++
    s.parts.flatMap (fun x => x.2.conts.filterMap (fun y => match y.2 with
      | some c => if c.slot.any (fun t => t / 4 == cid) then some (x.1, c.launch, c.gangNo) else none
      | none => none))
  let there (g : Nat × Word × Nat) : List Nat :=
    (s.threads.filter (fun x => x.2.occ && x.2.gang && (x.2.part, x.2.launch, x.2.gangNo) == g)).map (fun x => x.1 / 4) ++
    (s.part g.1).conts.filterMap (fun y => match y.2 with
      | some c => if (c.launch, c.gangNo) == g.2 then c.slot.map (fun t => t / 4) else none
      | none => none)
  ((here.flatMap there).filter (fun c => c != cid)).eraseDups

/-- The cores that a pre-emption of some cores takes with them, step by step: a core of a gang that gives way takes the
cores of its other gangs (R272). -/
def State.gangClosure (s : State) : Nat → List Nat → List Nat
  | 0, cs => cs
  | n + 1, cs =>
    let new := ((cs.flatMap s.gangCores).filter (fun c => !(cs.contains c))).eraseDups
    if new = [] then cs else s.gangClosure n (cs ++ new)

/-- Does a thread wait to enter an exchange phase, or before it for the drains of its XPHASE (R301)? -/
def Thread.entering (t : Thread) : Bool :=
  t.xarr.isSome || (match t.wait with
    | some ⟨.phaseEntry _, _⟩ => true
    | some ⟨.entering _ _, _⟩ => true
    | _ => false)

/-- Is a core in an exchange phase, or does a thread of it wait to enter one (R305)? -/
def State.phaseHeld (s : State) (cid : Nat) : Bool :=
  (s.core cid).inph || (List.range 4).any (fun k => (s.thread (4 * cid + k)).entering)

/-- The cores that a pre-empt message to a core takes, if all of them can take it now: none of them is in an exchange phase
or enters one (R272, R305). -/
def State.preemptSet (s : State) (cid : Nat) : Option (List Nat) :=
  let all := s.gangClosure 1024 [cid]
  if all.any s.phaseHeld then none else some all

/-- A pre-empt message ends a WFI: the instruction, of one parcel, is complete (R118). -/
def State.finishWfi (s : State) (tid : Nat) : State :=
  match (s.thread tid).wait with
  | some ⟨.wfi, _⟩ => s.modThread tid (fun t => t.advance t.pc (t.pc + 2))
  | _ => s

/-- A core stops issuing for a pre-emption: waits of WFI end (R118), open captures close (R239), speculative segments abort,
others commit. -/
def State.preemptBegin (s : State) (cid : Nat) : State :=
  let s := s.modCore cid (fun c => { c with preempted := true, preemptHeld := false })
  let s := (List.range 4).foldl (fun (s : State) k =>
    let tid := 4 * cid + k
    let s := (s.finishWfi tid).modThread tid Thread.closeCapture
    let t := s.thread tid
    if !t.occ then s
    else if s.speculative t then s.abort tid
    else if t.entries ≠ [] then s.post 0 .segmentCommitComplete { tid := tid }
    else s) s
  s.post 1 .preemptMessage { core := cid, n := 1 }

/-- Nothing of a thread is on its way that a pre-emption waits for (R283, R355). -/
def State.quiet (s : State) (tid : Nat) : Bool :=
  let t := s.thread tid
  !t.occ || (t.vuq == [] && t.entries == [] && t.redfOut == 0 && t.meshOut == 0
    && t.outOM + t.outAD + t.outRT == 0 && (t.stopped || (!t.owes && !t.landing && t.held.isNone)))

/-- The pending fault that a pre-emption delivers to a thread, as a suspension point does, but for MAU faults, which are saved:
the first of those that R398 orders (R241, R330, R349). None where the handler is active (DESIGN CHOICE, log 95) or
while the segment's start is speculative. -/
def State.preemptFault (s : State) (tid : Nat) : State :=
  let t := s.thread tid
  if !t.occ || t.stopped || t.level = .F || hact t || s.speculative t then s
  else match t.pendVec, t.pendRemote, t.pendReduce with
    | some (f, _), _, _ => s.deliverPending tid .vec f
    | none, some f, _ => s.deliverPending tid .remote f
    | none, none, some f => s.deliverPending tid .reduce f
    | none, none, none => s

/-- A thread is suspended for a pre-emption: ST 6, KIND 8, in its slot. A waiting LDFE is withdrawn (R107). The flags
that its commands still raise are gathered in the slot (R209). -/
def State.preemptThread (s : State) (tid : Nat) : State :=
  let t := s.thread tid
  if !t.occ || t.stopped || t.level = .F then s
  else
    let s := s.leaveBank tid
    let r := do
      let s ← s.saveRegs tid
      let s ← s.saveVec tid
      s.writeRecord tid 6 8 (tid / 4) t.level.toNat t.pc t.loopst
    match r with
    | .error (f, s) => s.frameFault tid f
    | .ok s => (s.modThread tid (fun t => { t with
        st := 6, wait := none, opDone := false, meshVal := none, late := 0, fbuf := [],
        sregs := frameAll t.sregs, fregs := frameAll t.fregs })).refreshOf tid

/-- The doublewords of a core's context block that are not zero (R284). -/
def State.contextWords (s : State) (cid : Nat) : List (Nat × Word) :=
  let c := s.core cid
  let th (k : Nat) : Thread := s.thread (4 * cid + k)
  let lens4 := c.q4.length + c.q5.length * 16 + c.q6.length * 256 + c.q7.length * 4096
  let pend := (List.range 4).foldl (fun n k => n + b2n (th k).pendMau.isSome * 2 ^ k) 0
  let qs (k : Nat) : List (List Word) := [(th k).q0, (th k).q1, (th k).q2, (th k).q3]
  let lens (k : Nat) : Nat := ((qs k).zip (List.range 4)).foldl (fun n x => n + x.1.length * 2 ^ (32 * (k % 2) + 8 * x.2)) 0
  let entries (off : Nat) (q : List Word) : List (Nat × Word) :=
    (q.zip (List.range 16)).map (fun x => (off + 8 * x.2, x.1))
  [(0, BitVec.ofNat 64 (lens4 + pend * 65536)), (8, BitVec.ofNat 64 (lens 0 + lens 1)),
   (16, BitVec.ofNat 64 (lens 2 + lens 3))] ++
  (List.range 4).map (fun k => (0x18 + 8 * k, match (th k).pendMau with
    | some f => f.info
    | none => 0)) ++
  ([c.q4, c.q5, c.q6, c.q7].zip (List.range 4)).flatMap (fun x => entries (0x40 + 64 * x.2) x.1) ++
  (List.range 4).flatMap (fun k => ((qs k).zip (List.range 4)).flatMap (fun x =>
    entries (0x140 + 512 * k + 128 * x.2) x.1))

/-- Saves the queues, the pending MAU faults and the mailbox of a core (R283 to R285). A pending fault goes on discarding
the thread's later commands (R206). -/
def State.saveCore (s : State) (cid : Nat) : State :=
  let base := Config.contextBlock cid
  let s := (s.contextWords cid).foldl (fun (s : State) x => s.chipWrite {} (cellsOf (base + x.1) 8 x.2.toNat)) s
  let s := (s.core cid).port.foldl (fun (s : State) x => s.copyDelivered cid x.1) s
  let s := s.modCore cid (fun c => { c with
    q4 := [], q5 := [], q6 := [], q7 := [], spillq := c.mailbox.map (fun x => (x.1, x.2, 0)) ++ c.port ++ c.spillq, mailbox := [], port := [],
    portOut := c.portOut + c.port.length, saved := true })
  (List.range 4).foldl (fun (s : State) k => s.modThread (4 * cid + k) (fun t => { t with
    q0 := [], q1 := [], q2 := [], q3 := [] })) s

/-- PREEMPT_MESSAGE (R283, R305): `n` = 0 the message, 1 the end of the drain. -/
def execPreemptMessage (s : State) : Host.Outcome State Fault Refusal :=
  event (fun s =>
    let cid := s.ev.core
    if s.ev.n = 1 then
      if !(s.core cid).preempted || (s.core cid).saved then s
      else if (List.range 4).all (fun k => s.quiet (4 * cid + k)) then
        ((List.range 4).foldl (fun (s : State) k => (s.preemptFault (4 * cid + k)).preemptThread (4 * cid + k)) s).saveCore cid
      else
        let s := (List.range 4).foldl (fun (s : State) k =>
          if (s.thread (4 * cid + k)).entries = [] then s
          else s.post 0 .segmentCommitComplete { tid := 4 * cid + k }) s
        s.post 16 .preemptMessage { core := cid, n := 1 }
    else if (s.core cid).preempted then s
    else match s.preemptSet cid with
      | none => s.modCore cid (fun c => { c with preemptHeld := true })
      | some all => all.foldl (fun (s : State) c => if (s.core c).preempted then s else s.preemptBegin c) s) s

/-- Reads a queue of a context block back. -/
def State.contextQueue (s : State) (cid off n : Nat) : List Word :=
  (List.range n).map (fun j => BitVec.ofNat 64 (s.pread (Config.contextBlock cid + off + 8 * j) 8))

/-- A thread goes back into its slot (R282, R283): the record's words are restored, registers are framed, the
copy-engine registers are zero (R257); flags of commands that have completed meanwhile are added (R209). -/
def State.replace (s : State) (tid : Nat) : State :=
  let t := s.thread tid
  let words := (List.range 8).map (fun k => t.record + BitVec.ofNat 64 (8 * k))
  if t.st ≠ 6 then s
  else match words.findSome? (fun a => s.framePoison t.part (tid / 4) a) with
  | some a => s.frameFault tid ⟨cMCHECK, BitVec.ofNat 64 (a % 2 ^ 48)⟩
  | none =>
    let s := words.foldl (fun (s : State) a => s.frameTouch t.part (tid / 4) a) s
    let rd (a : Word) : Nat := (s.frameRead t.part (tid / 4) a).toNat
    let pcw := rd t.record
    let st := rd (t.record + 0x28)
    let lw := rd (t.record + 0x30)
    let s := s.setThread tid { s.thread tid with
      st := 2, pc := sextW pcw 48 &&& ~~~1#64, level := if st.testBit 56 then .S else .U,
      fctl := BitVec.ofNat 64 (bitsN st 45 43 * 32 + (bitsN st 42 38 ||| t.late.toNat)), late := 0,
      vctl := BitVec.ofNat 64 (bitsN st 55 49 + bitsN st 48 46 * 256),
      loopst := loopOf pcw st lw, queue := bitsN st 60 57, ce := [], wait := none, segNew := true }
    let s := s.loadVec tid
    match s.frameWrite t.part (tid / 4) (t.record + 0x28) (putBits (BitVec.ofNat 64 st) 63 61 2) with
    | .ok s' => s'.refreshOf tid
    | .error c => s.frameFault tid ⟨c, t.record + 0x28⟩

/-- RESUME_MESSAGE (R283, R285). -/
def execResumeMessage (s : State) : Host.Outcome State Fault Refusal :=
  event (fun s =>
    let cid := s.ev.core
    let c := s.core cid
    if !c.preempted then s.modCore cid (fun c => { c with preemptHeld := false })
    else if !c.saved then s.post 16 .resumeMessage { core := cid }
    else
      let w0 := s.contextQueue cid 0 3
      let at_ (k : Nat) : Nat := (w0.getD k 0).toNat
      let q4 (j : Nat) : List Word := s.contextQueue cid (0x40 + 64 * j) (bitsN (at_ 0) (4 * j + 3) (4 * j))
      let qi (k i : Nat) : List Word :=
        let b := 4 * k + i
        s.contextQueue cid (0x140 + 512 * k + 128 * i) (bitsN (at_ (1 + b / 8)) (8 * (b % 8) + 7) (8 * (b % 8)))
      let fault (k : Nat) : Option Flt :=
        if (at_ 0).testBit (16 + k) then some ⟨cMAU, (s.contextQueue cid (0x18 + 8 * k) 1).headD 0⟩ else none
      let s := (List.range 4).foldl (fun (s : State) k =>
        (s.modThread (4 * cid + k) (fun t => { t with
          q0 := qi k 0, q1 := qi k 1, q2 := qi k 2, q3 := qi k 3, pendMau := fault k <|> t.pendMau })).replace
          (4 * cid + k)) s
      let s := s.modCore cid (fun c => { c with
        q4 := q4 0, q5 := q4 1, q6 := q4 2, q7 := q4 3, preempted := false, saved := false })
      s.reseat.postNow .mailboxPortDrain { core := cid }) s

/-! ### SPAWN, SUSPEND, YIELD (R289 to R291) -/

/-- Whether a record waits for a SPAWN, by the words that memory holds (R289). -/
def State.spawnable (s : State) (p cid : Nat) (r : Word) : Bool :=
  let st := bitsN (s.frameRead p cid (r + 0x28)).toNat 63 61
  let kind := bitsN (s.frameRead p cid (r + 0x20)).toNat 63 60
  st == 5 || (st == 3 && kind == 7)

/-- The effect of a SPAWN of record `r`: ST 1, KIND 0, at the tail of its queue. A record that no continuation
of the machine stands for gets the spawner's cluster and launch (log 24). -/
def State.spawnRecord (s : State) (p cid : Nat) (r : Word) (stamp : Nat) (launch : Option Word) : State :=
  let s := s.frameTouch p cid (r + 0x28)
  if !(s.spawnable p cid r) then s
  else
    let q := bitsN (s.frameRead p cid (r + 0x28)).toNat 60 57
    let c : Cont := match s.cont p r with
      | some c => { c with queue := q }
      | none => { st := 5, stamp := (s.frameRead p cid (r + 0x10)).toNat, launch := launch.getD 0,
                  inLaunch := launch.isSome, cluster := cid / 8, core := cid, kind := 6, obj := 0, queue := q }
    (s.setCont p r (some c)).makeReady p r stamp

/-- SPAWN (R289): a release, after the thread's earlier stores (R318, R320). -/
def execSpawn (o : Src1) (s : State) : Host.Outcome State Fault Refusal :=
  plain (do
    deliverReduce
    let r ← o.read
    if r.toNat % 64 ≠ 0 then trap cMISALIGN r
    storesPerformed
    commitOnly
    irrevocable
    modify (fun s =>
      s.spawnRecord s.th.part s.cid r s.th.tstamp.toNat (if s.th.inLaunch then some s.th.launch else none))) s

/-- The pending faults, in the order of R398. -/
def deliverAll : Sem Unit := do
  deliverVec
  deliverMau
  deliverRemote
  deliverReduce

/-- SUSPEND (R290, R282). A first pass of the detaching form, with the drains behind it, makes its store and keeps the value
it read; the segment then commits. -/
def execSuspend (o : Src1) (s : State) : Host.Outcome State Fault Refusal :=
  moving (do
    let s0 ← get
    if s0.inPhase s0.cur then deliverAll
    notInPhase
    let v ← match s0.th.suspVal with
      | some v => pure v
      | none => o.read
    let s ← get
    let t := s.th
    if t.level = .S && hact t then
      suspensionPoint
      let s ← get
      let t := s.th
      let f : Flt := ⟨bitsN t.ecause.toNat 7 0, t.einfo⟩
      match s.frameWrite t.part s.cid (t.record + 0x38) (faultWord false f) with
      | .error c => set (s.frameFault s.cur ⟨c, t.record + 0x38⟩)
      | .ok s => set (s.suspendSlot s.cur 3 7 (bitsN t.einfo.toNat 47 0) (bitsN t.ecause.toNat 9 8) t.epc t.eloop)
    else if v = 0 then suspendAfter 0 0 0
    else if t.suspVal.isSome then
      commitPoint
      leaveSlot 5 6 v.toNat
    else
      deliverAll
      let _ ← check (.store 8) v
      drainAll
      storeN v 8 t.record.toNat
      modify (fun s => s.modTh (fun t => { t with suspVal := some v, wait := none }))) s

/-- YIELD (R291): a gang member only commits. -/
def execYield (s : State) : Host.Outcome State Fault Refusal :=
  moving (do
    let s ← get
    if s.inPhase s.cur then deliverAll
    notInPhase
    if s.th.gang then
      commitOnly
      goOn
    else suspendAfter 1 0 0) s

/-! ### WID, timestamps, tickets, queues, the generator (R292 to R294) -/

/-- Field k of a work identifier (R270, R292). -/
def widField (shape wid k : Nat) : Nat :=
  let nf := bitsN shape 38 36
  let width (j : Nat) : Nat := bitsN shape (6 * j + 5) (6 * j)
  let low := (List.range nf).foldl (fun n j => if k < j then n + width j else n) 0
  wid / 2 ^ low % 2 ^ width k

/-- WID (R292). -/
def execWid (o : Un) (s : State) : Host.Outcome State Fault Refusal :=
  plain (do
    let k ← o.read
    let s ← get
    let t := s.th
    writeS o.d (if bitsN t.wshape.toNat 38 36 ≤ k.toNat then 0xFFFFFFFFFFFFFFFF
      else BitVec.ofNat 64 (widField t.wshape.toNat t.wid.toNat k.toNat))) s

/-- TSSET (R293): the segment that follows carries the larger stamp. -/
def execTsset (o : Src1) (s : State) : Host.Outcome State Fault Refusal :=
  plain (do
    let v ← o.read
    commitOnly
    modify (fun s => (s.modTh (fun t => { t with
      tstamp := BitVec.ofNat 64 (max t.tstamp.toNat v.toNat) })).refreshOf s.cur)) s

/-- TSGET (R293). -/
def execTsget (d : Reg) (s : State) : Host.Outcome State Fault Refusal :=
  plain (do
    let s ← get
    writeS d s.th.tstamp) s

/-- TICKET (R294). -/
def execTicket (o : Bin) (s : State) : Host.Outcome State Fault Refusal :=
  privileged .S (do
    let (q, n) ← o.read
    if bitsN q.toNat 63 4 ≠ 0 || bitsN n.toNat 63 16 ≠ 0 then illegalOp
    irrevocable
    let s ← get
    let old := smGet 0 s.myPart.tickets q.toNat
    set (s.modPart s.th.part (fun p => { p with tickets := smSet 0 p.tickets q.toNat n.toNat }))
    writeS o.d (BitVec.ofNat 64 old)) s

/-- FORQ (R294). -/
def execForq (o : Un) (s : State) : Host.Outcome State Fault Refusal :=
  plain (do
    let q ← o.read
    if bitsN q.toNat 63 4 ≠ 0 then illegalOp
    let s ← get
    let old := s.th.queue
    set (s.modTh (fun t => { t with queue := q.toNat }))
    writeS o.d (BitVec.ofNat 64 old)) s

/-- RNGJ (R294): 40 clk, during which the thread is no candidate. -/
def execRngj (o : Src1) (s : State) : Host.Outcome State Fault Refusal :=
  plain (do
    let v ← o.read
    let s ← get
    let g := genJump v.toNat s.th.genLo s.th.genHi
    set ((s.modTh (fun t => { t with genLo := g.1, genHi := g.2 })).pauseFor 40)) s

end Sys2Proof.Machine
end

