-- ==== Sys2Proof/Machine/Exchange.lean ====
section
/-! DEFINITION. Timed exchange phases (R296 to R305): XPHASE, XSEND, XSEL, and the steps of the lanes. -/

namespace Sys2Proof.Machine

/-- The delay of a lane from one cluster to another (R297). -/
def laneDelay (src dst : Nat) : Nat :=
  4 + natDist (meshCol src) (meshCol dst) + natDist (meshRow src) (meshRow dst) + 8 * natDist (src / 32) (dst / 32)

/-- The phase clock of a core (R296). -/
def State.phaseClock (s : State) (cid : Nat) : Nat := s.clk - (s.core cid).phaseStart

/-- Only the thread that entered the core's phase (R300). -/
def phaseOwner : Sem Unit := do
  let s ← get
  if !(s.inPhase s.cur) then illegalOp

/-- After a forced end at which no thread waited, the next exchange instruction raises SLOT_LATE, clears FEND and
does nothing else (R298); `pre` comes before it. -/
def afterForced (pre : Sem Unit) (body : State → Host.Outcome State Fault Refusal) (s : State) :
    Host.Outcome State Fault Refusal :=
  if s.myCore.fend then
    let guard : Sem Unit := do
      loopGuard false
      pre
      irrevocable
    match guard s with
    | .ok _ _ => .next ((s.modMyCore (fun c => { c with fend := false })).raise s.cur ⟨cSLOTLATE, 0x10000⟩)
    | .error _ _ => Sem.run guard s
  else body s

/-- SLOT_LATE with the slot and the phase clock (R302). -/
def slotLate (k : Word) (c : Nat) : Sem Unit :=
  trap cSLOTLATE (BitVec.ofNat 64 (bitsN k.toNat 31 0 + c * 2 ^ 32))

/-- The pending faults that XPHASE delivers (R206, R241). -/
def deliverPhase : Sem Unit := do
  deliverVec
  deliverMau

/-- The waits of an XPHASE that enters a phase, told apart from those of other instructions (R301, R305). -/
def asEntering (ch : Nat) (m : Sem Unit) : Sem Unit := fun s => match m s with
  | .error (.block (.phaseEntry k)) t => .error (.block (.phaseEntry k)) t
  | .error (.block w) t => .error (.block (.entering ch w)) t
  | r => r

/-- What XPHASE wbN tests first: pending faults, then that its core is in no phase and that no other thread of it waits in
XPHASE (R301, R398). -/
def mayEnter (k : Nat) : Sem Unit := do
  noTest
  deliverPhase
  let s ← get
  if s.th.xarr ≠ some k then deliverReduce
  let others := (List.range 4).any (fun j =>
    4 * s.cid + j != s.cur && (s.thread (4 * s.cid + j)).entering)
  if s.th.xarr ≠ some k && (s.myCore.inph || others) then illegalOp

/-- XPHASE wbN (R301): a first pass arrives, as BARR does; then the thread waits for the release, as BARW does. -/
def execXphaseEnter (ch : BitVec 6) (s : State) : Host.Outcome State Fault Refusal :=
  afterForced (mayEnter ch.toNat) (moving (do
    let k := ch.toNat
    mayEnter k
    let s ← get
    if s.th.xarr = some k then
      if s.th.opDone then
        set (s.modTh (fun t => { t with xarr := none, segNew := true }))
        goOn
      else
        asEntering k (do
          drainAll
          commitPoint
          block (.phaseEntry k))
    else
      asEntering k (barArrive k (.phaseEntry k))
      modify (fun s => s.modTh (fun t => { t with xarr := some k, opDone := false, wait := none })))) s

/-- XPHASE none (R301): it waits for the armed captures, then the core leaves its phase. -/
def execXphaseLeave (s : State) : Host.Outcome State Fault Refusal :=
  afterForced deliverPhase (plain (do
    deliverPhase
    let s ← get
    if s.myCore.inph then
      phaseOwner
      if s.myCore.armedSlots ≠ [] then block .armed
      set (s.modMyCore (fun c => { c with inph := false })))) s

/-- XSEND (R302): the data is read at issue and transmitted in phase clock k; until then the thread is no candidate. -/
def execXsend (o : Mem) (s : State) : Host.Outcome State Fault Refusal :=
  afterForced (pure ()) (plain (do
    phaseOwner
    irrevocable
    let (v, k) ← o.storeEa
    let s ← get
    let c := s.phaseClock s.cid
    if 65535 < k.toNat || k.toNat < c then slotLate k c
    let e : Ev := { tid := s.cur, core := s.cid, since := s.myCore.phaseStart, v := v, n := k.toNat }
    set (if k.toNat = c then s.postNow .xsendTransmit e
      else ((s.modTh (fun t => { t with paused := true })).post (k.toNat - c) .xsendTransmit e).post
        (k.toNat - c + 1) .pauseExpiry { tid := s.cur }))) s

/-- XSEND_TRANSMIT (R302): the word is on the core's lane in this clock. A lane keeps the
words of the last 64 clk, more than the longest delay. -/
def execXsendTransmit (s : State) : Host.Outcome State Fault Refusal :=
  event (fun s =>
    let e := s.ev
    let c := s.core e.core
    if c.inph && c.phaseStart == e.since then
      s.setCore e.core { c with
        lane := smSet none (c.lane.filter (fun x => decide (s.clk < x.1 + 64))) s.clk (some e.v) }
    else s) s

/-- What an XSEL that waits for a free capture keeps: its operands, and what reading them has popped and freed (R303). -/
def MemT.waiting (o : MemT) (d k t : Word) : XselWait :=
  let rs : List (Reg × Word × Bool) := [(o.d, d, o.ud), (o.base, k - o.off, o.ub), (o.t, t, o.ut)]
  { addr := d, slot := k, source := t,
    pops := (rs.filter (fun r => decide (56 ≤ r.1.toNat))).map (fun r => (r.1.toNat, r.2.1)),
    freed := (rs.filter (fun r => r.2.2 && decide (0 < r.1.toNat ∧ r.1.toNat < 56))).map (fun r => (r.1.toNat, r.2.1)) }

/-- XSEL (R303, R407). One that waits for a free capture has read its operands (R67); they are kept until it arms. -/
def execXsel (o : MemT) (s : State) : Host.Outcome State Fault Refusal :=
  afterForced (pure ()) (moving (do
    phaseOwner
    irrevocable
    let s ← get
    let waiting := s.th.xsel.isSome
    let (d, k, t) ← match s.th.xsel with
      | some x => pure (x.addr, x.slot, x.source)
      | none => o.storeEa
    let s ← get
    let c := s.phaseClock s.cid
    if bitsN t.toNat 63 10 ≠ 0 then illegalOp
    if !(s.clusterOk s.th.part (t.toNat / 8)) then priv
    if 65535 < k.toNat || (!waiting && decide (k.toNat ≤ c)) then slotLate k c
    if d.toNat % 8 ≠ 0 then trap cMISALIGN d
    if d.toNat ≥ s.myCore.tcmMax * 0x10000 then trap cPROT d
    if s.myCore.armedSlots.any (fun x => x.1 == k.toNat) then illegalOp
    if 32 ≤ s.myCore.armedSlots.length then
      set (if waiting then s.park .armed
        else (s.modTh (fun t' => { t' with xsel := some (MemT.waiting o d k t) })).park .armed)
    else
      if k.toNat ≤ c then slotLate k c
      let s := s.modMyCore (fun c => { c with armedSlots := c.armedSlots ++ [(k.toNat, t.toNat, d.toNat)] })
      let s := s.modTh (fun t' => { t' with xsel := none })
      set (s.post (k.toNat - c) .xselCapture { core := s.cid, since := s.myCore.phaseStart, n := k.toNat })
      goOn)) s

/-- A capture that found no word (R299). -/
def Core.missed (c : Core) (n : Nat) : Core :=
  if n = 0 then c else { c with miss := 1, mcnt := min 65535 (c.mcnt + n) }

/-- XSEL_CAPTURE (R297, R303): the word that the source's lane carried Δ clocks before goes to TCM, through the L1
for an overflow offset. -/
def execXselCapture (s : State) : Host.Outcome State Fault Refusal :=
  event (fun s =>
    let cid := s.ev.core
    let k := s.ev.n
    let c := s.core cid
    if !c.inph || c.phaseStart ≠ s.ev.since then s
    else match c.armedSlots.find? (fun x => x.1 == k) with
      | none => s
      | some (_, src, d) =>
        let delay := laneDelay (src / 8) (cid / 8)
        let word : Option Word := if k < delay then none else smGet none (s.core src).lane (s.clk - delay)
        let s := s.modCore cid (fun c => { c with armedSlots := c.armedSlots.filter (fun x => x.1 != k) })
        match word with
        | some v => s.tcmStore cid d 8 v.toNat
        | none => s.modCore cid (fun c => c.missed 1)) s

/-- PHASE_FORCED_END (R298): captures not taken count as misses; a thread that waits in the phase raises SLOT_LATE,
which consumes FEND. -/
def execPhaseForcedEnd (s : State) : Host.Outcome State Fault Refusal :=
  event (fun s =>
    let cid := s.ev.core
    let c := s.core cid
    if !c.inph || c.phaseStart ≠ s.ev.since then s
    else
      let waiting := match (s.thread c.phaseTid).wait with
        | some ⟨.armed, _⟩ => true
        | _ => false
      let s := s.setCore cid { c.missed c.armedSlots.length with inph := false, armedSlots := [], fend := !waiting }
      if waiting then s.raise c.phaseTid ⟨cSLOTLATE, 0x10000⟩ else s) s

end Sys2Proof.Machine
end

