-- ==== Sys2Proof/Machine/Remote.lean ====
section
/-! DEFINITION. The remote instructions (R344 to R355) and the routing engine (R332 to R335, R356, R357). -/

namespace Sys2Proof.Machine

/-! ### Issue (R344 to R346) -/

/-- Class 3 is reserved (R50). -/
def classOk (cls : BitVec 2) : Sem Unit := do
  let s ← get
  if cls = 3 then trap cCLASS s.baseInfo

/-- The device that t names. -/
def devOf (t : Word) : Nat := bitsN t.toNat 13 0

/-- The checks of R345, steps 1 to 3: the rule on d, the bits of t in use, the alignment, the device. -/
def remoteCheck (dOk : Bool) (used : Nat) (size : Nat) (ea t : Word) : Sem Unit := do
  if !dOk || t &&& ~~~(BitVec.ofNat 64 used) ≠ 0 then illegalOp
  if ea.toNat % size ≠ 0 then trap cMISALIGN ea
  let s ← get
  if !(s.allowed s.th.part (devOf t)) then trap cPROT t

/-- At most 64 operations of a thread are outstanding (R345). -/
def remoteRoom : Sem Unit := do
  irrevocable
  let s ← get
  if 64 ≤ s.th.outOM + s.th.outAD + s.th.outRT then block .remote

/-- The packet of an operation of the running thread. -/
def State.opPacket (s : State) (kind cls dst : Nat) (addr : Word) (data : List Word) (aux : Word) : Packet :=
  { kind := kind, cls := cls, vc := 0, gen := 0, seq := 0, src := s.devid, dst := dst, part := s.th.part,
    score := s.cid, slot := s.cur % 4, addr := addr, data := data, aux := aux, mid := none }

/-- The operation is sent and outstanding (R346). -/
def State.sendOp (s : State) (p : Packet) : State := (s.modTh (fun t => t.outgoing p.cls)).sendPacket p

/-- Bits of t that RWR and RWRB use: DEV, LAND, TBI, TBK. -/
def usedRwr : Nat := 0x3FFF + 2 ^ 14 + 0x3FF * 2 ^ 16 + 0x7F * 2 ^ 26

/-- RWR (R344, R347). -/
def execRwr (o : MemT) (cls : BitVec 2) (s : State) : Host.Outcome State Fault Refusal :=
  plain (do
    classOk cls
    let (v, ea, t) ← o.storeEa
    remoteCheck true usedRwr 8 ea t
    remoteRoom
    modify (fun s => s.sendOp (s.opPacket 0 cls.toNat (devOf t) ea [v] t))) s

/-- RWRB (R344, R347). -/
def execRwrb (o : MemT) (cls : BitVec 2) (s : State) : Host.Outcome State Fault Refusal :=
  plain (do
    noTest
    classOk cls
    let (vs, ea, t) ← o.storeEaF 8
    remoteCheck (decide (o.d.toNat % 8 = 0)) usedRwr 64 ea t
    remoteRoom
    modify (fun s => s.sendOp (s.opPacket 1 cls.toNat (devOf t) ea vs t))) s

/-- RENQ (R344, R350): the local status address is checked at issue. -/
def execRenq (o : MemT) (cls : BitVec 2) (s : State) : Host.Outcome State Fault Refusal :=
  plain (do
    noTest
    classOk cls
    let (vs, ea, t) ← o.storeEaF 8
    remoteCheck (decide (o.d.toNat ≤ 56)) (0x3FFF + 0xF * 2 ^ 16) 64 ea t
    let _ ← check (.store 8) ea
    remoteRoom
    modify (fun s => s.sendOp
      (s.opPacket 4 cls.toNat (devOf t) (BitVec.ofNat 64 (bitsN t.toNat 19 16)) vs ea))) s

/-- Must the thread itself wait for the response of a RAMO or RCAS: with an acquire no later access may come before it, and
a queue port takes the value at the instruction (R67, R348). -/
def holdsFor (d : Reg) (c : Ctl) : Bool := c.order.toNat.testBit 0 || decide (56 ≤ d.toNat)

/-- The operation is sent, and its register waits for the response (R348). A later write of the register stands
(DESIGN CHOICE, log 83). -/
def State.sendOwed (s : State) (d : Reg) (p : Packet) : State :=
  let n := s.th.opNo
  let s := s.sendOp { p with aux := p.aux ||| BitVec.ofNat 64 (2 ^ 63 + n % 2 ^ 31 * 2 ^ 32) }
  s.modTh (fun t => { t with
    opNo := (n + 1) % 2 ^ 31,
    sregs := if d = 0 then t.sregs else smSet .dead t.sregs d.toNat (.owed (n % 2 ^ 31) (t.getS d.toNat)) })

/-- RAMO and RCAS (R348): the operation is sent, and the thread goes on; where it holds for the response, that ends the
instruction. A failed one leaves d unchanged (R349). -/
def remoteReturn (d : Reg) (c : Ctl) (cls : BitVec 2) (send : Sem Packet) (s : State) :
    Host.Outcome State Fault Refusal :=
  moving (do
    classOk cls
    let s ← get
    if s.th.awaiting then
      match s.th.response with
      | none => block .remote
      | some r =>
        set (s.modTh (fun t => { t with awaiting := false, response := none }))
        match r with
        | some v => writeS d v
        | none => pure ()
        goOn
    else
      if Ctl.releases c then deliverReduce
      if d = 58 ∨ d = 59 then illegalOp
      let p ← send
      irrevocable
      if Ctl.releases c then
        storesPerformed
        commitOnly
        waitRemote
      remoteRoom
      if holdsFor d c then
        modify (fun s => (s.sendOp p).modTh (fun t => { t with awaiting := true, wait := none }))
      else
        modify (fun s => s.sendOwed d p)
        goOn) s

/-- RAMO (R348): the operation and the size travel in `aux`. -/
def execRamo (o : MemT) (op : AtomOp) (cls : BitVec 2) (c : Ctl) (s : State) : Host.Outcome State Fault Refusal :=
  remoteReturn o.d c cls (do
    let (v, ea, t) ← o.storeEa
    let w := if op.w32 then 4 else 8
    remoteCheck true 0x3FFF w ea t
    let s ← get
    pure (s.opPacket 2 cls.toNat (devOf t) ea [v] (BitVec.ofNat 64 (op.op.toNat + b2n op.w32 * 16)))) s

/-- RCAS (R348): d compares, d + 1 is new. -/
def execRcas (o : MemT) (cls : BitVec 2) (c : Ctl) (s : State) : Host.Outcome State Fault Refusal :=
  remoteReturn o.d c cls (do
    if o.d.toNat % 2 ≠ 0 || 54 < o.d.toNat then illegalOp
    let new ← readS (BitVec.ofNat 6 (o.d.toNat + 1))
    let (old, ea, t) ← o.storeEa
    remoteCheck true 0x3FFF 8 ea t
    let s ← get
    pure (s.opPacket 3 cls.toNat (devOf t) ea [old, new] 0)) s

/-- FENCER (R353). -/
def execFencer (mask : BitVec 3) (s : State) : Host.Outcome State Fault Refusal :=
  plain (do
    let s ← get
    let t := s.th
    let m := mask.toNat
    if (m.testBit 0 && t.outOM != 0) || (m.testBit 1 && t.outAD != 0) || (m.testBit 2 && t.outRT != 0) then
      block .remote
    match t.pendRemote with
    | some f => if m.testBit (bitsN f.info.toNat 49 48) then throw (.pending .remote f)
    | none => pure ()) s

/-! ### Registers of the routing engine (R332, R334) -/

/-- EWR re.list (R332). -/
def execReListWrite (o : Src1) (s : State) : Host.Outcome State Fault Refusal :=
  plain (do
    let v ← o.read
    if bitsN v.toNat 63 6 ≠ 0 then illegalOp
    modify (fun s => s.modTh (fun t => { t with reList := v.toNat }))) s

/-- EWR re.hdr (R332). -/
def execReHdrWrite (o : Src1) (s : State) : Host.Outcome State Fault Refusal :=
  plain (do
    let v ← o.read
    if bitsN v.toNat 17 16 = 3 then classOk 3
    irrevocable
    modify (fun s => s.modList s.th.part s.th.reList (fun x => { x with hdr := v &&& 0x33FFF }))) s

/-- The FILL word of a descriptor (R334). -/
def RecvBuf.fillWord (b : RecvBuf) : Nat := b.fill % 65536 + b.passed % 65536 * 2 ^ 32

/-- EWR re.buf (R334): an image is accepted or refused; the engine's FILL word starts at zero. -/
def execReBufRegister (o : Src1) (s : State) : Host.Outcome State Fault Refusal :=
  plain (do
    let a ← o.read
    if a.toNat % 32 ≠ 0 then trap cMISALIGN a
    if regionOf a ≠ .chip then trap cPROT a
    irrevocable
    let base ← readPerformed a
    let tags ← readPerformed (a + 8)
    let cap ← readPerformed (a + 16)
    let s ← get
    let p := s.th.part
    let n := bitsN cap.toNat 8 0
    let bad := decide (n = 0 ∨ 256 < n ∨ bitsN cap.toNat 63 14 ≠ 0 ∨ base.toNat % 64 ≠ 0 ∨ tags.toNat % 8 ≠ 0)
    let refuse : State := s.modTh (fun t => { t with reStatus := 1 })
    let b : RecvBuf := { valid := true, part := p, base := base, tags := tags, cap := n, image := a }
    set (if bad then refuse
      else match s.remoteWrite p (a + 24) 8 0 with
        | .error _ => refuse
        | .ok s =>
          let s := s.modTh (fun t => { t with reStatus := 0 })
          if cap.toNat.testBit 13 then { s with spill := b }
          else { s with bufs := smSet {} s.bufs (bitsN cap.toNat 12 9) b })) s

/-- EWR re.flush (R332, R335): the records appended since the previous flush are the snapshot. -/
def execReFlush (o : Src1) (s : State) : Host.Outcome State Fault Refusal :=
  plain (do
    let v ← o.read
    if bitsN v.toNat 63 6 ≠ 0 then illegalOp
    irrevocable
    let s ← get
    let p := s.th.part
    let l := v.toNat
    let x := smGet {} s.myPart.lists l
    let accs := if x.accs.any (fun a => a.fid == x.fid) then x.accs else x.accs ++ [{ fid := x.fid }]
    let close (a : FlushAcc) : FlushAcc := if a.fid = x.fid then { a with closed := true, core := s.cid, hdr := x.hdr } else a
    let done := accs.any (fun a => a.fid == x.fid && a.acked == a.count)
    let s := s.modList p l (fun _ => { x with accs := accs.map close, fid := x.fid + 1 })
    set (if done then s.post 0 .flushSummary { part := p, list := l, fid := x.fid } else s)) s

/-- RTSEND (R356): the record enters its list; it is outstanding in the class of the list's header (R353). -/
def execRtsend (o : Src3) (s : State) : Host.Outcome State Fault Refusal :=
  plain (do
    let (d, w0, w1) ← o.read
    if bitsN d.toNat 63 6 ≠ 0 then illegalOp
    let s ← get
    if !(s.myPart.rlmask.toNat.testBit d.toNat) then priv
    irrevocable
    let l := d.toNat
    let x := smGet {} s.myPart.lists l
    if 256 ≤ x.recs.length then block .room
    let r : SendRec := { w0 := w0, w1 := w1, hdr := x.hdr, level := s.th.level, tid := s.cur, fid := x.fid }
    let accs := if x.accs.any (fun a => a.fid == x.fid) then x.accs else x.accs ++ [{ fid := x.fid }]
    let count (a : FlushAcc) : FlushAcc := if a.fid = x.fid then { a with count := a.count + 1 } else a
    let s := s.modList s.th.part l (fun _ => { x with recs := x.recs ++ [r], accs := accs.map count })
    let s := s.modTh (fun t => t.outgoing (bitsN x.hdr.toNat 17 16))
    set (s.post 1 .routeRecordSend { part := s.th.part, list := l })) s

/-! ### The sending engine (R333) -/

/-- A record with a field that is not allowed. -/
def SendRec.malformed (r : SendRec) : Bool :=
  let w0 := r.w0.toNat
  let len := bitsN w0 55 48
  bitsN w0 63 56 != 0 || bitsN r.w1.toNat 31 22 != 0 || decide (len = 0 ∨ 4 < len) || w0 % 64 != 0

/-- 64 bytes of a payload, at the record's level (R441). -/
def State.payloadRead (s : State) (p : Nat) (lv : Level) (ea : Word) : Except Nat (Nat × State) :=
  match regionOf ea with
  | .cluster c off =>
    if !(s.clusterOk p c) then .error cPROT
    else match s.spadPoison c off 64 with
      | some _ => .error cMCHECK
      | none => .ok ((s.cluster c).read off 64, s)
  | .chip => s.engineRead p lv ea 64
  | _ => .error cPROT

/-- The low `n` words of a number. -/
def natWords : Nat → Nat → List Word
  | 0, _ => []
  | n + 1, v => BitVec.ofNat 64 v :: natWords n (v / 2 ^ 64)

/-- A whole payload. -/
def State.payload (s : State) (p : Nat) (lv : Level) (ea : Word) : Nat → Except Nat (List Word × State)
  | 0 => .ok ([], s)
  | n + 1 => do
    let (v, s) ← s.payloadRead p lv ea
    let (rest, s) ← s.payload p lv (ea + 64) n
    pure (natWords 8 v ++ rest, s)

/-- A token's first data word: FWD in [0], the device and class under which its source sent it. -/
def tokenMeta (fwd : Bool) (dst cls : Nat) : Word := BitVec.ofNat 64 (b2n fwd + dst * 2 + cls * 2 ^ 16)

/-- ROUTE_RECORD_SEND (R333): the list's oldest record is sent, or acknowledged at once as spilled. -/
def execRouteRecordSend (s : State) : Host.Outcome State Fault Refusal :=
  event (fun s =>
    let p := s.ev.part
    let l := s.ev.list
    match (smGet {} (s.part p).lists l).recs with
    | [] => s
    | r :: rest =>
      let s := s.modList p l (fun x => { x with recs := rest })
      let dst := bitsN r.hdr.toNat 13 0
      let cls := bitsN r.hdr.toNat 17 16
      let drop (s : State) (bit : Nat) : State :=
        (s.modThread r.tid (fun t => t.retire cls)).recordDone p l r.fid 2 bit
      if r.malformed then drop s 1
      else if !(s.allowed p dst) || s.fabric.failed.contains dst then drop s 2
      else match s.payload p r.level (sextW r.w0.toNat 48) (bitsN r.w0.toNat 55 48) with
        | .error _ => drop s 2
        | .ok (ws, s) =>
          let s := s.modList p l (fun x => { x with inflight := x.inflight + 1 })
          s.sendPacket { kind := 5, cls := cls, vc := 0, gen := 0, seq := 0, src := s.devid, dst := dst, part := p,
                         score := r.tid / 4, slot := r.tid % 4, addr := BitVec.ofNat 64 (l + 64 * r.fid),
                         data := tokenMeta false dst cls :: ws, aux := r.w1, mid := none }) s

/-! ### The destination engine (R334, R356) -/

/-- A payload written in units of 64 bytes. -/
def State.putPayload (s : State) (p : Nat) (ea : Word) : List Word → Nat → Except Nat State
  | _, 0 => .ok s
  | ws, n + 1 => do
    let s ← s.remoteWrite p ea 64 (wordsNat (ws.take 8))
    s.putPayload p (ea + 64) (ws.drop 8) n

/-- Payload and tag in a slot of a buffer. -/
def State.putToken (s : State) (p : Packet) (b : RecvBuf) (fwd : Bool) : Except Nat State := do
  let ws := p.data.drop 1
  let len := ws.length / 8
  let s ← s.putPayload p.part (b.slot p) ws len
  s.remoteWrite p.part b.tag 8
    (bitsN p.aux.toNat 63 32 + p.src * 2 ^ 32 + b2n fwd * 2 ^ 47)

/-- The engine writes a descriptor's FILL word. -/
def State.writeFill (s : State) (b : RecvBuf) : State :=
  match s.remoteWrite b.part (b.image + 24) 8 b.fillWord with
  | .ok s => s
  | .error _ => s

def State.setBuf (s : State) (loc : Nat) (b : RecvBuf) : State :=
  ({ s with bufs := smSet {} s.bufs loc b }).writeFill b

/-- A token goes to the spill area, or is discarded and counted. -/
def State.spillToken (s : State) (p : Packet) (fwd : Bool) : State :=
  let b := s.spill
  if !(b.is p) then { s with discards := s.discards + 1 }
  else if b.cap ≤ b.fill then
    let b := { b with passed := b.passed + 1 }
    ({ s with spill := b }).writeFill b
  else match s.putToken p b fwd with
    | .error _ => { s with discards := s.discards + 1 }
    | .ok s =>
      let b := { b with fill := b.fill + 1 }
      ({ s with spill := b }).writeFill b

/-- Places a token in a buffer with room; a write that fails makes it spill, with FWD as it stands. Answers the result of
R335. -/
def State.placeToken (s : State) (p : Packet) (loc : Nat) (fwd : Bool) (res : Nat) : State × Nat :=
  let b := smGet {} s.bufs loc
  match s.putToken p b fwd with
  | .error _ => (s.spillToken p fwd, 2)
  | .ok s => (s.setBuf loc { b with fill := b.fill + 1 }, res)

/-- A token that an expert's buffer could not take and passed on. -/
def State.passOn (s : State) (p : Packet) (loc : Nat) : State :=
  let b := smGet {} s.bufs loc
  if b.is p then s.setBuf loc { b with passed := b.passed + 1 } else s

/-- TOKEN_ARRIVAL (R334). -/
def execTokenArrival (s : State) : Host.Outcome State Fault Refusal :=
  event (fun s => match s.ev.pkt with
    | none => s
    | some p =>
      if s.pairHeld p then s.post 16 .tokenArrival s.ev
      else if !(s.accepts p) then s.nak p
      else
        let s := (s.accept p).logArrival p
        let before := s
        let m := (p.data.headD 0).toNat
        let room (loc : Nat) : Bool :=
          let b := smGet {} s.bufs loc
          b.is p && decide (b.fill < b.cap)
        let loc1 := bitsN p.aux.toNat 3 0
        let loc2 := bitsN p.aux.toNat 7 4
        let dev2 := bitsN p.aux.toNat 21 8
        let reply (x : State × Nat) : State :=
          let q := { p with cls := bitsN m 17 16 }
          before.answerAfter x.1 (answerTo q (bitsN m 14 1) 0 (BitVec.ofNat 64 x.2))
        if m.testBit 0 then
          reply (if room loc2 then s.placeToken p loc2 true 1 else (s.spillToken p true, 2))
        else if room loc1 then reply (s.placeToken p loc1 false 0)
        else if dev2 = s.devid && room loc2 then
          let (s, r) := s.placeToken p loc2 true 1
          reply (s.passOn p loc1, r)
        else if dev2 ≠ s.devid && s.named dev2 && !(s.fabric.failed.contains dev2) then
          let q := { p with dst := dev2, cls := 2, mid := none, data := BitVec.ofNat 64 (m - m % 2 + 1) :: p.data.drop 1 }
          (s.passOn p loc1).inject q
        else reply (s.spillToken p true, 2)) s

/-- FLUSH_SUMMARY (R335): the entry of kind 10 goes to the flushing thread's core. -/
def execFlushSummary (s : State) : Host.Outcome State Fault Refusal :=
  event (fun s =>
    let p := s.ev.part
    let l := s.ev.list
    match (smGet {} (s.part p).lists l).accs.find? (fun a => a.fid == s.ev.fid && a.closed) with
    | none => s
    | some a =>
      let w0 := 2 ^ 63 + l * 2 ^ 56 + a.status % 256 * 2 ^ 48 + a.count % 65536 * 2 ^ 32 + a.second % 65536 * 65536
        + a.spilled % 65536
      let s := s.modList p l (fun x => { x with accs := x.accs.filter (fun y => y.fid != a.fid) })
      s.toMailbox a.core (BitVec.ofNat 64 w0) a.hdr 0) s

end Sys2Proof.Machine
end

