-- ==== Sys2Proof/Machine/Stream.lean ====
section
/-! DEFINITION. Collective streams (R359, R361 to R364): the router's stream entries, markers (SMARK), reductions
(RRED) at routers and at the endpoint. -/

namespace Sys2Proof.Machine

/-! ### Entries (R361) -/

namespace StreamEnt

def ctl (e : StreamEnt) : Nat := (smGet 0 e.words 0).toNat
def nset (e : StreamEnt) : Nat := bitsN e.ctl 3 0
def cur (e : StreamEnt) : Nat := bitsN e.ctl 10 8
def limit (e : StreamEnt) : Nat := bitsN e.ctl 31 16
/-- The current port-set. -/
def set (e : StreamEnt) : Nat := (smGet 0 e.words (1 + e.cur)).toNat
def op (e : StreamEnt) : Nat := bitsN e.set 33 32
def outs (e : StreamEnt) : List Nat := (List.range 9).filter (fun p => (bitsN e.set 24 16).testBit p)
def ins (e : StreamEnt) : List Nat := (List.range 9).filter (fun p => (bitsN e.set 8 0).testBit p)

/-- May a packet from a port go through the entry? -/
def takes (e : StreamEnt) (port : Nat) : Bool :=
  decide (1 ≤ e.nset ∧ e.nset ≤ 8 ∧ e.op ≠ 3) && e.ins.contains port && (e.op != 0 || e.outs.length == 1)

end StreamEnt

def State.entry (s : State) (k : Nat) : StreamEnt := smGet {} s.fabric.streams k
def State.setEntry (s : State) (k : Nat) (e : StreamEnt) : State :=
  { s with fabric := { s.fabric with streams := smSet {} s.fabric.streams k e } }

/-- STREAM_ENTRY_WRITE (R361): word `idx` of entry `stream`; CUR is 0 after a write of the control word. -/
def execStreamEntryWrite (s : State) : Host.Outcome State Fault Refusal :=
  event (fun s =>
    let v := if s.ev.idx = 0 then s.ev.v &&& 0xFFFFFF000F else s.ev.v &&& 0x301FF01FF
    if 8 < s.ev.idx then s
    else
      let e := s.entry s.ev.stream
      s.setEntry s.ev.stream { e with words := smSet 0 e.words s.ev.idx v }) s

/-- A packet is discarded, and the entry error is reported to firmware. -/
def State.entryError (s : State) (k : Nat) : State :=
  { s with errors := s.errors ++ [(3, BitVec.ofNat 64 k)] }

/-- A number that no outstanding stream operation has. -/
def State.streamSeq (s : State) : Nat := s.fabric.flight.foldl (fun n p => max n (p.seq + 1)) 65536

/-- An operation on a stream is outstanding. -/
def State.sendStream (s : State) (p : Packet) : State :=
  let s := s.modTh (fun t => t.outgoing p.cls)
  { s with fabric := { s.fabric with flight := s.fabric.flight ++ [p] } }

/-- The acknowledgement of an operation of this or of another device, once the stale notices that its delivery has caused
since `before` are acknowledged (R346, R349, R362, R363). -/
def State.ackStream (before s : State) (p : Packet) (status : Nat) : State :=
  before.answerAfter s (answerTo p s.devid status 0)

/-- A stream that the partition may use. -/
def streamOk (k : Nat) : Sem Unit := do
  let s ← get
  if !(s.myPart.stmask.testBit k) then priv

/-! ### Markers (R362) -/

/-- SMARK (R362): the address of the marker packet, which the spec does not give, is a free value (log 5). -/
def execSmark (o : Src2) (s : State) : Host.Outcome State Fault Refusal :=
  plain (do
    let (d, v) ← o.read
    if bitsN d.toNat 63 8 ≠ 0 then illegalOp
    streamOk d.toNat
    remoteRoom
    let s ← get
    let (a, s) := s.free
    let p := { s.opPacket 8 0 s.devid (sextW a.toNat 48) [v] d with seq := s.streamSeq, vc := 7, gen := s.fabric.gen }
    set ((s.sendStream p).post 120 .markerArrival { pkt := some p, port := 8, stream := d.toNat })) s

/-- A packet leaves on the ports outside, when there is room for it on every one of them (R359). -/
def State.leave (s : State) (inPort : Nat) (outs : List Nat) (ps : List Packet) : State :=
  let outs := outs.filter (fun k => decide (k < 8))
  if outs = [] then s
  else { s with fabric := Fabric.spread { s.fabric with branches := s.fabric.branches ++ [⟨linkKey inPort 7, outs, ps⟩] } }

/-- A marker delivered to the endpoint: a remote write of its value, logged as one (R331), and its status. -/
def State.deliverMarker (s : State) (p : Packet) : State × Nat :=
  let s := s.logArrival p
  match s.remoteWrite p.part p.addr 8 (p.data.headD 0).toNat with
  | .error c => (s, c)
  | .ok s => (s, 0)

/-- MARKER_ARRIVAL (R362): with a marker from every input the router forwards one and steps; which of the markers'
values goes on is a free value (log 5). A marker that leaves the device is acknowledged from outside. -/
def execMarkerArrival (s : State) : Host.Outcome State Fault Refusal :=
  event (fun s =>
    let s := s.woken
    let k := s.ev.stream
    let port := s.ev.port
    let e := s.entry k
    match s.ev.pkt with
    | none => s
    | some p =>
      if !s.fabric.powered then s.skid .markerArrival
      else if !(e.takes port) then s.entryError k
      else if e.markers.any (fun m => m.1 == port) then s.setEntry k { e with waiting := e.waiting ++ [s.ev] }
      else if e.outs.contains 8 && (e.markers ++ [(port, p)]).any (fun m => s.pairHeld { m.2 with cls := 1 }) then
        s.post 16 .markerArrival s.ev
      else
        let ms := e.markers ++ [(port, p)]
        if !(e.ins.all (fun i => ms.any (fun m => m.1 == i))) then s.setEntry k { e with markers := ms }
        else
          let next := putBits (smGet 0 e.words 0) 10 8 ((e.cur + 1) % e.nset)
          let s := s.setEntry k { e with markers := [], waiting := [], words := smSet 0 e.words 0 next }
          let (v, s) := s.free
          let q := ((ms.getD (v.toNat % ms.length) (port, p)).2)
          let s := s.leave port e.outs [q]
          let outside := e.outs.any (fun x => decide (x < 8))
          let s := if e.outs.contains 8 then
              let before := s
              let (s, st) := s.deliverMarker q
              if outside then s else ms.foldl (fun (s : State) m => before.ackStream s m.2 st) s
            else s
          e.waiting.foldl (fun (s : State) w => match w.red with
            | some _ => s.post 0 .reductionPacketArrival w
            | none => s.post 0 .markerArrival w) s) s

/-! ### Reductions at a router (R363) -/

/-- RRED (R363): each value becomes FX64 under the scale; the class governs only FENCER. -/
def execRred (o : MemT) (cls : BitVec 2) (s : State) : Host.Outcome State Fault Refusal :=
  plain (do
    noTest
    classOk cls
    let (vs, ea, t) ← o.storeEaF 4
    if o.d.toNat % 4 ≠ 0 || bitsN t.toNat 63 33 ≠ 0 then illegalOp
    streamOk (bitsN t.toNat 7 0)
    if ea.toNat % 128 ≠ 0 then trap cMISALIGN ea
    irrevocable
    let s ← get
    let e : Int := (sextW (bitsN t.toNat 15 8) 8).toInt
    let lanes := vs.flatMap (fun v => [bitsN v.toNat 31 0, bitsN v.toNat 63 32])
    let fx := lanes.map (fun c => fx64Of e (decodeIeee 23 c))
    let i := bitsN t.toNat 23 16
    let k := bitsN t.toNat 7 0
    let p := { s.opPacket 6 cls.toNat s.devid ea [] (BitVec.ofNat 64 (k + 256 * i)) with
      seq := s.streamSeq, vc := 7, gen := s.fabric.gen }
    let r : RedPacket := {
      stream := k, ea := ea, part := s.th.part
      words := fx.map (fun x => BitVec.ofInt 64 x.1)
      map := 2 ^ i, sat := fx.any (fun x => x.2), e := bitsN t.toNat 15 8, k := bitsN t.toNat 31 24 + 1,
      fp32 := t.toNat.testBit 32, combined := false, mis := false, who := [p], head := some p }
    set ((s.sendStream p).post 120 .reductionPacketArrival { red := some r, port := 8, stream := k })) s

/-- The two flits of a reduction packet, under its header: payload, and bitmap with SAT, e, K, mode. -/
def redFlits (r : RedPacket) (dev gen : Nat) : List Packet :=
  let own : Packet := {
    kind := 6, cls := 0, vc := 7, gen := gen, seq := 0, src := dev, dst := dev, part := r.part, score := 0, slot := 0,
    addr := r.ea, data := [], aux := 0, mid := none }
  let h := r.head.getD own
  let p (kind : Nat) (ws : List Word) : Packet :=
    { h with kind := kind, vc := 7, part := r.part, addr := r.ea, data := ws, aux := BitVec.ofNat 64 r.stream }
  [p 6 r.words, p 7 (natWords 4 r.map ++ [BitVec.ofNat 64 (b2n r.sat + b2n r.fp32 * 2 + b2n r.mis * 4 + r.e * 256 + r.k * 65536)])]

/-- Two steps' packets that cannot be combined. -/
def redDiffers (a b : RedPacket) : Bool := a.e != b.e || a.k != b.k || a.fp32 != b.fp32 || a.ea != b.ea

/-- Sums of words, ORs of maps and of SAT; the operations that contribute. -/
def combineRed (r : RedPacket) (rs : List RedPacket) : RedPacket :=
  rs.foldl (fun a b => { a with
    words := (a.words.zip b.words).map (fun x => x.1 + x.2), map := a.map ||| b.map, sat := a.sat || b.sat,
    mis := a.mis || b.mis, combined := true, who := a.who ++ b.who }) r

/-- A reduction packet goes out: on ports outside, and to the own endpoint. What reaches endpoints of other devices is
acknowledged from there, when every one of them has it (R363). How a delivery finds the operations that it acknowledges the
spec does not say: each packet carries them (DESIGN CHOICE, log 86). -/
def State.sendRed (s : State) (port : Nat) (outs : List Nat) (r : RedPacket) : State :=
  let away := outs.any (fun x => decide (x < 8))
  let s := s.leave port outs (redFlits r s.devid s.fabric.gen)
  if outs.contains 8 then
    s.postNow .endpointReductionArrival { red := some { r with who := if away then [] else r.who }, stream := r.stream }
  else s

/-- The gather of a stream at the router. -/
def State.gatherOf (s : State) (k : Nat) : Option Gather := s.fabric.gathers.find? (fun g => g.stream == k)
def State.dropGather (s : State) (k : Nat) : State :=
  { s with fabric := { s.fabric with gathers := s.fabric.gathers.filter (fun g => g.stream != k) } }
def State.putGather (s : State) (g : Gather) : State :=
  { s.dropGather g.stream with fabric := { (s.dropGather g.stream).fabric with
      gathers := (s.dropGather g.stream).fabric.gathers ++ [g] } }

/-- The packets present go on combined. -/
def State.closeGather (s : State) (port : Nat) (g : Gather) : State :=
  let s := s.dropGather g.stream
  match g.pkts with
  | [] => s
  | r :: rs =>
    let c := combineRed r rs
    s.sendRed port (s.entry g.stream).outs { c with mis := c.mis || g.mis }

/-- REDUCTION_PACKET_ARRIVAL (R361, R363): one that differs from the step's first is its input's packet of the step, and goes
on alone. -/
def execReductionPacketArrival (s : State) : Host.Outcome State Fault Refusal :=
  event (fun s =>
    let s := s.woken
    let k := s.ev.stream
    let port := s.ev.port
    let e := s.entry k
    match s.ev.red with
    | none => s
    | some r =>
      if !s.fabric.powered then s.skid .reductionPacketArrival
      else if !(e.takes port) then s.entryError k
      else if e.markers.any (fun m => m.1 == port) then s.setEntry k { e with waiting := e.waiting ++ [s.ev] }
      else if e.op ≠ 2 then s.postNow .multicastForward s.ev
      else if e.late.contains (r.ea, port) then
        (s.setEntry k { e with late := e.late.filter (fun x => x != (r.ea, port)) }).sendRed port e.outs r
      else match s.gatherOf k with
        | none =>
          let g : Gather := { stream := k, ea := r.ea, since := s.clk, pkts := [r], ports := [port] }
          if e.ins = [port] then s.closeGather port g
          else
            let s := s.putGather g
            if e.limit = 0 then s else s.post (16 * e.limit) .reduceLimitExpiry { stream := k, since := s.clk }
        | some g =>
          let alone := g.pkts.any (fun x => redDiffers x r)
          let g := { g with mis := g.mis || alone }
          if g.ports.contains port then (s.putGather g).sendRed port e.outs r
          else
            let g := { g with pkts := if alone then g.pkts else g.pkts ++ [r], ports := port :: g.ports }
            let s := if alone then s.sendRed port e.outs r else s
            if e.ins.all (fun i => g.ports.contains i) then s.closeGather port g else s.putGather g) s

/-- REDUCE_LIMIT_EXPIRY (R363): an input that the step has missed sends its packet on alone later. -/
def execReduceLimitExpiry (s : State) : Host.Outcome State Fault Refusal :=
  event (fun s => match s.gatherOf s.ev.stream with
    | none => s
    | some g =>
      if g.since ≠ s.ev.since then s
      else
        let e := s.entry g.stream
        let missed := (e.ins.filter (fun i => !(g.ports.contains i))).map (fun i => (g.ea, i))
        (s.setEntry g.stream { e with late := e.late ++ missed }).closeGather 8 g) s

/-- MULTICAST_FORWARD (R359, R361): the packet leaves on every output, or on the one of a forward set. -/
def execMulticastForward (s : State) : Host.Outcome State Fault Refusal :=
  event (fun s => match s.ev.red with
    | some r => s.sendRed s.ev.port (s.entry s.ev.stream).outs r
    | none => s) s

/-! ### Reductions at the endpoint (R363, R364) -/

/-- The set bits of a map. -/
def mapCount (m : Nat) : Nat := ((List.range 256).filter (fun i => m.testBit i)).length

/-- The delivered block: FX64 words, or FP32 values and 32 zero bytes. -/
def redBlock (r : RedPacket) : Nat :=
  if r.fp32 then
    let e : Int := (sextW r.e 8).toInt
    (r.words.map (fun w => fx64ToFp32 e w.toInt)).foldr (fun c n => c + 2 ^ 32 * n) 0
  else wordsNat r.words

/-- The status doubleword. -/
def redStatus (r : RedPacket) (inc mis part dup : Bool) : Nat :=
  b2n inc * 2 ^ 12 + b2n mis * 2 ^ 11 + b2n part * 2 ^ 10 + b2n dup * 2 ^ 9 + b2n r.sat * 2 ^ 8
    + (mapCount r.map - 1) % 256

/-- Acknowledges the operations whose contributions have been delivered or discarded here. -/
def State.ackRed (before s : State) (who : List Packet) (st : Nat) : State :=
  who.foldl (fun (s : State) p => before.ackStream s p st) s

def sameStep (k : Nat) (ea : Word) (g : Gather) : Bool := g.stream == k && g.ea == ea

/-- Delivery: the block, then its status, as remote writes, logged as such (R331); the closed record stands for 2^27 clk. -/
def State.deliverRed (s : State) (g : Gather) (inc : Bool) : State :=
  let s := { s with fabric := { s.fabric with endpoint := s.fabric.endpoint.filter (fun x => !(sameStep g.stream g.ea x)) } }
  match g.pkts with
  | [] => s
  | r :: rs =>
    let c := combineRed r rs
    let st := redStatus c inc (c.mis || g.mis) (rs != []) g.dup
    let before := s
    let s := (redFlits c s.devid s.fabric.gen).foldl (fun (s : State) p => s.logArrival p) s
    let (e1, s) := match s.remoteWrite c.part c.ea 64 (redBlock c) with
      | .error x => (x, s)
      | .ok s => (0, s)
    let (e2, s) := match s.remoteWrite c.part (c.ea + 64) 8 st with
      | .error x => (x, s)
      | .ok s => (0, s)
    let rec_ : ClosedRec := {
      stream := c.stream, ea := c.ea, part := c.part, map := c.map, status := BitVec.ofNat 64 st,
      since := s.clk }
    let kept := s.fabric.closed.drop (s.fabric.closed.length - 255)
    let s := { s with fabric := { s.fabric with closed := kept ++ [rec_] } }
    let s := s.post (2 ^ 27) .closedRecordExpiry { stream := c.stream, v := c.ea, since := s.clk }
    before.ackRed s c.who (if e1 = 0 then e2 else e1)

/-- Would the notices of a delivery be late, so that it waits (R388, log 26)? -/
def State.redHeld (s : State) (p : Nat) (ea : Word) : Bool := s.writeHeld (s.runLines p [(ea, 72)])

/-- A packet joins the accumulation of its step, or opens one; what is discarded is acknowledged then (DESIGN CHOICE, log
86). -/
def State.accumulate (s : State) (r : RedPacket) : State :=
  match s.fabric.endpoint.find? (sameStep r.stream r.ea) with
  | none =>
    let g : Gather := { stream := r.stream, ea := r.ea, since := s.clk, pkts := [r] }
    if mapCount r.map = r.k then s.deliverRed g false
    else
      let s := { s with fabric := { s.fabric with endpoint := s.fabric.endpoint ++ [g] } }
      s.post (2 ^ 26) .endpointIncompleteTimeout { stream := r.stream, v := r.ea, since := s.clk }
  | some g =>
    let map := g.pkts.foldl (fun m x => m ||| x.map) 0
    let put (g : Gather) : State := { s with fabric := { s.fabric with
      endpoint := s.fabric.endpoint.map (fun x => if sameStep g.stream g.ea x then g else x) } }
    if g.pkts.any (fun x => redDiffers x r) then s.ackRed (put { g with mis := true }) r.who 0
    else if map &&& r.map ≠ 0 then s.ackRed (put { g with dup := true }) r.who 0
    else
      let g := { g with pkts := g.pkts ++ [r] }
      if mapCount (map ||| r.map) = r.k then s.deliverRed g false else put g

/-- ENDPOINT_REDUCTION_ARRIVAL (R363, R364). -/
def execEndpointReductionArrival (s : State) : Host.Outcome State Fault Refusal :=
  event (fun s => match s.ev.red with
    | none => s
    | some r =>
      if s.redHeld r.part r.ea then s.post 16 .endpointReductionArrival s.ev
      else match s.fabric.closed.find? (fun c => c.stream == r.stream && c.ea == r.ea) with
      | none => s.accumulate r
      | some c =>
        let drop : List ClosedRec := s.fabric.closed.filter (fun (x : ClosedRec) => !(x.stream == r.stream && x.ea == r.ea))
        if c.map &&& r.map ≠ 0 then { s with fabric := { s.fabric with closed := drop } }.accumulate r
        else
          let st := c.status ||| 0x2000
          let before := s
          let s := ((redFlits r s.devid s.fabric.gen).drop 1).foldl (fun (s : State) p => s.logArrival p) s
          let s := { s with fabric := { s.fabric with closed := s.fabric.closed.map (fun (x : ClosedRec) =>
            if x.stream = r.stream ∧ x.ea = r.ea then { x with status := st } else x) } }
          let s := match s.remoteWrite c.part (c.ea + 64) 8 st.toNat with
            | .error _ => s
            | .ok s => s
          before.ackRed s r.who 0) s

/-- ENDPOINT_INCOMPLETE_TIMEOUT (R363). -/
def execEndpointIncompleteTimeout (s : State) : Host.Outcome State Fault Refusal :=
  event (fun s => match s.fabric.endpoint.find? (sameStep s.ev.stream s.ev.v) with
    | none => s
    | some g =>
      if g.since ≠ s.ev.since then s
      else if g.pkts.any (fun r => s.redHeld r.part r.ea) then s.post 16 .endpointIncompleteTimeout s.ev
      else s.deliverRed g true) s

/-- CLOSED_RECORD_EXPIRY (R364). -/
def execClosedRecordExpiry (s : State) : Host.Outcome State Fault Refusal :=
  event (fun s => { s with fabric := { s.fabric with closed := s.fabric.closed.filter (fun c =>
    !(c.stream == s.ev.stream && c.ea == s.ev.v && c.since == s.ev.since)) } }) s

end Sys2Proof.Machine
end

