-- ==== Sys2Proof/Machine/Pod.lean ====
section
/-! DEFINITION. Pod barriers (R365 to R368). -/

namespace Sys2Proof.Machine

/-- The key of a pod barrier's arrival record in a thread slot: 64 + 64 partition + barrier. -/
def podKey (p b : Nat) : Nat := 64 + 64 * p + b

def State.pod (s : State) (p b : Nat) : Pod := smGet {} (s.part p).pods b
def State.setPod (s : State) (p b : Nat) (x : Pod) : State :=
  s.modPart p (fun q => { q with pods := smSet {} q.pods b x })

/-- The barrier that a source names (R365). -/
def podOperand (o : Src1) : Sem Nat := do
  let v ← o.read
  if bitsN v.toNat 63 6 ≠ 0 then illegalOp
  let s ← get
  if !(s.myPart.pbmask.toNat.testBit v.toNat) then priv
  pure v.toNat

/-- RPBAR (R366): as BARR, after every earlier remote operation is acknowledged. -/
def execRpbar (o : Src1) (s : State) : Host.Outcome State Fault Refusal :=
  plain (do
    deliverVec
    deliverReduce
    let b ← podOperand o
    syncVec
    commitOnly
    let s ← get
    let p := s.th.part
    let k := podKey p b
    if s.th.arrA k && s.th.arrRP k == (s.pod p b).phase then
      drainAll
      commitPoint
      block (.pod b)
    storesDone
    waitRemote
    let s ← get
    let x := s.pod p b
    let s := (s.modTh (fun t => t.setArr k true x.phase)).setPod p b { x with count := x.count + 1 }
    set (match x.cfg with
      | some c => if x.count + 1 = c.lc then s.post 0 .podDeviceArrival { part := p, ch := b } else s
      | none => s)) s

/-- RPWAIT (R366): as BARW. -/
def execRpwait (o : Src1) (s : State) : Host.Outcome State Fault Refusal :=
  plain (do
    deliverVec
    deliverMau
    let b ← podOperand o
    let s ← get
    let p := s.th.part
    let k := podKey p b
    if (s.th.arrA k && s.th.arrRP k != (s.pod p b).phase) || s.th.opDone then
      set (s.modTh (fun t => t.setArr k false (t.arrRP k)))
      passed
    else
      drainAll
      commitPoint
      block (.pod b)) s

/-- A signal of a pod barrier to another device (kind 10): 0 an arrival, 1 a release with its time T (R367; log 90). -/
def State.podSignal (s : State) (p b kind dst : Nat) (t : Word) : State :=
  s.inject { kind := 10, cls := 0, vc := 7, gen := s.fabric.gen, seq := 0, src := s.devid, dst := dst, part := p, score := 0,
             slot := b, addr := t, data := [], aux := BitVec.ofNat 64 kind, mid := none }

/-- POD_DEVICE_ARRIVAL (R366, R367): the device arrives at the tree; at the root a member device is counted. -/
def execPodDeviceArrival (s : State) : Host.Outcome State Fault Refusal :=
  event (fun s =>
    let p := s.ev.part
    let b := s.ev.ch
    let x := s.pod p b
    match x.cfg with
    | none => s
    | some c =>
      let from_ := match s.ev.pkt with
        | some q => q.src
        | none => s.devid
      if c.root ≠ s.devid then (if s.ev.pkt.isSome then s else s.podSignal p b 0 c.root 0)
      else if !(c.members.contains from_) then s
      else
        let s := s.setPod p b { x with arrived := x.arrived + 1 }
        if x.arrived + 1 = c.members.length then s.post 0 .podRootComplete { part := p, ch := b } else s) s

/-- POD_ROOT_COMPLETE (R367): T is the root's pod time plus the allowance; every member is told. -/
def execPodRootComplete (s : State) : Host.Outcome State Fault Refusal :=
  event (fun s =>
    let p := s.ev.part
    let b := s.ev.ch
    let x := s.pod p b
    match x.cfg with
    | none => s
    | some c =>
      let t := BitVec.ofNat 64 (s.clk + c.allow)
      let s := (c.members.filter (fun d => d != s.devid)).foldl (fun (s : State) d => s.podSignal p b 1 d t)
        (s.setPod p b { x with arrived := 0 })
      if c.members.contains s.devid then s.postNow .podRelease { part := p, ch := b, v := t } else s) s

/-- The release of a pod barrier: the phase flips, and every local waiter goes on. -/
def State.podFlip (s : State) (p b : Nat) : State :=
  let x := s.pod p b
  let s := s.setPod p b { x with phase := !x.phase, count := 0 }
  s.threads.foldl (fun (s : State) t => match t.2.wait with
    | some ⟨.pod k, _⟩ => if k = b ∧ t.2.part = p then s.released t.1 0 else s
    | _ => s) s

/-- The clk from T to the first release of a member: ⌊i × W ÷ N⌋ ns, W in steps of 50 ns, in whole clk of 0.8 ns (R1,
R367). -/
def podStagger (c : PodCfg) : Nat := (c.index * c.window * 50 / max 1 c.members.length * 5 + 3) / 4

/-- POD_RELEASE (R367): the message arrives (`n` = 0), and the release follows in its window, at a free value within
200 ns (log 5); a message that arrives at T or later releases at once. -/
def execPodRelease (s : State) : Host.Outcome State Fault Refusal :=
  event (fun s =>
    let p := s.ev.part
    let b := s.ev.ch
    if s.ev.n = 1 then s.podFlip p b
    else match (s.pod p b).cfg with
      | none => s
      | some c =>
        let t := s.ev.v.toNat
        if t ≤ s.clk then s.podFlip p b
        else
          let (v, s) := s.free
          s.post (t + podStagger c + v.toNat % 250 - s.clk) .podRelease { part := p, ch := b, n := 1 }) s

/-- POD_BARRIER_CONFIGURATION (R365): a window of more than 100 µs is not taken. -/
def execPodBarrierConfiguration (s : State) : Host.Outcome State Fault Refusal :=
  event (fun s =>
    let x := s.pod s.ev.part s.ev.ch
    match s.ev.pod with
    | some c => if 2000 < c.window then s else s.setPod s.ev.part s.ev.ch { x with cfg := some c }
    | none => s.setPod s.ev.part s.ev.ch { x with cfg := none }) s

end Sys2Proof.Machine
end

