-- ==== Sys2Proof/Machine/Derived.lean ====
section
/-! DEFINITION. Derived tensors: registration, release, status and refresh (R371, R372, R381, R382, R390 to R394). -/

namespace Sys2Proof.Machine

/-- The rule of a handle in the rule caches. -/
def State.ruleOf (s : State) (p h : Nat) : Option Rule := s.rules.find? (fun r => r.part == p && r.h == h)

/-- The dependence table exists (R381). -/
def dvOk (h : Word) : Sem Unit := do
  let s ← get
  if s.myPart.dvbase = 0 then fieldBad 1 h

/-- The rule image is valid for a derived and a base field (R371). -/
def ruleValid (image : List Word) (d b : Desc) : Bool :=
  let r : Rule := { part := 0, h := 0, image := image }
  let w (k : Nat) : Word := image.getD k 0
  let zero (k : Nat) : Bool := (image.drop k).all (fun x => x == 0)
  bitsN (w 0).toNat 63 12 == 0 && bitsN (w 1).toNat 63 2 == 0 && b.state != 0 && b.s == 0
  && (match r.kind with
    | 0 => d.n == b.n && d.fmt == b.fmt && Desc.isPerm ((List.range d.n).map r.arg) d.n
        && (List.range (48 - d.n)).all (fun j => r.arg (d.n + j) == 0)
    | 1 => d.n == b.n && convOk b.fmt d.fmt && zero 2
    | 2 => decide (r.mask < 2 ^ b.n) && d.n + Rule.backward.popW r.mask 64 == b.n
        && d.fmt == (if b.fmt = 2 ∨ b.fmt = 7 then 2 else 0) && zero 3
    | _ => false)

/-- The base chain of a handle through registered tensors: itself, its base, and so on (R391). -/
def State.chainOf (s : State) (p h : Nat) : Nat → List Nat
  | 0 => []
  | n + 1 => match s.ruleOf p h with
    | none => [h]
    | some r => h :: s.chainOf p r.base n

/-- The longest chain of registered tensors that derive from a handle (R391). -/
def State.below (s : State) (p h : Nat) : Nat → Nat
  | 0 => 0
  | n + 1 => (s.rules.filter (fun r => r.part == p && r.base == h)).foldl (fun m r => max m (1 + s.below p r.h n)) 0

/-- Two runs of storage share a 256-byte line. -/
def overlaps (a b : List Seg) : Bool :=
  a.any (fun x => b.any (fun y => decide (x.pa / 256 < (y.pa + y.len + 255) / 256 ∧ y.pa / 256 < (x.pa + x.len + 255) / 256)))

/-- The storage of a field, page by page. -/
def State.storage (s : State) (p : Nat) (d : Desc) : List Seg := s.runsOf p d.base d.span

/-- The storage of the field of a handle; nothing where its descriptor does not translate. -/
def State.storageOf (s : State) (p h : Nat) : List Seg :=
  match s.descOf p .S h with
  | .ok (d, _) => s.storage p d
  | .error _ => []

/-- The entry address of a handle, checked as a 64-byte store at level S (R382). -/
def entryAt (h : Word) : Sem Nat := do
  let s ← get
  let a := s.myPart.dvbase + BitVec.ofNat 64 (64 * h.toNat)
  match regionOf a with
  | .chip => match s.xlate s.th.part .S .store a with
    | .ok pa => pure pa
    | .error c => trap c a
  | _ => trap cPROT a

/-- EINFO of DERIVE_CYCLE and DERIVE_DEPTH (R372). -/
def deriveInfo (h b : Nat) : Word := BitVec.ofNat 64 (h % 4096 + b * 65536)

/-- Writes an entry of the table and the rule caches (R382). -/
def State.putRule (s : State) (pa : Nat) (r : Rule) : State :=
  let s := s.homeWrite engineWriter (cellsOf pa 64 (wordsNat r.image))
  { s with rules := s.rules.filter (fun x => !(x.part == r.part && x.h == r.h)) ++ [r] }

/-- DEPTH of a registered entry. -/
def Rule.setDepth (r : Rule) (n : Nat) : Rule := { r with image := r.image.set 0 (putBits (r.image.getD 0 0) 23 20 n) }

/-- DEPTH of every tensor below a handle, in the table and in the rule caches (R391). -/
def State.deepen (s : State) (p h depth : Nat) : Nat → State
  | 0 => s
  | n + 1 => (s.rules.filter (fun r => r.part == p && r.base == h)).foldl (fun (s : State) r =>
      let r := Rule.setDepth r (depth + 1)
      let a := (s.part p).dvbase + BitVec.ofNat 64 (64 * r.h)
      let s := match regionOf a, s.xlate p .S .store a with
        | .chip, .ok pa => s.putRule pa r
        | _, _ => { s with rules := s.rules.map (fun (x : Rule) => if x.part = p ∧ x.h = r.h then r else x) }
      s.deepen p r.h (depth + 1) n) s

/-- Every line of a field, and every line derived from it, goes stale by notice (R384, R391). -/
def State.staleField (s : State) (w : Writer) (gs : List Seg) : State :=
  let own := linesIn gs
  ((own ++ own.flatMap (fun l => s.closure l 5)).eraseDups).foldl (fun s l => s.sendNotice w l) s

/-- The thread goes on when every notice of its registration is acknowledged (R391). -/
def State.awaitNotices (s : State) : State :=
  (s.modTh (fun t => { t with paused := true })).post 0 .pauseExpiry { tid := s.cur, ok := true }

/-- The STATE byte of a descriptor, written at its home slice. -/
def State.putState (s : State) (pa v : Nat) : State := s.homeWrite engineWriter (cellsOf (pa + 15) 1 v)

/-- DVREG (R371, R372, R391): nothing changes where it faults. -/
def execDvreg (o : Src2) (s : State) : Host.Outcome State Fault Refusal :=
  plain (do
    let (h, a) ← o.read
    syncVec
    commitOnly
    let img ← loadN a 64
    handleOk h
    dvOk h
    let (d, dpa) ← descDefined h
    let image := natWords 8 img
    let base := bitsN (image.getD 0 0).toNat 11 0
    let (b, _) ← descSeen (BitVec.ofNat 64 base)
    if !(ruleValid image d b) then fieldBad 4 h
    let pa ← entryAt h
    let s ← get
    let p := s.th.part
    let chain := s.chainOf p base 5
    if chain.contains h.toNat then trap cDCYCLE (deriveInfo h.toNat base)
    let segs := s.storage p d
    if d.s ≠ 0 || chain.any (fun x => overlaps segs (s.storageOf p x)) || d.base.toNat % 256 ≠ 0 then fieldBad 4 h
    let depth := match s.ruleOf p base with
      | some r => r.depth + 1
      | none => 1
    if 4 < depth + s.below p h.toNat 5 then trap cDDEPTH (deriveInfo h.toNat base)
    let word0 := BitVec.ofNat 64 (2 ^ 63 + depth * 2 ^ 20 + base)
    let k := bitsN (image.getD 1 0).toNat 1 0
    let image := image.set 0 word0
    let image := if k = 0 then image
      else (image.set (k + 1) s.myCore.tbl4a).set (k + 2) s.myCore.tbl4b
    let r : Rule := { part := p, h := h.toNat, image := image, segs := segs, bsegs := s.storage p b }
    let s := ((s.putRule pa r).deepen p h.toNat depth 4).putState dpa 2
    set (s.staleField (s.writerOf s.cur) segs).awaitNotices) s

/-- The thread is no candidate while lines are recomputed and installed: 40 clk for each level (R389), and
`extra`. -/
def State.recomputeTime (s : State) (n levels extra : Nat) : State :=
  if n = 0 ∧ extra = 0 then s else s.pauseFor ((if n = 0 then 0 else 40 * levels) + extra + 1)

/-- Recomputes every stale line of a field; a recompute that fails raises its cause with the derived address
(R387). How many there were; a line that another party has recomputed already is none of them (R394). -/
def refresh (d : Desc) (r : Rule) : Sem Nat := do
  let s ← get
  let lines := linesIn r.segs
  let stale := lines.filter (fun l => s.isStale (l * 256))
  let mine := stale.filter (fun l => !(s.recomputing.any (fun r => r.1 == l)))
  stale.forM (fun l => do
    let s ← get
    match s.freshen l 5 with
    | .ok s => set s
    | .error c => trap c (d.base + BitVec.ofNat 64 ((offsetIn r.segs (l * 256)).getD 0)))
  pure mine.length

/-- DVDROP (R393). -/
def execDvdrop (o : Src1) (s : State) : Host.Outcome State Fault Refusal :=
  plain (do
    let h ← o.read
    syncVec
    commitOnly
    handleOk h
    dvOk h
    let (d, dpa) ← descDefined h
    let s ← get
    let p := s.th.part
    match s.ruleOf p h.toNat with
    | none => fieldBad 15 h
    | some r =>
      if s.rules.any (fun x => x.part == p && x.base == h.toNat) then fieldBad 14 h
      let pa ← entryAt h
      let n ← refresh d r
      let s ← get
      let lines := linesIn r.segs
      let s := lines.foldl (fun (s : State) l => (s.soil (cellsOf (l * 256) 256 0)).sliceUse l (fun x =>
        { x with v := 15, d := 15, wm := 2 ^ 64 - 1 })) s
      let s := s.homeWrite engineWriter (cellsOf pa 64 0)
      let s := { s with rules := s.rules.filter (fun x => !(x.part == p && x.h == h.toNat)),
                        current := s.current.filter (fun l => !(lines.contains l)) }
      let s := lines.foldl (fun (s : State) l => (s.endRecompute l).ackLate l) s
      set ((s.putState dpa 1).recomputeTime n r.depth (4 * lines.length))) s

/-- DVSTAT (R372): from the rule caches; it never waits. -/
def execDvstat (o : Un) (s : State) : Host.Outcome State Fault Refusal :=
  plain (do
    let h ← o.read
    handleOk h
    let s ← get
    match if s.myPart.dvbase = 0 then none else s.ruleOf s.th.part h.toNat with
    | none => writeS o.d 0
    | some r => writeS o.d (BitVec.ofNat 64 (2 ^ 63 + r.depth * 2 ^ 20 + r.kind * 65536 + r.base))) s

/-- DVREF (R394). -/
def execDvref (o : Un) (s : State) : Host.Outcome State Fault Refusal :=
  plain (do
    let h ← o.read
    handleOk h
    dvOk h
    irrevocable
    let (d, _) ← descDefined h
    let s ← get
    match s.ruleOf s.th.part h.toNat with
    | none => fieldBad 15 h
    | some r =>
      let n ← refresh d r
      writeS o.d (BitVec.ofNat 64 n)
      modify (fun s => s.recomputeTime n r.depth 0)) s

end Sys2Proof.Machine
end

