-- ==== Sys2Proof/Machine/HostLink.lean ====
section
/-! DEFINITION. Host requests (R411 to R415), the attestation report (R417) and the capture stream (R422). -/

namespace Sys2Proof.Machine

/-- The party that a host channel is, beside the 4,096 threads (R411). -/
def hostParty (chan : Nat) : Nat := 4096 + chan

/-- A request's fault: cause and address (R414). -/
abbrev HostFault := Nat × Word

/-- The address of doubleword k of a run. -/
def wordAt (a : Word) (k : Nat) : Word := a + BitVec.ofNat 64 (8 * k)

/-- A doubleword read as performed at level S; a stale derived line is recomputed first (R411, R412). -/
def State.hostLoad (s : State) (p : Nat) (ea : Word) : Except HostFault (Word × State) :=
  match regionOf ea with
  | .cluster c off =>
    if !(s.clusterOk p c) then .error (cPROT, ea)
    else if (s.spadPoison c off 8).isSome then .error (cMCHECK, ea)
    else .ok (BitVec.ofNat 64 ((s.cluster c).read off 8), s)
  | .chip => match s.xlate p .S .load ea with
    | .error e => .error (e, ea)
    | .ok pa =>
      if isBlock pa then .error (cPROT, ea)
      else match s.engineRead p .S ea 8 with
        | .ok (v, s) => .ok (BitVec.ofNat 64 v, s)
        | .error e => .error (e, ea)
  | _ => .error (cPROT, ea)

/-- `n` doublewords. -/
def State.hostLoads (s : State) (p : Nat) (a : Word) (n : Nat) : Except HostFault (List Word × State) :=
  (List.range n).foldlM (fun (x : List Word × State) k => do
    let (v, s) ← x.2.hostLoad p (wordAt a k)
    pure (x.1 ++ [v], s)) ([], s)

/-- Size and alignment of a WRITE or READ (R412). -/
def sizeFault (r : HostReq) : Option HostFault :=
  if r.size % 8 ≠ 0 || r.size < 8 || 256 < r.size then some (cILLEGAL, r.addr)
  else if r.addr.toNat % 8 ≠ 0 then some (cMISALIGN, r.addr)
  else none

/-- What the event of a request that meets a poisoned word names (R419, R420): the word's address. -/
def State.poisonAt (s : State) (p : Nat) (ea : Word) : Word :=
  match regionOf ea, s.xlate p .S .load ea with
  | .chip, .ok pa => BitVec.ofNat 64 ((s.chipPoison pa 8).getD pa)
  | _, _ => ea

/-- The writer that a channel's service core is: stale notices hold its next request (R413). -/
def hostWriter (chan : Nat) : Writer := { tid := some (hostParty chan) }

/-- Performs a WRITE whose places are known. -/
def State.hostStore (s : State) (chan : Nat) (x : FramePlace) (v : Word) : State :=
  match x with
  | .chip pa => s.homeWrite (hostWriter chan) (cellsOf pa 8 v.toNat)
  | _ => s.putAt 0 x 8 v.toNat

/-- What a request does: a fault; or its read data, with the core and the port count a message waits for. -/
def State.hostPerform (s : State) (kind : Nat) (r : HostReq) : Except HostFault (List Word × Nat × Nat × State) :=
  match kind with
  | 0 => match sizeFault r with
    | some f => .error f
    | none => do
      let n := r.size / 8
      let places ← (List.range n).mapM (fun k => match s.remotePlace r.part (wordAt r.addr k) 8 with
        | .ok x => (.ok x : Except HostFault FramePlace)
        | .error c => .error (c, wordAt r.addr k))
      pure ([], 0, 0, (places.zip (List.range n)).foldl (fun (s : State) x =>
        s.hostStore r.chan x.1 (r.data.getD x.2 0)) s)
  | 1 => match sizeFault r with
    | some f => .error f
    | none => do
      let (ws, s) ← s.hostLoads r.part r.addr (r.size / 8)
      pure (ws, 0, 0, s)
  | 2 =>
    if r.addr.toNat % 128 ≠ 0 then .error (cMISALIGN, r.addr)
    else do
      let (hdr, s) ← s.hostLoads r.part r.addr 16
      let l : Launch := { addr := r.addr, hdr := hdr, level := .S, sup := r.size.testBit 0, core := 1024 }
      match s.headerFault r.part l with
      | some f => .error (f.cause, if f.cause = cLBAD ∨ f.cause = cLRANGE then r.addr else l.done)
      | none => pure ([], 0, 0, s.accept_ r.part l)
  | 3 =>
    if r.addr.toNat % 64 ≠ 0 then .error (cMISALIGN, r.addr)
    else match s.remotePlace r.part (r.addr + 0x28) 8 with
      | .error c => .error (c, r.addr)
      | .ok _ =>
        let cl := ((List.range 128).find? (fun c => (s.part r.part).clmask.testBit c)).getD 0
        .ok ([], 0, 0, s.spawnRecord r.part (8 * cl) r.addr 0 none)
  | 4 =>
    let cid := bitsN r.addr.toNat 9 0
    if !(s.clusterOk r.part (cid / 8)) then .error (cPRIV, r.addr)
    else
      let s := s.toMailbox cid (putBits (r.data.getD 0 0) 63 62 0) (r.data.getD 1 0) 0
      let c := s.core cid
      .ok ([], cid, if c.port = [] then 0 else c.portOut + c.port.length, s)
  | _ => .ok ([], 0, 0, s)

/-- A completion goes to the host (R415). -/
def State.answerHost (s : State) (d : HostDone) : State :=
  { s with host := { s.host with completions := s.host.completions ++ [d] } }

/-- The row of a request kind. -/
def hostStep : Nat → Instr
  | 0 => .hostWrite
  | 1 => .hostRead
  | 2 => .hostLaunch
  | 3 => .hostSpawn
  | 4 => .hostMsg
  | _ => .hostFence

/-- Is the request that a channel has taken over: its message delivered, its stale notices acknowledged (R413, R439)? -/
def State.hostOver (s : State) (chan core target : Nat) : Bool :=
  decide (target ≤ (s.core core).portOut) && !(s.notices.any (fun n => n.waiting == some (hostParty chan)))

def State.setQueue (s : State) (chan : Nat) (q : List (Nat × HostReq)) : State :=
  { s with host := { s.host with queues := smSet [] s.host.queues chan q } }
def State.setBusy (s : State) (chan : Nat) (b : Option (HostDone × Nat × Nat)) : State :=
  { s with host := { s.host with busy := smSet none s.host.busy chan b } }

/-- The service core takes the head of its channel: captured (R422), performed, or answered with its fault. Requests
wait for LIMITED or READY (R430), a LAUNCH while 256 launches of the partition are in progress (R288). -/
def State.hostServe (s : State) (chan : Nat) : State :=
  match smGet [] s.host.queues chan with
  | [] => s
  | (kind, r) :: _ =>
    if !(s.ready5 || s.devstat.toNat.testBit 4) then s.post 1024 (hostStep kind) { ch := chan, n := 1 }
    else if kind = 2 ∧ 256 ≤ (s.part r.part).launches.length then s.post 16 .hostLaunch { ch := chan, n := 1 }
    else
      let s := s.capture r.part ([3, BitVec.ofNat 64 chan, BitVec.ofNat 64 kind, r.addr, BitVec.ofNat 64 r.size] ++ r.data)
      let d : HostDone := { chan := chan, part := r.part, kind := kind, status := 0, info := 0, data := [] }
      match s.hostPerform kind r with
      | .error f =>
        let s := if f.1 = cMCHECK then s.event r.part 2 cMCHECK f.2 (s.poisonAt r.part f.2) else s
        (s.setBusy chan (some ({ d with status := f.1, info := f.2 }, 0, 0))).post 0 (hostStep kind) { ch := chan, n := 1 }
      | .ok (ws, core, target, s) =>
        (s.setBusy chan (some ({ d with data := ws }, core, target))).post 0 (hostStep kind) { ch := chan, n := 1 }

/-- A request arrives (`n` = 0), or the one that its channel has taken may be over (R413). -/
def hostRequest (kind : Nat) (s : State) : Host.Outcome State Fault Refusal :=
  event (fun s =>
    if s.ev.n = 0 then match s.ev.req with
      | none => s
      | some r =>
        let chan := r.chan % 4
        let q := smGet [] s.host.queues chan
        let s := s.setQueue chan (q ++ [(kind, { r with chan := chan })])
        if q = [] then s.hostServe chan else s
    else
      let chan := s.ev.ch
      match smGet none s.host.busy chan with
      | none => s.hostServe chan
      | some (d, core, target) =>
        if !(s.hostOver chan core target) then s.post 1 (hostStep kind) s.ev
        else
          let s := (s.setBusy chan none).answerHost d
          (s.setQueue chan ((smGet [] s.host.queues chan).drop 1)).hostServe chan) s

/-- HOST_WRITE (R412, R413): an engine write with release at ch. -/
def execHostWrite (s : State) : Host.Outcome State Fault Refusal := hostRequest 0 s
/-- HOST_READ (R412). -/
def execHostRead (s : State) : Host.Outcome State Fault Refusal := hostRequest 1 s
/-- HOST_LAUNCH (R412, R288). -/
def execHostLaunch (s : State) : Host.Outcome State Fault Refusal := hostRequest 2 s
/-- HOST_SPAWN (R412, R289). -/
def execHostSpawn (s : State) : Host.Outcome State Fault Refusal := hostRequest 3 s
/-- HOST_MSG (R412, R439). -/
def execHostMsg (s : State) : Host.Outcome State Fault Refusal := hostRequest 4 s
/-- HOST_FENCE (R412). -/
def execHostFence (s : State) : Host.Outcome State Fault Refusal := hostRequest 5 s

/-- The bytes of words. -/
def bytesOf (ws : List Word) : List Byte :=
  ws.flatMap (fun w => (List.range 8).map (fun k => BitVec.ofNat 8 (w.toNat / 256 ^ k)))

/-- The 64 bytes of a digest or a signature. -/
def bytes512 (x : BitVec 512) : List Byte := (List.range 64).map (fun k => BitVec.ofNat 8 (x.toNat / 256 ^ k))

/-- HOST_ATTESTATION (R417, R430): the report of a function, with the host's nonce, and its signature; it waits for
step 3 of bring-up. -/
def execHostAttestation (s : State) : Host.Outcome State Fault Refusal :=
  event (fun s => match s.ev.req with
    | none => s
    | some r =>
      if !(s.devstat.toNat.testBit 0) then s.post 1024 .hostAttestation s.ev
      else
      let allot := (List.range 10).map (fun k => s.blockRead r.part (0x10 + 8 * k))
      let nonce := (List.range 4).map (fun k => r.data.getD k 0)
      let body := bytesOf [Config.reportHead s.devid] ++ bytesOf nonce ++ bytes512 (Config.sha512 Config.bootRom)
        ++ bytes512 (Config.sha512 Config.firmwareImage) ++ bytes512 (Config.sha512 (Config.supervisorImage r.part))
        ++ bytesOf allot
      let report := body ++ bytes512 (Config.sign body)
      { s with host := { s.host with attest := s.host.attest ++ [(r.part, report)] } }) s

/-- The entries of a ring that the stream has not drained: those still in it, as four words each (R421). -/
def State.ringEntries (s : State) (p : Nat) (fab : Bool) : List (List Word) :=
  let q := s.part p
  let n := if fab then q.fabn else q.racen
  let gone := max (if fab then q.fabGone else q.raceGone) (n - 4096)
  let base : Word := (q.trctl &&& ~~~0x3FFFF#64) + (if fab then 0x20000 else 0)
  (List.range (n - gone)).map (fun k => (List.range 4).map (fun j =>
    match s.vread p .S (base + BitVec.ofNat 64 (32 * ((gone + k) % 4096) + 8 * j)) 8 with
    | .ok v => BitVec.ofNat 64 v
    | .error _ => 0))

/-- The ring entries are drained as loads at their home slices (R376). -/
def State.ringLoads (s : State) (p : Nat) (fab : Bool) : State :=
  let q := s.part p
  let n := if fab then q.fabn else q.racen
  let gone := max (if fab then q.fabGone else q.raceGone) (n - 4096)
  let base : Word := (q.trctl &&& ~~~0x3FFFF#64) + (if fab then 0x20000 else 0)
  (List.range (n - gone)).foldl (fun (s : State) k =>
    let a := base + BitVec.ofNat 64 (32 * ((gone + k) % 4096))
    match regionOf a, s.xlate p .S .load a with
    | .chip, .ok pa => s.sliceLoad pa 32
    | _, _ => s) s

/-- Captured entries as firmware feeds them back: the slice or port, the line's address, the writer's word (R423). -/
def replayFeed : List Nat → List (Nat × Nat × Word)
  | a :: b :: c :: xs => (a, b, BitVec.ofNat 64 c) :: replayFeed xs
  | _ => []

/-- CAPTURE_STREAM (R422, R423): the rings are drained; `n` entries that the stream cannot take are lost. In replay mode the
stream brings captured entries (`nums`), which the slices and the port then follow (DESIGN CHOICE, log 104). -/
def execCaptureStream (s : State) : Host.Outcome State Fault Refusal :=
  event (fun s =>
    let p := s.ev.part
    let s := if (s.part p).trctl.toNat.testBit 3 then
        s.modPart p (fun q => { q with replay := q.replay ++ replayFeed s.ev.nums }) else s
    if bitsN (s.part p).trctl.toNat 2 0 = 0 then s
    else
      let es := (s.ringEntries p false).map (fun e => (p, 1 :: e)) ++ (s.ringEntries p true).map (fun e => (p, 2 :: e))
      let s := (s.ringLoads p false).ringLoads p true
      let lost := min s.ev.n es.length
      let s := { s with host := { s.host with
        captured := s.host.captured ++ es.take (es.length - lost), lost := s.host.lost + lost } }
      let s := s.modPart p (fun q => { q with raceGone := q.racen, fabGone := q.fabn })
      if lost = 0 then s else s.event p 4 0 0 (BitVec.ofNat 64 lost)) s

/-- EVENT_QUEUE_REGISTRATION (R415). -/
def execEventQueueRegistration (s : State) : Host.Outcome State Fault Refusal :=
  event (fun s => s.modPart s.ev.part (fun q => { q with evq := some (s.ev.v, s.ev.n, 0) })) s

/-- DIGEST_REQUEST_WRITE (R401, R424): doubleword `n` of the requests. -/
def execDigestRequestWrite (s : State) : Host.Outcome State Fault Refusal :=
  event (fun s => s.modPart s.ev.part (fun q =>
    { q with digest := if s.ev.n < 16 then smSet 0 q.digest s.ev.n s.ev.v else q.digest })) s

/-- The bytes of a field's local elements in logical index order; none of a field that is free or spread, or that cannot
be read (R424). -/
def State.digestBytes (s : State) (p h : Nat) : List Byte :=
  match s.descOf p .S h with
  | .error _ => []
  | .ok (d, _) =>
    if d.state = 0 ∨ d.s ≠ 0 then []
    else
      let gs := s.storage p d
      let fresh : Except Nat State := (linesIn gs).foldlM (fun (s : State) l => s.freshen l 5) s
      let code (s : State) (x : Nat) : Except Nat Nat := do
        let q := s.settleAt p d (d.mapx x)
        let v ← s.segRead gs (d.offset q) d.size
        pure (d.pick q v)
      let codes : Except Nat (List Nat) := do
        let s ← fresh
        (List.range (2 ^ d.n)).mapM (fun x => code s x)
      match codes with
      | .error _ => []
      | .ok cs =>
        if d.fmt = 5 then (List.range ((cs.length + 1) / 2)).map (fun k =>
          BitVec.ofNat 8 (cs.getD (2 * k) 0 + 16 * cs.getD (2 * k + 1) 0))
        else cs.flatMap (fun c => (List.range d.size).map (fun k => BitVec.ofNat 8 (c / 256 ^ k)))

/-- DIGEST_COMPLETE (R424): the digests of the requests that name the channel go to the capture, and the held release
proceeds. -/
def execDigestComplete (s : State) : Host.Outcome State Fault Refusal :=
  event (fun s =>
    let ch := s.ev.ch
    let ds := (s.digestsOn ch).map (fun x =>
      let h := Config.sha512 (s.digestBytes x.1 x.2)
      (x.1, [4, BitVec.ofNat 64 x.2, BitVec.ofNat 64 (b2n (s.channel ch).phase)] ++ natWords 8 h.toNat))
    let s := { s with host := { s.host with captured := s.host.captured ++ ds } }
    s.post 24 .barrierRelease { ch := ch, n := s.ev.n }) s

end Sys2Proof.Machine
end

