-- ==== Sys2Proof/Machine/Partition.lean ====
section
/-! DEFINITION. Partitions: creation, suspension, restoration and end (R406, R408), handing a cluster over (R407), and
the end of a launch (R409). -/

namespace Sys2Proof.Machine

/-- PARTITION_CREATE (R406, R401): firmware writes the allotments. -/
def execPartitionCreate (s : State) : Host.Outcome State Fault Refusal :=
  event (fun s => match s.ev.allot with
    | none => s
    | some a => s.modPart s.ev.part (fun q => { q with
        active := true, wbmask := a.wbmask, pbmask := a.pbmask, rlmask := a.rlmask, stmask := a.stmask % 2 ^ 256,
        faba := a.faba, pamin := a.pamin, pamax := a.pamax, clmask := a.clmask % 2 ^ 128 })) s

/-- The slots of some cores that hold a thread of a partition. -/
def State.slotsOf (s : State) (p : Nat) (onCore : Nat → Bool) : List Nat :=
  (s.threads.filter (fun x => x.2.occ && x.2.part == p && x.2.level != .F && onCore (x.1 / 4))).map (fun x => x.1)

/-- A pre-empted or faulted thread leaves its slot; its continuation keeps its ST (R408). Flags that its commands have raised
since its record was written are added there (R209). -/
def State.pullThread (s : State) (tid : Nat) : State :=
  let t := s.thread tid
  let flags := t.late.toNat
  let s := if t.st = 6 ∧ flags ≠ 0 then
      match s.frameWrite t.part (tid / 4) (t.record + 0x28)
          (s.frameRead t.part (tid / 4) (t.record + 0x28) ||| BitVec.ofNat 64 (flags * 2 ^ 38)) with
      | .ok s' => s'
      | .error c => s.frameFault tid ⟨c, t.record + 0x28⟩
    else s
  let t := s.thread tid
  let c : Cont := { st := t.st, stamp := t.tstamp.toNat, launch := t.launch, inLaunch := t.inLaunch, cluster := tid / 32,
                    core := tid / 4, kind := 8, obj := tid / 4, queue := t.queue,
                    slot := if t.gang then some tid else none, gangNo := t.gangNo, pendReduce := t.pendReduce }
  (s.freeSlot tid true).setCont t.part t.record (some c)

/-- The core goes on without a context: its queues are empty and its spilled messages come back (R285). -/
def State.releaseCore (s : State) (cid : Nat) : State :=
  (s.modCore cid (fun c => { c with
    preempted := false, preemptHeld := false, saved := false, q4 := [], q5 := [], q6 := [], q7 := [] })).postNow
    .mailboxPortDrain { core := cid }

/-- No entry of a partition stands in a ready queue. -/
def State.clearReady (s : State) (p : Nat) : State :=
  { s with clusters := s.clusters.map (fun (x : Nat × Cluster) =>
      (x.1, { x.2 with ready := x.2.ready.filter (fun y => y.1 / 16 != p) })) }

/-- Nothing that some cores gave an engine for a partition is under way. -/
def State.enginesDone (s : State) (p : Nat) (cores : List Nat) : Bool :=
  cores.all (fun c => !((s.core c).mauq.any (fun m => m.part == p))
    && !((s.cluster (c / 8)).copyq.any (fun m => m.tid / 4 == c && m.part == p)))

/-- Some cores are pre-empted, and nothing that they gave an engine is under way (R408). -/
def State.drained (s : State) (p : Nat) (cores : List Nat) : Bool :=
  cores.all (fun c => (s.core c).preempted && (s.core c).saved) && s.enginesDone p cores

/-- Cores that serve a partition without a thread of it in a slot: what its suspended continuations have left there is to
complete and to be cleared (R181, R408). -/
def State.idleCores (s : State) (p : Nat) (busy : List Nat) : List Nat :=
  (s.cores.filter (fun x => x.2.part == p && !(busy.contains x.1) && !(List.range 4).any (fun k =>
    (s.thread (4 * x.1 + k)).occ))).map (fun x => x.1)

/-- The end of a partition: its records are discarded, its gangs' slots and channels are free, its block is zero
(R408). -/
def State.endPartition (s : State) (p : Nat) : State :=
  let q := s.part p
  let records := q.conts.map (fun x => BitVec.ofNat 64 x.1)
  let s := q.launches.foldl (fun (s : State) l => l.channels.foldl (fun (s : State) ch => s.clearChannel ch) s) s
  let s := { s with threads := s.threads.map (fun (x : Nat × Thread) =>
    (x.1, if x.2.reserved.any (fun r => records.contains r) then { x.2 with reserved := none } else x.2)) }
  let s := s.clearReady p
  let kept : Part := { ftbase := q.ftbase, dvbase := q.dvbase, trctl := q.trctl, tickets := q.tickets, lists := q.lists,
                       pods := q.pods, evq := q.evq, exch := q.exch, exchArea := q.exchArea, replay := q.replay }
  s.setPart p kept

/-- Firmware suspends a partition: its cores are pre-empted (`n` = 0); once they are drained, its records leave the
slots, its MAU state is cleared and the rule caches are discarded (R408). -/
def State.suspendPartition (s : State) (i : Instr) : State :=
  let p := s.ev.part
  let slots := s.slotsOf p (fun _ => true)
  let cores := (slots.map (fun t => t / 4)).eraseDups
  if s.ev.n = 0 then
    let s := s.modPart p (fun q => { q with suspended := true })
    (cores.foldl (fun (s : State) c => s.post 0 .preemptMessage { core := c }) s).post 1 i { part := p, n := 1 }
  else if !(s.drained p cores && s.enginesDone p (s.idleCores p cores)) then s.post 64 i s.ev
  else
    let idle := s.idleCores p cores
    let s := slots.foldl (fun (s : State) t => s.pullThread t) s
    let s := idle.foldl (fun (s : State) c => s.clearMau c) (cores.foldl (fun (s : State) c => (s.clearMau c).releaseCore c) s)
    { s.clearReady p with rules := s.rules.filter (fun r => r.part != p) }

/-- PARTITION_SUSPEND (R408). -/
def execPartitionSuspend (s : State) : Host.Outcome State Fault Refusal :=
  event (fun s => s.suspendPartition .partitionSuspend) s

/-- The rule of a table entry as memory holds it, if it is valid (R382). -/
def State.tableRule (s : State) (p h : Nat) : Option Rule :=
  match s.vread p .S ((s.part p).dvbase + BitVec.ofNat 64 (64 * h)) 64 with
  | .error _ => none
  | .ok v =>
    let image := natWords 8 v
    if !((image.getD 0 0).toNat.testBit 63) then none
    else
      let base := bitsN (image.getD 0 0).toNat 11 0
      some { part := p, h := h, image := image, segs := s.storageOf p h, bsegs := s.storageOf p base }

/-- The table of a partition is read as loads at its home slices (R376, R408). -/
def State.tableLoads (s : State) (p : Nat) : State :=
  (List.range 4096).foldl (fun (s : State) h =>
    match s.xlate p .S .load ((s.part p).dvbase + BitVec.ofNat 64 (64 * h)) with
    | .ok pa => s.sliceLoad pa 64
    | .error _ => s) s

/-- PARTITION_RESTORE (R408): the rule caches are reloaded, the derived lines are stale, the records that are ready or
pre-empted join their ready queues, a gang member's its slot (R272). -/
def execPartitionRestore (s : State) : Host.Outcome State Fault Refusal :=
  event (fun s =>
    let p := s.ev.part
    let rules : List Rule := if (s.part p).dvbase = 0 then [] else (List.range 4096).filterMap (fun h => s.tableRule p h)
    let lines := rules.flatMap (fun r => linesIn r.segs)
    let s := if (s.part p).dvbase = 0 then s else s.tableLoads p
    let s := { s with rules := s.rules.filter (fun (r : Rule) => r.part != p) ++ rules,
                      current := s.current.filter (fun l => !(lines.contains l)) }
    let s := (s.modPart p (fun q => { q with suspended := false })).clearReady p
    State.reseat ((s.part p).conts.foldl (fun (s : State) (x : Nat × Option Cont) =>
      let r := BitVec.ofNat 64 x.1
      match x.2 with
      | none => s
      | some c => if c.st = 6 then s.makeReady p r 0
          else if c.st = 1 ∧ c.slot = none then s.enqueue c.cluster p c.queue r else s) s)) s

/-- PARTITION_END (R408): a suspension, then the end. -/
def execPartitionEnd (s : State) : Host.Outcome State Fault Refusal :=
  event (fun s =>
    let p := s.ev.part
    let slots := s.slotsOf p (fun _ => true)
    if s.ev.n = 0 then s.suspendPartition .partitionEnd
    else
      let cores := (slots.map (fun t => t / 4)).eraseDups
      let ready := s.drained p cores && s.enginesDone p (s.idleCores p cores)
      let s := s.suspendPartition .partitionEnd
      if ready then s.endPartition p else s) s

/-- A cluster that another partition may have: zero scratchpad, full-empty bits, TCM and MAU state (R407). -/
def State.zeroCluster (s : State) (cl q : Nat) : State :=
  let cores := (List.range 8).map (fun k => 8 * cl + k)
  let s := cores.foldl (fun (s : State) c => ((s.clearMau c).releaseCore c).modCore c (fun x => { x with
    tcm := [], l1 := x.l1.filter (fun y => !y.tcm), part := q })) s
  let backing (a : Nat) : Bool := cores.any (fun c =>
    decide (Config.tcmBacking c ≤ a ∧ a < Config.tcmBacking c + 0xE0000))
  let here (x : ScrubSite) : Bool := match x with
    | .chip a => backing a
    | .spad k _ => k == cl
    | .tcm c _ => cores.contains c
    | .reg tid _ _ | .area tid _ => cores.contains (tid / 4)
  { s.modCluster cl (fun k => { k with spad := [], full := [], feWait := [], part := q }) with
    mem := s.mem.filter (fun c => !(backing c.1)), behind := s.behind.filter (fun c => !(backing c.1)), poison := s.poison.filter (fun x => !(here x)) }

/-- Does an address lie in a cluster's window? -/
def inCluster (cl : Nat) (ea : Word) : Bool := match regionOf ea with
  | .cluster c _ => c == cl
  | _ => false

/-- Is an access or a message to a cluster on its way (R407)? -/
def State.inFlightTo (s : State) (p cl : Nat) : Bool :=
  let pkt (q : Packet) : Bool := decide (q.kind < 4) && q.dst == s.devid && q.part == p && inCluster cl q.addr
  s.agenda.any (fun x => match x.2.1 with
    | .mailboxDelivery => x.2.2.core / 8 == cl
    | .scratchpadAccessArrival => (match x.2.2.spad with
      | some y => y.cl == cl
      | none => x.2.2.cl == cl)
    | .remoteOpArrival | .packetForward | .packetNakResend => x.2.2.pkt.any pkt
    | _ => false) ||
  s.fabric.flight.any pkt ||
  s.clusters.any (fun x => x.2.copyq.any (fun c => c.part == p && (inCluster cl (c.regs.getD 0 0) || inCluster cl (c.regs.getD 1 0)))) ||
  s.cores.any (fun x => x.2.mauq.any (fun c => c.part == p && c.args.any (inCluster cl)))

/-- CLUSTER_HANDOVER (R407): firmware waits until the mailboxes and the copy queue are empty and no access or message to the
cluster is on its way (`n` = 0), pre-empts the cores, and passes the cluster on once they are drained (`n` = 1). -/
def execClusterHandover (s : State) : Host.Outcome State Fault Refusal :=
  event (fun s =>
    let cl := s.ev.cl
    let cores := (List.range 8).map (fun k => 8 * cl + k)
    let p := (s.cluster cl).part
    let mail := cores.all (fun c => (s.core c).mailbox == [] && (s.core c).port == [] && (s.core c).spillq == [])
    if s.ev.n = 0 then
      if mail && (s.cluster cl).copyq == [] && !(s.inFlightTo p cl) then
        (cores.foldl (fun (s : State) c => s.post 0 .preemptMessage { core := c }) s).post 1 .clusterHandover
          { s.ev with n := 1 }
      else s.post 64 .clusterHandover s.ev
    else if !(s.drained p cores) then s.post 16 .clusterHandover s.ev
    else if !mail || s.inFlightTo p cl then
      (cores.foldl (fun (s : State) c => s.post 0 .resumeMessage { core := c }) s).post 64 .clusterHandover
        { s.ev with n := 0 }
    else
      let s := (s.slotsOf p (fun c => c / 8 == cl)).foldl (fun (s : State) t => s.pullThread t) s
      (s.zeroCluster cl s.ev.part).reseat) s

/-! ### ENDL (R409) -/

/-- ST 0 in the record of a continuation that is not running. -/
def State.endRecord (s : State) (p cid : Nat) (r : Word) : State :=
  match s.frameWrite p cid (r + 0x28) (putBits (s.frameRead p cid (r + 0x28)) 63 61 0) with
  | .ok s => s
  | .error _ => s

/-- The continuations of a launch without a slot take ST 0 and leave their queues; an emptied queue's counter of draws that
passed it over restarts (R275). -/
def State.endConts (s : State) (p : Nat) (key : Word) : State :=
  let cs := (s.part p).conts.filter (fun x => match x.2 with
    | some c => c.inLaunch && c.launch == key
    | none => false)
  let records := cs.map (fun x => BitVec.ofNat 64 x.1)
  let s := cs.foldl (fun (s : State) x => match x.2 with
    | some c => (s.endRecord p c.core (BitVec.ofNat 64 x.1)).setCont p (BitVec.ofNat 64 x.1) none
    | none => s) s
  { s with
    clusters := s.clusters.map (fun (x : Nat × Cluster) => (x.1, { x.2 with
      ready := x.2.ready.map (fun y => if y.1 / 16 = p then
        (y.1, { recs := y.2.recs.filter (fun r => !(records.contains r)),
                passed := if y.2.recs.all (fun r => records.contains r) then 0 else y.2.passed }) else y) })),
    threads := s.threads.map (fun (x : Nat × Thread) =>
      (x.1, if x.2.reserved.any (fun r => records.contains r) then { x.2 with reserved := none } else x.2)) }

/-- The slots that hold a continuation of a launch. -/
def State.launchSlots (s : State) (p : Nat) (key : Word) : List Nat :=
  (s.threads.filter (fun x => x.2.occ && x.2.inLaunch && x.2.part == p && x.2.launch == key)).map (fun x => x.1)

/-- A continuation in a slot that is not running takes ST 0 and leaves it, once nothing that it sent is on its way (R213,
R355). -/
def State.endIdle (s : State) (tid : Nat) : State :=
  let t := s.thread tid
  if t.st = 2 || !(s.quiet tid) then s else (s.endRecord t.part (tid / 4) t.record).freeSlot tid false

/-- A running one stops: a speculative segment aborts, another commits. -/
def State.endStop (s : State) (tid : Nat) : State :=
  let s := if s.speculative (s.thread tid) then s.abort tid else s
  let s := (s.leaveBank tid).modThread tid (fun t => { t.unwait with stopped := true, held := none, heldNested := false })
  if (s.thread tid).entries = [] then s else s.post 0 .segmentCommitComplete { tid := tid }

/-- ENDL_WRITE (R409): the store (`n` = 0), and the end once every running continuation has stopped and committed. -/
def execEndlWrite (s : State) : Host.Outcome State Fault Refusal :=
  event (fun s =>
    let p := s.ev.part
    if s.ev.n = 0 then
      match (s.part p).launches.find? (fun l => launchAddr l.addr == s.ev.v) with
      | none => s
      | some l =>
        if (s.part p).endl ≠ 0 then s
        else
          let s := (s.modPart p (fun q => { q with endl := s.ev.v })).modLaunch p l.addr (fun l =>
            { l with ended := true, gangPlan := [] })
          let s := s.endConts p l.addr
          let s := (s.launchSlots p l.addr).foldl (fun (s : State) t => s.endIdle t) s
          let s := (s.launchSlots p l.addr).foldl (fun (s : State) t => s.endStop t) s
          s.post 1 .endlWrite { part := p, v := l.addr, n := 1 }
    else
      let slots := s.launchSlots p s.ev.v
      if !(slots.all (fun t => s.quiet t && !(s.phaseHeld (t / 4)))) then
        (slots.foldl (fun (s : State) t =>
          if (s.thread t).entries = [] then s else s.post 0 .segmentCommitComplete { tid := t }) s).post 16 .endlWrite s.ev
      else
        let s := (s.launchSlots p s.ev.v).foldl (fun (s : State) t => s.endIdle t) s
        let s := (s.launchSlots p s.ev.v).foldl (fun (s : State) t =>
          let x := s.thread t
          s.suspendSlot t 0 8 (t / 4) x.level.toNat x.pc x.loopst) s
        let s := (s.launchSlots p s.ev.v).foldl (fun (s : State) t => s.endIdle t) s
        let s := match s.findLaunch p s.ev.v with
          | some l => l.channels.foldl (fun (s : State) ch => s.clearChannel ch) s
          | none => s
        let s := (s.event p 5 0 (launchAddr s.ev.v) 0).post 0 .launchComplete { part := p, v := s.ev.v }
        s.modPart p (fun q => { q with endl := 0 })) s

end Sys2Proof.Machine
end

