-- ==== Sys2Proof/Machine/Dispatch.lean ====
section
/-! DEFINITION. The one dispatch: each instruction and each event to its meaning. -/

namespace Sys2Proof.Machine

def exec (i : Instr) (s : State) : Host.Outcome State Fault Refusal :=
  match i with
  | .repdatWrite o => Sys2Proof.Machine.execRepdatWrite o s
  | .prfdatWrite o => Sys2Proof.Machine.execPrfdatWrite o s
  | .vctlWrite o => Sys2Proof.Machine.execVctlWrite o s
  | .fctlRead d => Sys2Proof.Machine.execFctlRead d s
  | .flagorWrite o => Sys2Proof.Machine.execFlagorWrite o s
  | .xstatWrite o => Sys2Proof.Machine.execXstatWrite o s
  | .lotseedWrite o => Sys2Proof.Machine.execLotseedWrite o s
  | .ecauseWrite o => Sys2Proof.Machine.execEcauseWrite o s
  | .pinqWrite o => Sys2Proof.Machine.execPinqWrite o s
  | .trctlWrite o => Sys2Proof.Machine.execTrctlWrite o s
  | .devidWrite o => Sys2Proof.Machine.execDevidWrite o s
  | .slewWrite o => Sys2Proof.Machine.execSlewWrite o s
  | .devstatWrite o => Sys2Proof.Machine.execDevstatWrite o s
  | .copyLaunch d => Sys2Proof.Machine.execCopyLaunch d s
  | .reListWrite o => Sys2Proof.Machine.execReListWrite o s
  | .reHdrWrite o => Sys2Proof.Machine.execReHdrWrite o s
  | .reBufRegister o => Sys2Proof.Machine.execReBufRegister o s
  | .reFlush o => Sys2Proof.Machine.execReFlush o s
  | .add o => Sys2Proof.Machine.execAdd o s
  | .sub o => Sys2Proof.Machine.execSub o s
  | .and o => Sys2Proof.Machine.execAnd o s
  | .or o => Sys2Proof.Machine.execOr o s
  | .xor o => Sys2Proof.Machine.execXor o s
  | .sll o => Sys2Proof.Machine.execSll o s
  | .srl o => Sys2Proof.Machine.execSrl o s
  | .sra o => Sys2Proof.Machine.execSra o s
  | .slt o => Sys2Proof.Machine.execSlt o s
  | .sltu o => Sys2Proof.Machine.execSltu o s
  | .mul o => Sys2Proof.Machine.execMul o s
  | .mulh o => Sys2Proof.Machine.execMulh o s
  | .min o => Sys2Proof.Machine.execMin o s
  | .max o => Sys2Proof.Machine.execMax o s
  | .mov o => Sys2Proof.Machine.execMov o s
  | .mulhu o => Sys2Proof.Machine.execMulhu o s
  | .addi o => Sys2Proof.Machine.execAddi o s
  | .andi o => Sys2Proof.Machine.execAndi o s
  | .ori o => Sys2Proof.Machine.execOri o s
  | .xori o => Sys2Proof.Machine.execXori o s
  | .slli o => Sys2Proof.Machine.execSlli o s
  | .srli o => Sys2Proof.Machine.execSrli o s
  | .srai o => Sys2Proof.Machine.execSrai o s
  | .slti o => Sys2Proof.Machine.execSlti o s
  | .sltiu o => Sys2Proof.Machine.execSltiu o s
  | .li d imm => Sys2Proof.Machine.execLi d imm s
  | .addpc d imm => Sys2Proof.Machine.execAddpc d imm s
  | .muli o => Sys2Proof.Machine.execMuli o s
  | .mini o => Sys2Proof.Machine.execMini o s
  | .maxi o => Sys2Proof.Machine.execMaxi o s
  | .cmpeqi o => Sys2Proof.Machine.execCmpeqi o s
  | .div o => Sys2Proof.Machine.execDiv o s
  | .divu o => Sys2Proof.Machine.execDivu o s
  | .rem o => Sys2Proof.Machine.execRem o s
  | .remu o => Sys2Proof.Machine.execRemu o s
  | .minu o => Sys2Proof.Machine.execMinu o s
  | .maxu o => Sys2Proof.Machine.execMaxu o s
  | .clz o => Sys2Proof.Machine.execClz o s
  | .ctz o => Sys2Proof.Machine.execCtz o s
  | .popc o => Sys2Proof.Machine.execPopc o s
  | .brev o => Sys2Proof.Machine.execBrev o s
  | .bext o => Sys2Proof.Machine.execBext o s
  | .bdep o => Sys2Proof.Machine.execBdep o s
  | .mapx o => Sys2Proof.Machine.execMapx o s
  | .unmapx o => Sys2Proof.Machine.execUnmapx o s
  | .sext o w => Sys2Proof.Machine.execSext o w s
  | .zext o w => Sys2Proof.Machine.execZext o w s
  | .beqz o off => Sys2Proof.Machine.execBeqz o off s
  | .bnez o off => Sys2Proof.Machine.execBnez o off s
  | .bltz o off => Sys2Proof.Machine.execBltz o off s
  | .bgez o off => Sys2Proof.Machine.execBgez o off s
  | .beq o off => Sys2Proof.Machine.execBeq o off s
  | .bne o off => Sys2Proof.Machine.execBne o off s
  | .blt o off => Sys2Proof.Machine.execBlt o off s
  | .bge o off => Sys2Proof.Machine.execBge o off s
  | .bltu o off => Sys2Proof.Machine.execBltu o off s
  | .bgeu o off => Sys2Proof.Machine.execBgeu o off s
  | .j off => Sys2Proof.Machine.execJ off s
  | .jal off => Sys2Proof.Machine.execJal off s
  | .jr o => Sys2Proof.Machine.execJr o s
  | .jalr o => Sys2Proof.Machine.execJalr o s
  | .loop a len => Sys2Proof.Machine.execLoop a len s
  | .lb o => Sys2Proof.Machine.execLb o s
  | .lbu o => Sys2Proof.Machine.execLbu o s
  | .lh o => Sys2Proof.Machine.execLh o s
  | .lhu o => Sys2Proof.Machine.execLhu o s
  | .lw o => Sys2Proof.Machine.execLw o s
  | .lwu o => Sys2Proof.Machine.execLwu o s
  | .ld o => Sys2Proof.Machine.execLd o s
  | .ldf o => Sys2Proof.Machine.execLdf o s
  | .lwf o => Sys2Proof.Machine.execLwf o s
  | .ldfe o keep => Sys2Proof.Machine.execLdfe o keep s
  | .ldx o => Sys2Proof.Machine.execLdx o s
  | .pref hint o => Sys2Proof.Machine.execPref hint o s
  | .sb o => Sys2Proof.Machine.execSb o s
  | .sh o => Sys2Proof.Machine.execSh o s
  | .sw o => Sys2Proof.Machine.execSw o s
  | .sd o => Sys2Proof.Machine.execSd o s
  | .sdf o => Sys2Proof.Machine.execSdf o s
  | .swf o => Sys2Proof.Machine.execSwf o s
  | .stfe o => Sys2Proof.Machine.execStfe o s
  | .stx o => Sys2Proof.Machine.execStx o s
  | .feset o => Sys2Proof.Machine.execFeset o s
  | .feclr o => Sys2Proof.Machine.execFeclr o s
  | .pin o => Sys2Proof.Machine.execPin o s
  | .unpin o => Sys2Proof.Machine.execUnpin o s
  | .clean o => Sys2Proof.Machine.execClean o s
  | .inval o => Sys2Proof.Machine.execInval o s
  | .flush o => Sys2Proof.Machine.execFlush o s
  | .trap code => Sys2Proof.Machine.execTrap code s
  | .sysr d num => Sys2Proof.Machine.execSysr d num s
  | .sysw o num => Sys2Proof.Machine.execSysw o num s
  | .tlbinv o kind scope => Sys2Proof.Machine.execTlbinv o kind scope s
  | .cacheop o op scope => Sys2Proof.Machine.execCacheop o op scope s
  | .bkpt code => Sys2Proof.Machine.execBkpt code s
  | .illegal x => Sys2Proof.Machine.execIllegal x s
  | .fldef o => Sys2Proof.Machine.execFldef o s
  | .flperm o => Sys2Proof.Machine.execFlperm o s
  | .flswap o => Sys2Proof.Machine.execFlswap o s
  | .flxch o => Sys2Proof.Machine.execFlxch o s
  | .flstat o => Sys2Proof.Machine.execFlstat o s
  | .flfree o => Sys2Proof.Machine.execFlfree o s
  | .flmap o => Sys2Proof.Machine.execFlmap o s
  | .tldb o => Sys2Proof.Machine.execTldb o s
  | .mma t o b n g => Sys2Proof.Machine.execMma t o b n g s
  | .mmaz t o b n g => Sys2Proof.Machine.execMmaz t o b n g s
  | .tst o => Sys2Proof.Machine.execTst o s
  | .twm d t => Sys2Proof.Machine.execTwm d t s
  | .tclr t => Sys2Proof.Machine.execTclr t s
  | .axld o k cplx => Sys2Proof.Machine.execAxld o k cplx s
  | .axapply h slot l uh ul g => Sys2Proof.Machine.execAxapply h slot l uh ul g s
  | .axphase o g => Sys2Proof.Machine.execAxphase o g s
  | .axsum o sq => Sys2Proof.Machine.execAxsum o sq s
  | .axscale o => Sys2Proof.Machine.execAxscale o s
  | .axcopy o => Sys2Proof.Machine.execAxcopy o s
  | .talloc o => Sys2Proof.Machine.execTalloc o s
  | .fadd o v => Sys2Proof.Machine.execFadd o v s
  | .fsub o v => Sys2Proof.Machine.execFsub o v s
  | .fmul o v => Sys2Proof.Machine.execFmul o v s
  | .fdiv o v => Sys2Proof.Machine.execFdiv o v s
  | .fmin o v => Sys2Proof.Machine.execFmin o v s
  | .fmax o v => Sys2Proof.Machine.execFmax o v s
  | .fsqrt o v => Sys2Proof.Machine.execFsqrt o v s
  | .fabs o v => Sys2Proof.Machine.execFabs o v s
  | .fneg o v => Sys2Proof.Machine.execFneg o v s
  | .fma o v => Sys2Proof.Machine.execFma o v s
  | .fms o v => Sys2Proof.Machine.execFms o v s
  | .fnma o v => Sys2Proof.Machine.execFnma o v s
  | .fmvfs o => Sys2Proof.Machine.execFmvfs o s
  | .fmvsf o => Sys2Proof.Machine.execFmvsf o s
  | .fcmp o v c => Sys2Proof.Machine.execFcmp o v c s
  | .fclass o v => Sys2Proof.Machine.execFclass o v s
  | .cmac o => Sys2Proof.Machine.execCmac o s
  | .conj o => Sys2Proof.Machine.execConj o s
  | .cswap o => Sys2Proof.Machine.execCswap o s
  | .fcvt o src dst => Sys2Proof.Machine.execFcvt o src dst s
  | .frnd o v => Sys2Proof.Machine.execFrnd o v s
  | .fcvti o => Sys2Proof.Machine.execFcvti o s
  | .fcvtf o => Sys2Proof.Machine.execFcvtf o s
  | .padd o v => Sys2Proof.Machine.execPadd o v s
  | .psub o v => Sys2Proof.Machine.execPsub o v s
  | .pdot o => Sys2Proof.Machine.execPdot o s
  | .pmin o v => Sys2Proof.Machine.execPmin o v s
  | .pmax o v => Sys2Proof.Machine.execPmax o v s
  | .pshuf o => Sys2Proof.Machine.execPshuf o s
  | .psat o v => Sys2Proof.Machine.execPsat o v s
  | .frng d v => Sys2Proof.Machine.execFrng d v s
  | .vadd o => Sys2Proof.Machine.execVadd o s
  | .vsub o => Sys2Proof.Machine.execVsub o s
  | .vmul o => Sys2Proof.Machine.execVmul o s
  | .vfma o => Sys2Proof.Machine.execVfma o s
  | .vmax o => Sys2Proof.Machine.execVmax o s
  | .vmin o => Sys2Proof.Machine.execVmin o s
  | .vdiv o => Sys2Proof.Machine.execVdiv o s
  | .vsf o f => Sys2Proof.Machine.execVsf o f s
  | .vcmp o c => Sys2Proof.Machine.execVcmp o c s
  | .vsel o => Sys2Proof.Machine.execVsel o s
  | .vbcst o ua => Sys2Proof.Machine.execVbcst o ua s
  | .vred o op => Sys2Proof.Machine.execVred o op s
  | .vcvt o dst => Sys2Proof.Machine.execVcvt o dst s
  | .vperm o => Sys2Proof.Machine.execVperm o s
  | .vrand d m => Sys2Proof.Machine.execVrand d m s
  | .vabs o => Sys2Proof.Machine.execVabs o s
  | .vld o => Sys2Proof.Machine.execVld o s
  | .vlds o => Sys2Proof.Machine.execVlds o s
  | .vldx o => Sys2Proof.Machine.execVldx o s
  | .vst o => Sys2Proof.Machine.execVst o s
  | .vsts o => Sys2Proof.Machine.execVsts o s
  | .vstx o => Sys2Proof.Machine.execVstx o s
  | .vcfg o => Sys2Proof.Machine.execVcfg o s
  | .scfg o => Sys2Proof.Machine.execScfg o s
  | .sstat d v => Sys2Proof.Machine.execSstat d v s
  | .repv n o stagger m => Sys2Proof.Machine.execRepv n o stagger m s
  | .vmsk o ua => Sys2Proof.Machine.execVmsk o ua s
  | .vext o ub => Sys2Proof.Machine.execVext o ub s
  | .vins o ua ub => Sys2Proof.Machine.execVins o ua ub s
  | .vscan o op => Sys2Proof.Machine.execVscan o op s
  | .barr ch => Sys2Proof.Machine.execBarr ch s
  | .barw ch => Sys2Proof.Machine.execBarw ch s
  | .barq d ch => Sys2Proof.Machine.execBarq d ch s
  | .bmask o => Sys2Proof.Machine.execBmask o s
  | .tbinit o => Sys2Proof.Machine.execTbinit o s
  | .tbexp o => Sys2Proof.Machine.execTbexp o s
  | .tbarr o => Sys2Proof.Machine.execTbarr o s
  | .tbwait o => Sys2Proof.Machine.execTbwait o s
  | .mrecv d t => Sys2Proof.Machine.execMrecv d t s
  | .msend o => Sys2Proof.Machine.execMsend o s
  | .ewr o num => Sys2Proof.Machine.execEwr o num s
  | .erd d num => Sys2Proof.Machine.execErd d num s
  | .launch o => Sys2Proof.Machine.execLaunch o s
  | .spawn o => Sys2Proof.Machine.execSpawn o s
  | .suspend o => Sys2Proof.Machine.execSuspend o s
  | .wid o => Sys2Proof.Machine.execWid o s
  | .tsset o => Sys2Proof.Machine.execTsset o s
  | .tsget d => Sys2Proof.Machine.execTsget d s
  | .ticket o => Sys2Proof.Machine.execTicket o s
  | .forq o => Sys2Proof.Machine.execForq o s
  | .rngj o => Sys2Proof.Machine.execRngj o s
  | .xphaseEnter ch => Sys2Proof.Machine.execXphaseEnter ch s
  | .xsend o => Sys2Proof.Machine.execXsend o s
  | .xsel o => Sys2Proof.Machine.execXsel o s
  | .fence c => Sys2Proof.Machine.execFence c s
  | .amo o op c => Sys2Proof.Machine.execAmo o op c s
  | .cas o c => Sys2Proof.Machine.execCas o c s
  | .redf o c => Sys2Proof.Machine.execRedf o c s
  | .rseq o => Sys2Proof.Machine.execRseq o s
  | .rwr o cls => Sys2Proof.Machine.execRwr o cls s
  | .rwrb o cls => Sys2Proof.Machine.execRwrb o cls s
  | .ramo o op cls c => Sys2Proof.Machine.execRamo o op cls c s
  | .rcas o cls c => Sys2Proof.Machine.execRcas o cls c s
  | .renq o cls => Sys2Proof.Machine.execRenq o cls s
  | .fencer mask => Sys2Proof.Machine.execFencer mask s
  | .rtsend o => Sys2Proof.Machine.execRtsend o s
  | .smark o => Sys2Proof.Machine.execSmark o s
  | .rred o cls => Sys2Proof.Machine.execRred o cls s
  | .rpbar o => Sys2Proof.Machine.execRpbar o s
  | .rpwait o => Sys2Proof.Machine.execRpwait o s
  | .dvreg o => Sys2Proof.Machine.execDvreg o s
  | .dvdrop o => Sys2Proof.Machine.execDvdrop o s
  | .dvstat o => Sys2Proof.Machine.execDvstat o s
  | .dvref o => Sys2Proof.Machine.execDvref o s
  | .nop => Sys2Proof.Machine.execNop s
  | .pause => Sys2Proof.Machine.execPause s
  | .eret => Sys2Proof.Machine.execEret s
  | .wfi => Sys2Proof.Machine.execWfi s
  | .halt => Sys2Proof.Machine.execHalt s
  | .mwait => Sys2Proof.Machine.execMwait s
  | .waitm => Sys2Proof.Machine.execWaitm s
  | .yield => Sys2Proof.Machine.execYield s
  | .commit => Sys2Proof.Machine.execCommit s
  | .xphaseLeave => Sys2Proof.Machine.execXphaseLeave s
  | .powerUp => Sys2Proof.Machine.execPowerUp s
  | .marchTimeout => Sys2Proof.Machine.execMarchTimeout s
  | .readyClockRaise => Sys2Proof.Machine.execReadyClockRaise s
  | .coreRestart => Sys2Proof.Machine.execCoreRestart s
  | .carveInterval => Sys2Proof.Machine.execCarveInterval s
  | .carveMoveDone => Sys2Proof.Machine.execCarveMoveDone s
  | .registerFill => Sys2Proof.Machine.execRegisterFill s
  | .queueStallTimeout => Sys2Proof.Machine.execQueueStallTimeout s
  | .vuPopStallTimeout => Sys2Proof.Machine.execVuPopStallTimeout s
  | .vuInstructionStart => Sys2Proof.Machine.execVuInstructionStart s
  | .vuInstructionComplete => Sys2Proof.Machine.execVuInstructionComplete s
  | .mauCommandStart => Sys2Proof.Machine.execMauCommandStart s
  | .tileRowFinal => Sys2Proof.Machine.execTileRowFinal s
  | .mauCommandComplete => Sys2Proof.Machine.execMauCommandComplete s
  | .flxchCopyPhase => Sys2Proof.Machine.execFlxchCopyPhase s
  | .flxchPartnerTimeout => Sys2Proof.Machine.execFlxchPartnerTimeout s
  | .ldfeSuspendTimeout => Sys2Proof.Machine.execLdfeSuspendTimeout s
  | .barrierArrivalCounted => Sys2Proof.Machine.execBarrierArrivalCounted s
  | .barrierRelease => Sys2Proof.Machine.execBarrierRelease s
  | .barrierWaitSpill => Sys2Proof.Machine.execBarrierWaitSpill s
  | .mailboxDelivery => Sys2Proof.Machine.execMailboxDelivery s
  | .mailboxPortDrain => Sys2Proof.Machine.execMailboxPortDrain s
  | .wfiTimeout => Sys2Proof.Machine.execWfiTimeout s
  | .pauseExpiry => Sys2Proof.Machine.execPauseExpiry s
  | .copyCommandStart => Sys2Proof.Machine.execCopyCommandStart s
  | .copyCommandComplete => Sys2Proof.Machine.execCopyCommandComplete s
  | .unitCreate => Sys2Proof.Machine.execUnitCreate s
  | .lotteryDraw => Sys2Proof.Machine.execLotteryDraw s
  | .gangStart => Sys2Proof.Machine.execGangStart s
  | .domainMinimumUpdate => Sys2Proof.Machine.execDomainMinimumUpdate s
  | .preemptMessage => Sys2Proof.Machine.execPreemptMessage s
  | .resumeMessage => Sys2Proof.Machine.execResumeMessage s
  | .launchComplete => Sys2Proof.Machine.execLaunchComplete s
  | .endlWrite => Sys2Proof.Machine.execEndlWrite s
  | .digestRequestWrite => Sys2Proof.Machine.execDigestRequestWrite s
  | .digestComplete => Sys2Proof.Machine.execDigestComplete s
  | .xsendTransmit => Sys2Proof.Machine.execXsendTransmit s
  | .xselCapture => Sys2Proof.Machine.execXselCapture s
  | .phaseForcedEnd => Sys2Proof.Machine.execPhaseForcedEnd s
  | .segmentCommitComplete => Sys2Proof.Machine.execSegmentCommitComplete s
  | .redfEntryArrival => Sys2Proof.Machine.execRedfEntryArrival s
  | .redfEntryRetry => Sys2Proof.Machine.execRedfEntryRetry s
  | .reduceStallTimeout => Sys2Proof.Machine.execReduceStallTimeout s
  | .remoteOpArrival => Sys2Proof.Machine.execRemoteOpArrival s
  | .remoteAckArrival => Sys2Proof.Machine.execRemoteAckArrival s
  | .remoteResponseArrival => Sys2Proof.Machine.execRemoteResponseArrival s
  | .requestRecordArrival => Sys2Proof.Machine.execRequestRecordArrival s
  | .packetNakResend => Sys2Proof.Machine.execPacketNakResend s
  | .packetForward => Sys2Proof.Machine.execPacketForward s
  | .multicastForward => Sys2Proof.Machine.execMulticastForward s
  | .linkFlitReceive => Sys2Proof.Machine.execLinkFlitReceive s
  | .linkModeSet => Sys2Proof.Machine.execLinkModeSet s
  | .routingTableInstall => Sys2Proof.Machine.execRoutingTableInstall s
  | .routingTableSwitch => Sys2Proof.Machine.execRoutingTableSwitch s
  | .routingGenerationRetire => Sys2Proof.Machine.execRoutingGenerationRetire s
  | .routerPowerDown => Sys2Proof.Machine.execRouterPowerDown s
  | .routerWake => Sys2Proof.Machine.execRouterWake s
  | .streamEntryWrite => Sys2Proof.Machine.execStreamEntryWrite s
  | .markerArrival => Sys2Proof.Machine.execMarkerArrival s
  | .reductionPacketArrival => Sys2Proof.Machine.execReductionPacketArrival s
  | .reduceLimitExpiry => Sys2Proof.Machine.execReduceLimitExpiry s
  | .endpointReductionArrival => Sys2Proof.Machine.execEndpointReductionArrival s
  | .endpointIncompleteTimeout => Sys2Proof.Machine.execEndpointIncompleteTimeout s
  | .closedRecordExpiry => Sys2Proof.Machine.execClosedRecordExpiry s
  | .podDeviceArrival => Sys2Proof.Machine.execPodDeviceArrival s
  | .podRootComplete => Sys2Proof.Machine.execPodRootComplete s
  | .podRelease => Sys2Proof.Machine.execPodRelease s
  | .routeRecordSend => Sys2Proof.Machine.execRouteRecordSend s
  | .tokenArrival => Sys2Proof.Machine.execTokenArrival s
  | .flushSummary => Sys2Proof.Machine.execFlushSummary s
  | .staleNoticeArrival => Sys2Proof.Machine.execStaleNoticeArrival s
  | .staleNoticeAck => Sys2Proof.Machine.execStaleNoticeAck s
  | .recomputeComplete => Sys2Proof.Machine.execRecomputeComplete s
  | .l1MissReturn => Sys2Proof.Machine.execL1MissReturn s
  | .memoryScrub => Sys2Proof.Machine.execMemoryScrub s
  | .governorWindow => Sys2Proof.Machine.execGovernorWindow s
  | .mauRampArm => Sys2Proof.Machine.execMauRampArm s
  | .hostWrite => Sys2Proof.Machine.execHostWrite s
  | .hostRead => Sys2Proof.Machine.execHostRead s
  | .hostLaunch => Sys2Proof.Machine.execHostLaunch s
  | .hostSpawn => Sys2Proof.Machine.execHostSpawn s
  | .hostMsg => Sys2Proof.Machine.execHostMsg s
  | .hostFence => Sys2Proof.Machine.execHostFence s
  | .hostAttestation => Sys2Proof.Machine.execHostAttestation s
  | .captureStream => Sys2Proof.Machine.execCaptureStream s
  | .partitionCreate => Sys2Proof.Machine.execPartitionCreate s
  | .partitionSuspend => Sys2Proof.Machine.execPartitionSuspend s
  | .partitionRestore => Sys2Proof.Machine.execPartitionRestore s
  | .partitionEnd => Sys2Proof.Machine.execPartitionEnd s
  | .clusterHandover => Sys2Proof.Machine.execClusterHandover s
  | .registerWrite => Sys2Proof.Machine.execRegisterWrite s
  | .scratchpadAccessArrival => Sys2Proof.Machine.execScratchpadAccessArrival s
  | .tlbAcknowledgement => Sys2Proof.Machine.execTlbAcknowledgement s
  | .cacheLineOperationPerformed => Sys2Proof.Machine.execCacheLineOperationPerformed s
  | .eventQueueRegistration => Sys2Proof.Machine.execEventQueueRegistration s
  | .podBarrierConfiguration => Sys2Proof.Machine.execPodBarrierConfiguration s
  | .linkKeyReplacement => Sys2Proof.Machine.execLinkKeyReplacement s

end Sys2Proof.Machine
end

