-- ==== Sys2Proof/Machine/Turn.lean ====
section
/-! DEFINITION. The turns of the machine: which thread is tried, fetching and decoding its instruction, what follows
it, and the clock with what the other agents start. -/

namespace Sys2Proof.Machine

/-- May the thread be tried in this clk (R59, R77, R283, R315)? At a pre-emption only an instruction in flight ends. -/
def State.runnable (s : State) (tid : Nat) (t : Thread) : Bool :=
  let c := s.core (tid / 4)
  t.occ && !t.stopped && !t.paused && (!c.preempted || (!c.saved && (t.landing || t.held.isSome)))
    && !(s.heldBack t)

/-- The issue position of a thread: the slots of a core in the order P, P + 1, P + 2, P + 3. -/
def State.position (s : State) (tid : Nat) : Nat :=
  4 * (tid / 4) + (tid % 4 + 4 - (s.core (tid / 4)).ptr) % 4

/-- The first runnable thread from an issue position on, with its position. -/
def State.nextThread (s : State) (from_ : Nat) : Option (Nat × Nat) :=
  s.threads.foldl (fun best x =>
    if s.runnable x.1 x.2 then
      let k := s.position x.1
      if k < from_ then best
      else match best with
        | some (kb, _) => if k < kb then some (k, x.1) else best
        | none => some (k, x.1)
    else best) none

/-- Clusters that have something of their own. -/
def State.liveClusters (s : State) : List Nat :=
  let a : List Nat := s.clusters.map (fun x => x.1)
  let b : List Nat := s.cores.map (fun x => x.1 / 8)
  let c : List Nat := s.threads.map (fun x => x.1 / 32)
  (a ++ b ++ c).eraseDups

/-- May the next gang of a launch be planned, given up or started (R272)? -/
def State.gangMoves (s : State) (p : Nat) (l : Launch) : Bool :=
  l.isGang && !l.ended && decide (l.created < l.units) && !(l.channels != [] && l.gangLeft != 0) &&
  (if l.gangPlan = [] then (s.planGang p l).isSome
   else l.gangPlan.any (fun t => !(s.coreTakes p (t / 4)) && !(s.core (t / 4)).preempted) ||
     (s.gangReady p l && (l.freeSlots 0 l.gangSize).isSome))

/-- May the next unit of a launch without gangs be created (R274)? -/
def State.unitMoves (s : State) (p : Nat) (l : Launch) : Bool :=
  !l.isGang && !l.ended && decide (l.created < l.units) && (s.unitSite p l).isSome && (l.freeSlots l.created 1).isSome

/-- What the units of the device can start now: vector instructions, MAU and copy commands, draws, new units and gangs,
deliveries from mailbox ports, pre-emptions that an exchange phase has held back (R305). -/
def State.starts (s : State) : List (Instr × Ev) :=
  s.liveClusters.flatMap (fun cl =>
    (if { s with clk := s.clk + 1 }.vuBusy cl then [(Instr.vuInstructionStart, ({ cl := cl } : Ev))] else []) ++
    (if { s with clk := s.clk + 1 }.mauEnabled cl then [(Instr.mauCommandStart, ({ cl := cl } : Ev))] else []) ++
    (if (s.copyReady cl).isSome then [(Instr.copyCommandStart, ({ cl := cl } : Ev))] else []) ++
    (if s.drawSlots cl = [] then [] else [(Instr.lotteryDraw, ({ cl := cl } : Ev))])) ++
  s.parts.flatMap (fun x => x.2.launches.flatMap (fun l =>
    (if s.unitMoves x.1 l then [(Instr.unitCreate, ({ part := x.1, v := l.addr } : Ev))] else []) ++
    (if s.gangMoves x.1 l then [(Instr.gangStart, ({ part := x.1, v := l.addr } : Ev))] else []))) ++
  (s.cores.filter (fun x => (x.2.port != [] || x.2.spillq != []) && !x.2.preempted && decide (x.2.mailbox.length < 16))).map
    (fun x => (Instr.mailboxPortDrain, ({ core := x.1 } : Ev))) ++
  (s.cores.filter (fun x => x.2.preemptHeld && (s.preemptSet x.1).isSome)).map
    (fun x => (Instr.preemptMessage, ({ core := x.1 } : Ev)))

/-- The clock moves on, and the units start what they can; when nothing can be tried it moves to the next due step. -/
def State.tick (s : State) : State :=
  let s := s.bringUp
  let starts := s.starts
  let idle := starts == [] && (s.nextThread 0).isNone && s.cores.all (fun x => x.2.mauq == [])
  let now := match idle, s.agenda with
    | true, x :: _ => max (s.clk + 1) x.1
    | _, _ => s.clk + 1
  starts.foldl (fun (s : State) x => s.post 0 x.1 x.2)
    { s with clk := now, turn := 0, fabric := { s.fabric with stopped := s.fabric.full } }

/-- A new segment begins after a commit point (R312): its read signature is empty, and in a launch that
speculates the state is kept for a re-run (R316); one that begins speculative first writes its registers to the frame
(R65). After a wait in the slot a REDUCE_STALL that came meanwhile is delivered (R330). -/
def State.settle (s : State) (tid : Nat) : State :=
  let waited := (s.thread tid).between
  if !(s.thread tid).segNew then s
  else
    let s := s.modThread tid (fun t => { t with sig := [], between := false })
    let t := s.thread tid
    let s := if s.speculative t && t.occ then
        (match s.saveRegs tid with
        | .ok s => s.newSegment tid
        | .error (f, s) => (s.frameFault tid f).newSegment tid)
      else s.newSegment tid
    match waited, t.pendReduce with
    | true, some f => s.deliverPending tid .reduce f
    | _, _ => s

/-- After an instruction: an issued one moves P past its slot and ends the core's clk; a blocked one
lets the next slot try (R59). -/
def State.afterIssue (s : State) (k tid : Nat) : State :=
  match (s.thread tid).wait with
  | some _ => { s with turn := k + 1 }
  | none =>
    let s := s.settle tid
    { s.modCore (tid / 4) (fun c => { c with ptr := (tid % 4 + 1) % 4 }) with turn := 4 * (tid / 4 + 1) }

/-- The parcels of the instruction at the thread's pc (R35, R55): a complete chain and the state after the fetch, a malformed
one, or the address of a parcel that cannot be fetched. -/
def State.fetch (s : State) (tid : Nat) : Nat → Chain → Word → Except (DecErr ⊕ (Word × NoFetch)) (Chain × State)
  | 0, c, _ => .ok (c, s)
  | fuel + 1, c, a =>
    match s.fetchParcel tid a with
    | .error e => .error (.inr (a, e))
    | .ok (p, s') => match c.push p with
      | .more c' => s'.fetch tid fuel c' (a + 2)
      | .done c' => .ok (c', s')
      | .bad e => .error (.inl e)

/-- A parcel that cannot be fetched: FETCH_PAGE at its address (R111), MACHINE_CHECK with the poisoned word (R420), or a wait for a
recompute, which may fail (R387), or for a moving unit (R72). -/
def State.noFetch (s : State) (tid : Nat) (a : Word) (e : NoFetch) : State :=
  match e with
  | .page => s.raise tid ⟨cFETCH, a⟩
  | .check pa => s.raise tid ⟨cMCHECK, BitVec.ofNat 64 (3 * 2 ^ 62 + pa % 2 ^ 48)⟩
  | .stale line => match (s.thread tid).lineFault with
    | some c => s.raise tid ⟨c, a⟩
    | none => { s with cur := tid }.park (.stale line)
  | .moving => { s with cur := tid }.park .room

/-- EINFO of a decode fault (R56). -/
def DecErr.info (e : DecErr) : Word := BitVec.ofNat 64 (e.parcel + e.idx * 65536)

/-- A held fault is taken once the segment is not speculative, its entries are performed and the VU queue
has drained (R68, R116). -/
def State.tryHeld (s : State) (tid : Nat) (f : Flt) : State :=
  let t := s.thread tid
  if s.speculative t || t.vuq ≠ [] || t.redfOut ≠ 0 then s
  else if t.entries ≠ [] then
    if s.agenda.any (fun x => x.2.1 == .segmentCommitComplete && x.2.2.tid == tid) then s
    else s.post 0 .segmentCommitComplete { tid := tid }
  else if t.heldNested then s.nestedFault tid f
  else (s.deliver tid f).settle tid

/-- The state in which `exec` runs an instruction of thread `tid`: its pc, its base parcel and prefixes
are at hand. -/
def State.ready (s : State) (tid : Nat) (c : Chain) : State :=
  { s with cur := tid, pc := (s.thread tid).pc, base := c.base, npre := c.n, hasR := c.pr.isSome }

/-- What follows an executed instruction: one that has issued has taken its physical entries (R62), and where it has not raised
a fault its results are good values (R418). -/
def finish (k tid : Nat) (u : Uses) (d : List Nat × List Nat) (hacted : Bool) :
    Host.Outcome State Fault Refusal → Host.Outcome State Fault Refusal
  | .next t =>
    let x := t.thread tid
    .next ((if x.wait = none then (if x.held = none && x.ecause.toNat.testBit 15 == hacted then t.clearRegs tid u else t).rename tid u d
      else t).afterIssue k tid)
  | .fault f => .fault f
  | .refused r => .refused r

/-- The address after an instruction of `n` prefixes at `pc`. -/
def pcAfter (pc : Word) (n : Nat) : Word := pc + BitVec.ofNat 64 (2 * (n + 1))

/-- A fetched and decoded instruction of thread `tid`: one that would consume a poisoned register raises MACHINE_CHECK (R419), a
poisoned head of q0 to q3 being discarded with them (R68); a register that waits for a response holds it (R348), a framed one is
filled first (R63), one whose results displace values that cannot be spilled now waits (R62, R313), else it is executed. -/
def State.run (s : State) (k tid : Nat) (c : Chain) (i : Instr) : Host.Outcome State Fault Refusal :=
  let t := s.thread tid
  let u := t.uses i t.pc (pcAfter t.pc c.n)
  let d := s.displaced tid u
  match s.poisonedUse tid (usesOf i) with
  | some (n, isF) => .next ({ s with poison := s.poison.filter (fun p => p != ScrubSite.reg tid n isF || decide (n < 56 ∨ 60 ≤ n)) }.raise tid
      ⟨cMCHECK, entryInfo tid n isF⟩)
  | none =>
  match t.firstOwed u, t.firstFramed u, s.spillWait (tid / 4) (d.1 ++ d.2) with
  | some r, _, _ => .next ({ s with cur := tid }.park (.owed r))
  | none, some (n, isF), _ =>
    exec .registerFill { s with ev := { tid := tid, n := n, ok := isF, nums := u.codes (tid % 4) } }
  | none, none, some j => .next (s.awaitRoom tid j)
  | none, none, none =>
    if s.displacedShort tid u then .next ({ s with cur := tid }.park .room)
    else finish k tid u d (hact t) (exec i (s.ready tid c))

/-- One turn of thread `tid` at issue position `k`; a thread whose segment begins (R312) begins it first. -/
def State.issue (s : State) (k tid : Nat) : Host.Outcome State Fault Refusal :=
  if (s.thread tid).segNew then .next (s.settle tid)
  else
  let s := { s with turn := k + 1 }
  let t := s.thread tid
  match t.held with
  | some f => .next (s.tryHeld tid f)
  | none =>
    match s.fetch tid 5 Chain.empty t.pc with
    | .error (.inr (a, e)) => .next (s.noFetch tid a e)
    | .error (.inl e) => .next (s.raise tid ⟨e.cause, DecErr.info e⟩)
    | .ok (c, s) => match decodeChain c with
      | .error e => .next (s.raise tid ⟨e.cause, DecErr.info e⟩)
      | .ok i => s.run k tid c i

end Sys2Proof.Machine
end

