-- ==== Sys2Proof/Machine/Step.lean ====
section
/-! DEFINITION. One step of the machine. A step due on the agenda runs first; otherwise the first
candidate thread in issue order (R59) fetches, decodes and executes one instruction; otherwise the
clock moves on. -/

namespace Sys2Proof.Machine

/-- One step. -/
def step (s : State) : Host.Outcome State Fault Refusal :=
  match s.agenda with
  | (due, i, e) :: rest =>
    if due ≤ s.clk then exec i { s with agenda := rest, ev := e }
    else match s.nextThread s.turn with
      | some (k, tid) => s.issue k tid
      | none => .next s.tick
  | [] => match s.nextThread s.turn with
    | some (k, tid) => s.issue k tid
    | none => if s.powered || s.threads ≠ [] then .next s.tick else exec .powerUp s

/-- Thread 0 of core 0 runs at level F from TCM address 0, where the instruction stands: the parcels in
the order of their addresses, zero parcels after them (log 8). -/
def State.withFetchWord (s : State) (nbits w : Nat) : State :=
  let put (m : List Host.Cell) (ps : List Nat) : List Host.Cell :=
    (ps.foldl (fun (x : List Host.Cell × Nat) p => (writeB x.1 x.2 2 p, x.2 + 2)) (m, 0)).1
  let s := s.modCore 0 (fun c => { c with test := false, tcm := put c.tcm (tableParcels nbits w) })
  { s.modThread 0 (fun t => { t with occ := true, level := .F, pc := 0, fbuf := [] }) with turn := 0 }

end Sys2Proof.Machine
end

