-- ==== Sys2Proof/Safety.lean ====
section
/-! DEFINITION. The terms that claims about the machine use: the canonical form of its byte stores, where an
instruction fits an active loop, the state after an instruction that is complete, and what an
instruction leaves alone. -/

namespace Sys2Proof.Machine

/-- The canonical form of a byte store: addresses strictly rising, no entry equal to what an unlisted
byte reads as. -/
abbrev Memory.wf (m : List Host.Cell) : Prop := smWf (0 : Byte) m = true

/-- Every byte store of the state is canonical. -/
def State.memWf (s : State) : Bool :=
  smWf (0 : Byte) s.mem
    && s.cores.all (fun x => smWf (0 : Byte) x.2.tcm)
    && s.clusters.all (fun x => smWf (0 : Byte) x.2.spad)

/-- The pc of every thread is even (R34). -/
def State.pcEven (s : State) : Bool := s.threads.all (fun x => x.2.pc.toNat % 2 == 0)

/-- The running instruction does not straddle the end of an active loop body, and a control transfer does
not stand in its last position (R54, R96). -/
def State.fits (s : State) (transfer : Bool) : Prop :=
  inBody s.th.loopst s.pc = true →
    2 * (s.npre + 1) ≤ (loopEnd s.th.loopst - s.pc).toNat ∧
    (transfer = true → 2 * (s.npre + 1) ≠ (loopEnd s.th.loopst - s.pc).toNat)

/-- An instruction with its own effect: it answers a next state of which `P` holds. -/
def Completes (i : Instr) (s : State) (P : State → Prop) : Prop := ∃ t, exec i s = .next t ∧ P t

/-- The state after an instruction at `s.pc` that has had its effect: the pc at the next instruction or, at the end
of an active body, at its start with the count decremented (R94), after a pause of 2 clk where the body is longer than
the fetch buffer (R93). -/
abbrev State.done (s : State) : State := s.complete

/-- Nothing of the running thread is outstanding: no entry, no VU, MAU or remote work, no pending fault, empty
ports, and its segment is not speculative and not above its domain's minimum (R314). -/
structure State.Quiet (s : State) : Prop where
  vu : s.th.vuq = []
  vec : s.th.pendVec = none
  mau : s.mauBusy s.cur = false
  mauFault : s.th.pendMau = none
  remote : s.th.remoteBusy = false
  remoteFault : s.th.pendRemote = none
  reduce : s.th.pendReduce = none
  ports : s.th.q0 = [] ∧ s.th.q1 = [] ∧ s.th.q2 = [] ∧ s.th.q3 = []
  capture : s.th.capture.left = 0
  entries : s.th.entries = []
  redf : s.th.redfOut = 0
  stores : s.th.meshOut = 0
  notices : s.notices.any (fun n => n.waiting == some s.cur) = false
  spec : s.speculative s.th = false
  least : s.above s.th = false

/-- The thread's earlier stores to scratchpads and TCM are performed, those of its vector instructions too (R320). -/
structure State.Stored (s : State) : Prop where
  vu : s.th.vuq = []
  capture : s.th.capture.left = 0
  mesh : s.th.meshOut = 0

/-- A fault of the running thread is taken at once: it is not held, no handler is active, the core is not in test
mode, the thread is a continuation and runs, waiting neither at a suspension point nor at an XSEL (R114, R116, R281). -/
structure State.Takes (s : State) : Prop where
  level : s.th.level ≠ .F
  test : s.myCore.test = false
  handler : hact s.th = false
  capture : s.th.capture = {}
  running : s.th.st ≠ 4
  xsel : s.th.xsel = none
  vu : s.th.vuq = []
  entries : s.th.entries = []
  spec : s.speculative s.th = false

/-! ### Integer instructions: the operands read, the value, the destination (R80 to R86) -/

def binValue (o : Bin) (f : Word → Word → Word) : Option (Sem Word × Reg) :=
  some (do
    let (a, b) ← o.read
    pure (f a b), o.d)

def unValue (o : Un) (f : Word → Word) : Option (Sem Word × Reg) :=
  some (do
    let a ← o.read
    pure (f a), o.d)

def immValue (o : Imm) (f : Word → Word → Word) : Option (Sem Word × Reg) :=
  some (do
    let a ← o.read
    pure (f a o.imm), o.d)

/-- The value of each integer instruction as the tables of R81 to R86 give it. -/
def intValue (s : State) : Instr → Option (Sem Word × Reg)
  | .add o => binValue o (fun a b => a + b)
  | .sub o => binValue o (fun a b => a - b)
  | .and o => binValue o (fun a b => a &&& b)
  | .or o => binValue o (fun a b => a ||| b)
  | .xor o => binValue o (fun a b => a ^^^ b)
  | .sll o => binValue o (fun a b => a <<< (b.toNat % 64))
  | .srl o => binValue o (fun a b => a >>> (b.toNat % 64))
  | .sra o => binValue o (fun a b => a.sshiftRight (b.toNat % 64))
  | .slt o => binValue o (fun a b => if a.toInt < b.toInt then 1 else 0)
  | .sltu o => binValue o (fun a b => if a.toNat < b.toNat then 1 else 0)
  | .mul o => binValue o (fun a b => BitVec.ofInt 64 (a.toInt * b.toInt))
  | .mulh o => binValue o (fun a b => BitVec.ofInt 64 (a.toInt * b.toInt / 2 ^ 64))
  | .mulhu o => binValue o (fun a b => BitVec.ofNat 64 (a.toNat * b.toNat / 2 ^ 64))
  | .min o => binValue o (fun a b => if a.toInt < b.toInt then a else b)
  | .max o => binValue o (fun a b => if a.toInt < b.toInt then b else a)
  | .minu o => binValue o (fun a b => if a.toNat < b.toNat then a else b)
  | .maxu o => binValue o (fun a b => if a.toNat < b.toNat then b else a)
  | .div o => binValue o (fun a b => if b = 0 then -1 else BitVec.ofInt 64 (a.toInt.tdiv b.toInt))
  | .rem o => binValue o (fun a b => if b = 0 then a else BitVec.ofInt 64 (a.toInt.tmod b.toInt))
  | .divu o => binValue o (fun a b => if b = 0 then -1 else BitVec.ofNat 64 (a.toNat / b.toNat))
  | .remu o => binValue o (fun a b => if b = 0 then a else BitVec.ofNat 64 (a.toNat % b.toNat))
  | .bext o => binValue o bextW
  | .bdep o => binValue o bdepW
  | .mov o => unValue o (fun a => a)
  | .clz o => unValue o clzW
  | .ctz o => unValue o ctzW
  | .popc o => unValue o popcW
  | .brev o => unValue o brevW
  | .sext o w => unValue o (fun a => sextW a.toNat (w.toNat + 1))
  | .zext o w => unValue o (fun a => BitVec.ofNat 64 (a.toNat % 2 ^ (w.toNat + 1)))
  | .addi o => immValue o (fun a b => a + b)
  | .andi o => immValue o (fun a b => a &&& b)
  | .ori o => immValue o (fun a b => a ||| b)
  | .xori o => immValue o (fun a b => a ^^^ b)
  | .slli o => immValue o (fun a b => a <<< (b.toNat % 64))
  | .srli o => immValue o (fun a b => a >>> (b.toNat % 64))
  | .srai o => immValue o (fun a b => a.sshiftRight (b.toNat % 64))
  | .slti o => immValue o (fun a b => if a.toInt < b.toInt then 1 else 0)
  | .sltiu o => immValue o (fun a b => if a.toNat < b.toNat then 1 else 0)
  | .muli o => immValue o (fun a b => BitVec.ofInt 64 (a.toInt * b.toInt))
  | .mini o => immValue o (fun a b => if a.toInt < b.toInt then a else b)
  | .maxi o => immValue o (fun a b => if a.toInt < b.toInt then b else a)
  | .cmpeqi o => immValue o (fun a b => if a = b then 1 else 0)
  | .li d imm => some (pure imm, d)
  | .addpc d imm => some (pure (s.pc + imm), d)
  | _ => none

/-! ### Branches: the operands read, the condition, the offset (R88, R89) -/

def zCond (o : Src1) (off : Word) (c : Word → Bool) : Option (Sem Bool × Word) :=
  some (do
    let a ← o.read
    pure (c a), off)

def cCond (o : Src2) (off : Word) (c : Word → Word → Bool) : Option (Sem Bool × Word) :=
  some (do
    let (a, b) ← o.read
    pure (c a b), off)

/-- The condition of each branch as R88 and R89 give it. -/
def branchCond : Instr → Option (Sem Bool × Word)
  | .beqz o off => zCond o off (fun a => decide (a = 0))
  | .bnez o off => zCond o off (fun a => decide (a ≠ 0))
  | .bltz o off => zCond o off (fun a => decide (a.toInt < 0))
  | .bgez o off => zCond o off (fun a => decide (0 ≤ a.toInt))
  | .beq o off => cCond o off (fun a b => decide (a = b))
  | .bne o off => cCond o off (fun a b => decide (a ≠ b))
  | .blt o off => cCond o off (fun a b => decide (a.toInt < b.toInt))
  | .bge o off => cCond o off (fun a b => decide (b.toInt ≤ a.toInt))
  | .bltu o off => cCond o off (fun a b => decide (a.toNat < b.toNat))
  | .bgeu o off => cCond o off (fun a b => decide (b.toNat ≤ a.toNat))
  | .j off => some (pure true, off)
  | _ => none

/-! ### Loads and stores (R101) -/

/-- Size of each load, and the register value it makes of the bytes read. -/
def loadForm : Instr → Option (Mem × Nat × (Nat → Word) × Bool)
  | .lb o => some (o, 1, fun v => sextW v 8, false)
  | .lbu o => some (o, 1, fun v => BitVec.ofNat 64 v, false)
  | .lh o => some (o, 2, fun v => sextW v 16, false)
  | .lhu o => some (o, 2, fun v => BitVec.ofNat 64 v, false)
  | .lw o => some (o, 4, fun v => sextW v 32, false)
  | .lwu o => some (o, 4, fun v => BitVec.ofNat 64 v, false)
  | .ld o => some (o, 8, fun v => BitVec.ofNat 64 v, false)
  | .ldf o => some (o, 8, fun v => BitVec.ofNat 64 v, true)
  | .lwf o => some (o, 4, fun v => BitVec.ofNat 64 v, true)
  | _ => none

/-- Size of each store, and the data and address it reads. -/
def storeForm : Instr → Option (Sem (Word × Word) × Nat)
  | .sb o => some (o.storeEa, 1)
  | .sh o => some (o.storeEa, 2)
  | .sw o => some (o.storeEa, 4)
  | .sd o => some (o.storeEa, 8)
  | .sdf o => some (o.storeEaF, 8)
  | .swf o => some (o.storeEaF, 4)
  | _ => none

/-! ### Writes of system registers with a row of their own (R113) -/

/-- The register's number, the operand, and what the write does. -/
def sysWriteForm : Instr → Option (Nat × Src1 × (Word → State → State))
  | .sysw o n => some (n.toNat, o, fun v s => s.sysWrite n.toNat v)
  | .repdatWrite o => some (0x204, o, fun v s => s.repdatWrite v)
  | .prfdatWrite o => some (0x202, o, fun v s => s.prfdatWrite v)
  | .vctlWrite o => some (0x011, o, fun v s => s.vctlWrite v)
  | .flagorWrite o => some (0x104, o, fun v s => s.modMyCluster (fun k => { k with
      sticky := (k.sticky &&& ~~~(v.truncate 5)) ||| (if k.stickyAt = s.clk then k.stickyNow else 0) }))
  | .xstatWrite o => some (0x018, o, fun v s => s.xstatWrite v)
  | .lotseedWrite o => some (0x105, o, fun v s =>
      s.modMyCluster (fun k => { k with lotseed := if v.truncate 32 = 0#32 then 1 else v.truncate 32 }))
  | .ecauseWrite o => some (0x101, o, fun v s => s.ecauseWrite v)
  | .pinqWrite o => some (0x021, o, fun v s =>
      s.modMyCore (fun c => { c with quota := smSet 0 c.quota s.th.part (bitsN v.toNat 31 16) }))
  | .trctlWrite o => some (0x108, o, fun v s =>
      s.modPart s.th.part (fun q => { q with trctl := v &&& ~~~0x3FFF0#64 }))
  | .devidWrite o => some (0x004, o, fun v s =>
      if s.ready5 then s else { s with devid := bitsN v.toNat 13 0 })
  | .slewWrite o => some (0x206, o, fun v s => { s with slew := slewWord v })
  | .devstatWrite o => some (0x208, o, fun v s => s.devstatWrite v)
  | _ => none

/-! ### Float, complex, conversion, packed and generator instructions (R216 to R223) -/

/-- Every lane of a format variant by itself (R159, R160). -/
def lanes (v : BitVec 2) (f : Nat → Nat × Flags) : Word × Flags :=
  joinLanes (varFmt v) ((List.range (varLanes v)).map f)

/-- One exact value, rounded once to the variant's component format (R160). -/
def rounded (v : BitVec 2) (mode : Nat) (x : Val × Bool) : Nat × Flags := (varFmt v).roundInv ⟨0, 0⟩ mode x

/-- A complex result: each component rounded once. -/
def roundedPair (mode : Nat) (re im : Val × Bool) : Word × Flags :=
  joinLanes .fp32 [rounded 1 mode re, rounded 1 mode im]

/-- Lane k of a register as an exact term. -/
def laneTerm (v : BitVec 2) (x : Word) (k : Nat) : Val × Bool := (laneVal (varFmt v) x k, false)

/-- The real and imaginary values of a C32 register. -/
def reOf (x : Word) : Val := laneVal .fp32 x 0
def imOf (x : Word) : Val := laneVal .fp32 x 1
def negated (b : Bool) (x : Val × Bool) : Val × Bool := if b then (x.1.neg, x.2) else x

/-- Real or imaginary part of the exact product of two C32 values, as terms of a sum (R217). -/
def productRe (a b : Word) : List (Val × Bool) := [(reOf a).mul (reOf b), negated true ((imOf a).mul (imOf b))]
def productIm (a b : Word) : List (Val × Bool) := [(reOf a).mul (imOf b), (imOf a).mul (reOf b)]

/-- What an instruction computes from its operands, whether its destination is an f register, and which. -/
abbrev FloatForm := Option (Sem (Word × Flags) × Bool × Reg)

def fBin (o : Bin) (g : Nat → Word → Word → Word × Flags) : FloatForm :=
  some (do
    let (a, b) ← o.readF
    let mode ← roundMode
    pure (g mode a b), true, o.d)

def fUn (o : Un) (g : Nat → Word → Word × Flags) : FloatForm :=
  some (do
    let a ← o.readF
    let mode ← roundMode
    pure (g mode a), true, o.d)

/-- One that moves bits only: no rounding mode, no flag. -/
def fMove (o : Un) (g : Word → Word) : FloatForm :=
  some (do
    let a ← o.readF
    pure (g a, 0), true, o.d)

/-- s × t ± d or d - s × t, one exact sum (R216, R217). -/
def fFused (negProduct negAddend : Bool) (o : Bin) (v : BitVec 2) : FloatForm :=
  some (do
    let d ← readF o.d
    let (a, b) ← o.readF
    let mode ← roundMode
    pure (if v = 1 then
        roundedPair mode
          (sumVals mode ((productRe a b).map (negated negProduct) ++ [negated negAddend (reOf d, false)]))
          (sumVals mode ((productIm a b).map (negated negProduct) ++ [negated negAddend (imOf d, false)]))
      else lanes v (fun k => rounded v mode (sumVals mode
        [negated negProduct ((laneVal (varFmt v) a k).mul (laneVal (varFmt v) b k)),
         negated negAddend (laneTerm v d k)]))), true, o.d)

/-- FMIN or FMAX (R218): nothing is rounded. -/
def fSelect (isMax : Bool) (o : Bin) (v : BitVec 2) : FloatForm :=
  some (do
    let (a, b) ← o.readF
    pure (lanes v (fun k => select1 (varFmt v) isMax (laneOf (varFmt v) a k) (laneOf (varFmt v) b k))), true, o.d)

/-- `n` integer lanes of `w` bits, each modulo 2^w. -/
def intLanes (n w : Nat) (f : Nat → Int) : Word :=
  BitVec.ofNat 64 ((List.range n).foldl (fun r k => r + (f k % (2 ^ w : Nat)).toNat * 2 ^ (w * k)) 0)

/-- A packed integer instruction, lane by lane (R219). -/
def fPacked (o : Bin) (v : BitVec 2) (g : Int → Int → Int) : FloatForm :=
  some (do
    let (a, b) ← o.read
    pure (intLanes (64 / (8 * 2 ^ v.toNat)) (8 * 2 ^ v.toNat) (fun k =>
      g (laneInt (8 * 2 ^ v.toNat) a k) (laneInt (8 * 2 ^ v.toNat) b k)), 0), false, o.d)

/-- Byte i of a word. -/
def byteOf (x : Word) (i : Nat) : Nat := bitsN x.toNat (8 * i + 7) (8 * i)

/-- The value of each instruction of majors 0x7 and 0x8 as R216 to R223 give it. -/
def floatForm : Instr → FloatForm
  | .fadd o v => fBin o (fun mode a b => lanes v (fun k => rounded v mode (sumVals mode [laneTerm v a k, laneTerm v b k])))
  | .fsub o v => fBin o (fun mode a b => lanes v (fun k => rounded v mode
      (sumVals mode [laneTerm v a k, negated true (laneTerm v b k)])))
  | .fmul o v => fBin o (fun mode a b => if v = 1 then
        roundedPair mode (sumVals mode (productRe a b)) (sumVals mode (productIm a b))
      else lanes v (fun k => rounded v mode ((laneVal (varFmt v) a k).mul (laneVal (varFmt v) b k))))
  | .fdiv o v => fBin o (fun mode a b => if v = 1 then
        roundedPair mode (cquot mode (reOf b, imOf b) [(reOf a).mul (reOf b), (imOf a).mul (imOf b)])
          (cquot mode (reOf b, imOf b) [(imOf a).mul (reOf b), negated true ((reOf a).mul (imOf b))])
      else lanes v (fun k =>
        let q := (laneVal (varFmt v) a k).div (laneVal (varFmt v) b k)
        let r := rounded v mode (q.1, q.2.1)
        (r.1, r.2 ||| flagIf q.2.2 fDZ)))
  | .fmin o v => fSelect false o v
  | .fmax o v => fSelect true o v
  | .fsqrt o v => fUn o (fun mode a => lanes v (fun k => rounded v mode (laneVal (varFmt v) a k).sqrt))
  | .fabs o v => fMove o (fun a => a &&& ~~~(signBits v) &&& formBits v)
  | .fneg o v => fMove o (fun a => (a ^^^ signBits v) &&& formBits v)
  | .fma o v => fFused false false o v
  | .fms o v => fFused false true o v
  | .fnma o v => fFused true false o v
  | .fmvfs o => some (do
      let a ← o.readF
      pure (a, 0), false, o.d)
  | .fmvsf o => some (do
      noTest
      let a ← o.read
      pure (a, 0), true, o.d)
  | .cmac o => some (do
      let d ← readF o.d
      let (a, b) ← o.readF
      let mode ← roundMode
      pure (roundedPair mode
        (sumVals mode [(reOf d, false), (reOf a).mul (reOf b), (imOf a).mul (imOf b)])
        (sumVals mode [(imOf d, false), (reOf a).mul (imOf b), negated true ((imOf a).mul (reOf b))])), true, o.d)
  | .conj o => fMove o (fun a => a ^^^ 0x8000000000000000)
  | .cswap o => fMove o (fun a => a <<< 32 ||| a >>> 32)
  | .frnd o v => fUn o (fun mode a => lanes v (fun k => integral (varFmt v) mode (laneOf (varFmt v) a k)))
  | .fcvti o => some (do
      let a ← o.readF
      let mode ← roundMode
      pure (toInt64 mode (reOf a)), false, o.d)
  | .fcvtf o => some (do
      noTest
      let a ← o.read
      let mode ← roundMode
      let r := Fmt.fp32.round ⟨0, 0⟩ mode (intVal a.toInt)
      pure (BitVec.ofNat 64 r.1, r.2), true, o.d)
  | .padd o v => fPacked o v (fun a b => a + b)
  | .psub o v => fPacked o v (fun a b => a - b)
  | .pmin o v => fPacked o v min
  | .pmax o v => fPacked o v max
  | .pdot o => some (do
      let a ← readS o.a
      let b ← readS o.b
      let d ← readS o.d
      killS o.a o.ua
      killS o.b o.ub
      pure (BitVec.ofInt 64 (satW 32 ((List.range 8).foldl
        (fun (r : Int) k => r + laneInt 8 a k * laneInt 8 b k) (laneInt 32 d 0))), 0), false, o.d)
  | .pshuf o => some (do
      let (a, b) ← o.read
      pure (BitVec.ofNat 64 ((List.range 8).foldl (fun r i =>
        r + (if (byteOf b i).testBit 7 then 0 else byteOf a (byteOf b i % 8)) * 2 ^ (8 * i)) 0), 0), false, o.d)
  | .psat o v => some (do
      let a ← o.read
      pure (intLanes (32 / (8 * 2 ^ v.toNat)) (8 * 2 ^ v.toNat) (fun k =>
        satW (8 * 2 ^ v.toNat) (laneInt (2 * (8 * 2 ^ v.toNat)) a k)), 0), false, o.d)
  | _ => none

/-! ### Vector instructions as they issue (R226, R230, R231, R237) -/

/-- The scalar sources of each instruction that enters the VU queue, with their last-use marks. -/
def vecScalars : Instr → Option (List (Reg × Bool))
  | .vadd _ | .vsub _ | .vmul _ | .vfma _ | .vmax _ | .vmin _ | .vdiv _ | .vsel _ | .vperm _ => some []
  | .vsf _ _ | .vcmp _ _ | .vred _ _ | .vcvt _ _ | .vscan _ _ => some []
  | .vabs _ => some []
  | .vbcst o ua | .vmsk o ua => some [(o.a, ua)]
  | .vld o | .vst o => some [(o.base, o.ub)]
  | .vlds o | .vsts o => some [(o.base, o.ub), (o.t, o.ut)]
  | .vldx o | .vstx o => some [(o.base, o.ub)]
  | .vext o ub => some [(o.b, ub)]
  | .vins o ua ub => some [(o.a, ua), (o.b, ub)]
  | _ => none

/-- Reads the scalar sources in order, then frees the marked ones. -/
def vecSources : List (Reg × Bool) → Sem (List (Nat × Word))
  | [] => pure []
  | [(r, u)] => do
    let a ← vecScalar r
    killS r u
    pure [a]
  | (r, u) :: (q, w) :: _ => do
    let a ← vecScalar r
    let b ← vecScalar q
    killS r u
    killS q w
    pure [a, b]

/-- A vector instruction passes the checks at issue that name no memory (R161, R230, R231, R237, R240, R243). -/
def State.vecFine (s : State) (i : Instr) : Prop :=
  let fmt := bitsN s.th.vctl.toNat 10 8
  let r := vregsOf i
  let bound := s.th.bound r.d || s.th.bound r.a || s.th.bound r.b
  s.myCore.test = false ∧ (noStreams i = true → bound = false) ∧ (vecRounds i fmt = true → s.th.rm < 5) ∧
  (match i with
    | .vsf _ _ => fmt ≠ 6
    | .vcvt _ dst => convOk fmt dst.toNat = true ∧ dst ≠ 2 ∧ dst ≠ 7
    | .vred o _ => o.d = 58 ∨ o.d = 59
    | .vext o _ => o.d = 58 ∨ o.d = 59
    | .scfg o => 28 ≤ o.d.toNat ∧ o.d.toNat ≤ 31
    | _ => True) ∧
  ((vecStores i || bound) = true → s.speculative s.th = false)

/-- The VU command of an instruction that issues at `s`, with its scalars and draws. -/
def State.vuCmd (s : State) (i : Instr) (scalars : List (Nat × Word)) (draws : List Word) : VuCmd :=
  { ins := i, pc := s.pc, einfo := s.baseInfo, hasR := s.hasR, vl := bitsN s.th.vctl.toNat 6 0,
    fmt := bitsN s.th.vctl.toNat 10 8, rm := s.th.rm, tblA := s.myCore.tbl4a, tblB := s.myCore.tbl4b,
    level := s.th.level, scalars := scalars, draws := draws, issued := s.clk }

/-- No capture is open or draining, and the VU queue has room: the next vector instruction enters it. -/
def State.vuRoom (s : State) : Prop := s.th.capture.left = 0 ∧ s.th.capture.cmds = [] ∧ s.th.vuq.length < 32

/-- A command at the end of the running thread's VU queue. -/
def State.vuEnter (s : State) (c : VuCmd) : State := s.modTh (fun t => { t with vuq := t.vuq ++ [c] })

/-! ### Vector instructions as they execute (R228 to R238) -/

/-- `n` bytes at `ea`, aligned, are resident TCM of the core at offset `off` (R70, R103). -/
structure State.Local (s : State) (ea : Word) (n off : Nat) : Prop where
  place : regionOf ea = .tcm off
  aligned : ea.toNat % n = 0
  window : off < (if s.myCore.test then 14 else s.myCore.tcmMax) * 0x10000
  resident : s.myCore.test = true ∨ off < s.myCore.tcmUnits * 0x10000
  still : s.myCore.unitMoving off = false

/-- Element i of a command is active (R229). -/
def State.active (s : State) (c : VuCmd) (i : Nat) : Bool :=
  decide (i < c.vl) && (s.th.mask (maskOf c.ins)).toNat.testBit i

/-- The code of element i of v register n in the command's format. -/
def State.code (s : State) (c : VuCmd) (n i : Nat) : Nat := elemCode c.fmt (s.th.v n i)

/-- The codes of the active elements below `k` of a register, in order. -/
def State.codes (s : State) (c : VuCmd) (n k : Nat) : List Nat := ((List.range k).filter (s.active c)).map (s.code c n)

/-- Registers that the VU finds bound to no stream. -/
def State.Unbound (s : State) (ns : List Nat) : Prop := ∀ n ∈ ns, n < 32 ∧ (s.th.stream n).bound = false

/-- A vector instruction that writes `g i` to each active element of v register `d`, and nothing else but flags. -/
def State.VecSets (s : State) (c : VuCmd) (d : Nat) (g : Nat → Nat) : Prop :=
  ∃ t, vecBody c s = .ok () t ∧ t.mem = s.mem ∧ t.th.sregs = s.th.sregs ∧ t.th.fregs = s.th.fregs ∧
    t.th.masks = s.th.masks ∧ ∀ n i, n < 32 → i < 64 → t.th.v n i = if n = d ∧ s.active c i = true then g i % 2 ^ 32 else s.th.v n i

/-- Where the active elements of a memory instruction lie: aligned resident TCM of the core at `place i`, each in its own
format (R237, R438). -/
structure State.VecLocal (s : State) (c : VuCmd) (base : Word) (e : Nat → Int) (place : Nat → Nat) : Prop where
  outside : s.winOf base = none
  fmt : c.fmt = 0 ∨ c.fmt = 1 ∨ c.fmt = 6
  at_ : ∀ i, s.active c i = true →
    s.Local (base + BitVec.ofInt 64 (e i * memBytes c.fmt)) (memBytes c.fmt) (place i) ∧
    s.tcmPoison s.cid (place i) (memBytes c.fmt) = none

/-! ### MAU commands as they issue (R185, R192 to R202) -/

/-- What a MAU command reads at issue, and its barrier operand. -/
def mauForm : Instr → Option (Sem (List Word) × Desig)
  | .tldb o => some (do return [← o.loadEa], .none)
  | .mma _ o _ _ g | .mmaz _ o _ _ g => some (do return [← o.read], g)
  | .tst o => some (do return [← o.loadEa], .none)
  | .tclr _ => some (pure [], .none)
  | .axld o _ _ => some (do return [← o.loadEa], .none)
  | .axapply h _ l uh ul g => some (do
      let (a, b) ← Src2.read ⟨h, l, uh, ul⟩
      return [a, b], g)
  | .axphase o g => some (readTwoF o, g)
  | .axsum o _ => some (readThree o, .none)
  | .axscale o => some (readTwoF o, .none)
  | .axcopy o => some (readTwo o, .none)
  | .flswap o => some (readTwo o, .none)
  | .flxch o => some (readThree o, .none)
  | _ => none

/-- Does a MAU command name a tile, a slot, an f register or a barrier, which are no registers of test mode (R11)? -/
def mauNames : Instr → Bool
  | .axsum _ _ | .axcopy _ | .flswap _ | .flxch _ => false
  | _ => true

/-- The command of an instruction that issues at `s`. -/
def State.mauCmd (s : State) (i : Instr) (args : List Word) (g : Desig) : MauCmd :=
  { id := s.myCluster.mauId, tid := s.cur, ins := i, part := s.th.part, level := s.th.level, args := args,
    rm := s.th.rm, tblA := s.myCore.tbl4a, tblB := s.myCore.tbl4b, issued := s.clk,
    share := (match s.launchOf s.th with
      | some l => l.mshare
      | none => 1),
    desig := s.desigNow s.kid g }

/-- A command at the end of its core's queue. -/
def State.mauEnter (s : State) (c : MauCmd) : State :=
  (s.modMyCluster (fun k => { k with mauId := k.mauId + 1 })).modMyCore (fun k => { k with mauq := k.mauq ++ [c] })
/-! ### Operands that can be read and written at once, and what completion is -/

/-- The entries of a queue port. -/
def State.portQueue (s : State) (n : Nat) : List Word :=
  match n with
  | 56 => s.th.q0
  | 57 => s.th.q1
  | 58 => s.th.q2
  | 59 => s.th.q3
  | 60 => s.myCore.q4
  | 61 => s.myCore.q5
  | 62 => s.myCore.q6
  | _ => s.myCore.q7

/-- The s registers `rs` can be read and `ws` written at once: in test mode they are s0 to s15; q0 and q1 are not read
and q2 and q3 not written, nor popped in the clk of a push; a port holds as many entries as it is named, or has room (R11, R67,
R227, R241). -/
structure State.Ready (s : State) (rs ws : List Reg) : Prop where
  test : s.myCore.test = true → ∀ r ∈ rs ++ ws, r.toNat < 16
  reads : ∀ r ∈ rs, r.toNat ≠ 56 ∧ r.toNat ≠ 57 ∧
    (r.toNat = 58 ∨ r.toNat = 59 → s.th.pendVec = none ∧ s.th.pushAt ≠ some (r.toNat, s.clk)) ∧
    (56 ≤ r.toNat → rs.count r ≤ (s.portQueue r.toNat).length)
  writes : ∀ r ∈ ws, r.toNat ≠ 58 ∧ r.toNat ≠ 59 ∧
    (56 ≤ r.toNat → (s.portQueue r.toNat).length < if r.toNat < 60 then 16 else 8)

/-- An integer instruction writes its value and goes on. -/
def State.Computes (s : State) (i : Instr) : Prop :=
  ∃ m d v s1 s2, intValue s i = some (m, d) ∧ m s = .ok v s1 ∧ writeS d v s1 = .ok () s2 ∧ exec i s = .next s2.done

/-- A branch goes on at its target or at the next instruction. -/
def State.Branches (s : State) (i : Instr) : Prop :=
  ∃ m off c s1, branchCond i = some (m, off) ∧ m s = .ok c s1 ∧
    exec i s = .next (if c then (s1.modTh (fun t => t.leaveLoop (s1.pc + 2 * off))).taken (s1.pc + 2 * off)
      else s1.modTh (fun t => t.goto s1.nextPc))

/-- A float instruction writes its value, raises its flags and goes on. -/
def State.Floats (s : State) (i : Instr) : Prop :=
  ∃ m toF d v fl s1 s2, floatForm i = some (m, toF, d) ∧ m s = .ok (v, fl) s1 ∧
    (if toF then writeF else writeS) d v (s1.raiseFlags s1.cur fl) = .ok () s2 ∧ exec i s = .next s2.done

/-- A write of a system register has its effect and goes on. -/
def State.Sets (s : State) (i : Instr) : Prop :=
  ∃ num o f v s1, sysWriteForm i = some (num, o, f) ∧ o.read s = .ok v s1 ∧ exec i s = .next (f v s1).done

/-- A vector instruction enters the VU queue and goes on. -/
def State.Enters (s : State) (i : Instr) : Prop :=
  ∃ rs xs s1, vecScalars i = some rs ∧ vecSources rs s = .ok xs s1 ∧ exec i s = .next (s1.vuEnter (s1.vuCmd i xs [])).done

/-- A MAU command enters its core's queue and the thread goes on. -/
def State.Queues (s : State) (i : Instr) : Prop :=
  ∃ m g xs s1, mauForm i = some (m, g) ∧ m s = .ok xs s1 ∧ exec i s = .next (s1.mauEnter (s1.mauCmd i xs g)).done

/-! ### Frames: what an instruction leaves alone -/

def markOf (r : Reg) (u : Bool) : List Nat := if u then [r.toNat] else []

/-- The s registers with a last-use mark of a group of instructions (R25, R26). -/
def marksS : Instr → List Nat
  | .add o | .sub o | .and o | .or o | .xor o | .sll o | .srl o | .sra o | .slt o | .sltu o | .mul o | .mulh o
  | .mulhu o | .min o | .max o | .minu o | .maxu o | .div o | .rem o | .divu o | .remu o | .bext o | .bdep o
  | .pdot o | .pshuf o => markOf o.a o.ua ++ markOf o.b o.ub
  | .padd o _ | .psub o _ | .pmin o _ | .pmax o _ => markOf o.a o.ua ++ markOf o.b o.ub
  | .mov o | .clz o | .ctz o | .popc o | .brev o | .fmvsf o | .fcvtf o => markOf o.a o.ua
  | .sext o _ | .zext o _ => markOf o.a o.ua
  | .psat o _ => markOf o.a o.ua
  | .addi o | .andi o | .ori o | .xori o | .slli o | .srli o | .srai o | .slti o | .sltiu o | .muli o | .mini o
  | .maxi o | .cmpeqi o => markOf o.a o.ua
  | .lb o | .lbu o | .lh o | .lhu o | .lw o | .lwu o | .ld o | .ldf o | .lwf o | .sdf o | .swf o => markOf o.base o.ub
  | .sb o | .sh o | .sw o | .sd o => markOf o.d o.ud ++ markOf o.base o.ub
  | _ => []

/-- The f registers with a last-use mark. -/
def marksF : Instr → List Nat
  | .fadd o _ | .fsub o _ | .fmul o _ | .fdiv o _ | .fmin o _ | .fmax o _ | .fma o _ | .fms o _ | .fnma o _ =>
    markOf o.a o.ua ++ markOf o.b o.ub
  | .cmac o => markOf o.a o.ua ++ markOf o.b o.ub
  | .fsqrt o _ | .fabs o _ | .fneg o _ | .frnd o _ => markOf o.a o.ua
  | .fmvfs o | .conj o | .cswap o | .fcvti o => markOf o.a o.ua
  | .sdf o | .swf o => markOf o.d o.ud
  | _ => []

/-- The back-edge of the active loop is taken after the running instruction (R94). -/
def State.backEdge (s : State) : Prop := inBody s.th.loopst s.pc = true ∧ s.nextPc = loopEnd s.th.loopst

/-- Registers, ports and other threads as instruction `i` leaves them: a register changes that is its destination, has a
last-use mark, or counts an active loop at its back-edge; a port that it names; LOOPST when a loop ends. -/
structure RegFrame (i : Instr) (s t : State) : Prop where
  sregs : ∀ n, n ∉ (usesOf i).ws → n ∉ marksS i → ¬(s.backEdge ∧ n = loopReg s.th.loopst) →
    smGet .dead (t.thread s.cur).sregs n = smGet .dead s.th.sregs n
  fregs : ∀ n, n ∉ (usesOf i).wf → n ∉ marksF i →
    smGet .dead (t.thread s.cur).fregs n = smGet .dead s.th.fregs n
  ports : (∀ n ∈ (usesOf i).rs ++ (usesOf i).ws, n < 56) →
    (t.thread s.cur).q0 = s.th.q0 ∧ (t.thread s.cur).q1 = s.th.q1 ∧ (t.thread s.cur).q2 = s.th.q2 ∧
    (t.thread s.cur).q3 = s.th.q3 ∧ (t.core s.cid).q4 = s.myCore.q4 ∧ (t.core s.cid).q5 = s.myCore.q5 ∧
    (t.core s.cid).q6 = s.myCore.q6 ∧ (t.core s.cid).q7 = s.myCore.q7
  loop : (t.thread s.cur).loopst = s.th.loopst ∨ ((t.thread s.cur).loopst = 0 ∧ s.backEdge)
  threads : ∀ k, k ≠ s.cur → t.thread k = s.thread k
  cores : ∀ c, c ≠ s.cid → t.core c = s.core c

/-- The running thread but for its pc, wait, LOOPST, s and f registers, own ports, pause and fetch buffer. -/
def Thread.rest (t : Thread) : Thread :=
  { t with pc := 0, wait := none, opDone := false, loopst := 0, sregs := [], fregs := [], q0 := [], q1 := [], q2 := [],
           q3 := [], paused := false, fbuf := [] }

/-- The core but for q4 to q7. -/
def Core.rest (c : Core) : Core := { c with q4 := [], q5 := [], q6 := [], q7 := [] }

/-- The core but for q4 to q7, TCM, its TLB, and what the L1 and its shadow tags hold. -/
def Core.apart (c : Core) : Core :=
  { c.rest with tcm := [], tlb := [], l1 := [], shadow := [], depthHits := [], sampled := 0 }

/-- The bytes of chip memory that differ lie in overflow lines that the own L1 wrote back (R70). -/
def State.chipSame (s t : State) : Prop :=
  ∀ a, smGet 0 t.mem a ≠ smGet 0 s.mem a → ∃ x ∈ s.myCore.l1, x.dirty = true ∧ a / 64 = x.line

/-- The own TCM's bytes are unchanged but for `n` bytes at `off` and, where `off` overflows, its line (R70). -/
def State.tcmSame (s t : State) (off n : Nat) : Prop :=
  ∀ a, ¬(off ≤ a ∧ a < off + n) → ¬(s.myCore.tcmUnits * 0x10000 ≤ off ∧ a / 64 = off / 64) →
    smGet 0 (t.core s.cid).tcm a = smGet 0 s.myCore.tcm a
/-- The instruction that parcels decode to, if they decode to one. -/
def decoded (ps : List Nat) : Option Instr :=
  match decodeParcels ps with
  | some (.ok i) => some i
  | _ => none

end Sys2Proof.Machine
end

