-- ==== Sys2Proof/WellFormed.lean ====
section
/-! DEFINITION. The well-formed instructions: those that Acpe can encode and the decoder accepts.
Register numbers stand in their files (R46), P.M and xo values have a meaning (R50, R51), numbers are
assigned (R54, R259) and at most four prefixes are needed (R34). -/

namespace Sys2Proof

/-- A v register (R46). -/
def vOk (r : Reg) : Bool := decide (r.toNat < 32)
/-- An m register or an a slot (R46). -/
def mOk (r : Reg) : Bool := decide (r.toNat < 8)
/-- A tile or a B slot (R46). -/
def tileOk (r : Reg) : Bool := decide (r.toNat < 48)

/-- The base parcel 0x0000 without a P.R of non-zero payload is illegal (R49). -/
def notAllZero (o : Bin) : Bool := !(o.d == 0 && o.a == 0 && o.b == 0)

/-- A destination carries no last-use mark (R41). -/
def loadOk (o : Mem) : Bool := !o.ud
def loadTOk (o : MemT) : Bool := !o.ud

def ctlOk (c : Ctl) : Bool := decide (c.scope.toNat ≤ 5)
def atomOk (f : AtomOp) : Bool := decide (f.op.toNat ≤ 8)
/-- Class 3 is reserved (R50). -/
def clsOk (k : BitVec 2) : Bool := k != 3
/-- FP32, P2, P4: no C32 (R216). -/
def realOk (v : BitVec 2) : Bool := v != 1
/-- A lane width of packed integers (R219). -/
def laneOk (v : BitVec 2) : Bool := v != 3
def subOk (f : BitVec 2) : Bool := f != 3
def vbinOk (o : VBin) : Bool := vOk o.d && vOk o.a && vOk o.b
def vunOk (o : VUn) : Bool := vOk o.d && vOk o.a

/-- The numbers of SYSW that stay in the general form (R113). -/
def sysrOk (n : Word) : Bool := sysNumbers.contains n.toNat && n.toNat != 0x010
def syswOk (n : Word) : Bool :=
  sysNumbers.contains n.toNat && !([0x204, 0x202, 0x011, 0x104, 0x018, 0x105, 0x101, 0x021, 0x108,
    0x004, 0x206, 0x208].contains n.toNat)
def erdOk (n : Word) : Bool := decide (n.toNat ≤ 6 ∨ (256 ≤ n.toNat ∧ n.toNat ≤ 260))

/-- The rules on one instruction's own operands. -/
def operandsOk : Instr → Bool
  | .add o | .div o => notAllZero o
  | .sub _ | .and _ | .or _ | .xor _ | .sll _ | .srl _ | .sra _ | .slt _ | .sltu _ | .mul _ | .mulh _
  | .min _ | .max _ | .mulhu _ | .divu _ | .rem _ | .remu _ | .minu _ | .maxu _ | .bext _ | .bdep _
  | .mapx _ | .unmapx _ | .flmap _ | .ticket _ | .rseq _ | .cmac _ | .pdot _ | .pshuf _ => true
  | .mov _ | .clz _ | .ctz _ | .popc _ | .brev _ | .flstat _ | .talloc _ | .fmvfs _ | .fmvsf _
  | .conj _ | .cswap _ | .fcvti _ | .fcvtf _ | .vcfg _ | .wid _ | .forq _ | .dvstat _ | .dvref _ => true
  | .sext _ _ | .zext _ _ => true
  | .addi _ | .andi _ | .ori _ | .xori _ | .slli _ | .srli _ | .srai _ | .slti _ | .sltiu _ | .muli _
  | .mini _ | .maxi _ | .cmpeqi _ => true
  | .li _ _ | .addpc _ _ => true
  | .beqz _ _ | .bnez _ _ | .bltz _ _ | .bgez _ _ => true
  | .beq _ _ | .bne _ _ | .blt _ _ | .bge _ _ | .bltu _ _ | .bgeu _ _ => true
  | .j _ | .jal _ | .jr _ | .jalr _ => true
  | .loop _ n => decide (0 < n.toInt)
  | .lb o | .lbu o | .lh o | .lhu o | .lw o | .lwu o | .ld o | .ldf o | .lwf o | .pin o | .unpin o
  | .tbwait o => loadOk o
  | .ldfe o _ => loadOk o
  | .ldx o => loadTOk o
  | .pref _ _ => true
  | .sb _ | .sh _ | .sw _ | .sd _ | .sdf _ | .swf _ | .stfe _ | .tbinit _ | .tbexp _ | .xsend _ => true
  | .stx _ | .xsel _ => true
  | .feset _ | .feclr _ | .clean _ | .inval _ | .flush _ | .tbarr _ => true
  | .nop | .pause | .eret | .wfi | .halt | .mwait | .waitm | .yield | .commit | .xphaseLeave => true
  | .trap _ | .bkpt _ | .illegal _ => true
  | .sysr _ n => sysrOk n
  | .sysw _ n => syswOk n
  | .fctlRead _ => true
  | .repdatWrite _ | .prfdatWrite _ | .vctlWrite _ | .flagorWrite _ | .xstatWrite _ | .lotseedWrite _
  | .ecauseWrite _ | .pinqWrite _ | .trctlWrite _ | .devidWrite _ | .slewWrite _ | .devstatWrite _
  | .reListWrite _ | .reHdrWrite _ | .reBufRegister _ | .reFlush _ | .launch _ | .spawn _ | .suspend _
  | .tsset _ | .rngj _ | .rpbar _ | .rpwait _ | .flfree _ | .dvdrop _ => true
  | .tlbinv _ k sc => decide (k.toNat ≤ 2 ∧ sc.toNat ≤ 5)
  | .cacheop _ _ sc => decide (sc.toNat ≤ 5)
  | .fldef _ | .flperm _ | .flswap _ | .axcopy _ | .smark _ | .dvreg _ => true
  | .bmask o => decide (o.a.toNat < 16)
  | .flxch _ | .axscale _ | .msend _ | .rtsend _ => true
  | .tldb o | .tst o => loadOk o && tileOk o.d
  | .mma t _ b n _ | .mmaz t _ b n _ => tileOk t && tileOk b && decide (n.toNat < 48)
  | .twm _ t => tileOk t
  | .tclr t => tileOk t
  | .axld o k _ => loadOk o && mOk o.d && decide (1 ≤ k.toNat ∧ k.toNat ≤ 4)
  | .axapply _ a _ _ _ _ => mOk a
  | .axphase _ _ => true
  | .axsum _ _ => true
  | .fadd _ _ | .fsub _ _ | .fmul _ _ | .fdiv _ _ | .fma _ _ | .fms _ _ | .fnma _ _ => true
  | .fmin _ v | .fmax _ v => realOk v
  | .fsqrt _ v | .fabs _ v => realOk v
  | .fneg _ _ | .fclass _ _ | .frnd _ _ => true
  | .fcmp _ v c => v != 1 || c == 0 || c == 3
  | .fcvt _ a b => isConversion a.toNat b.toNat
  | .padd _ v | .psub _ v | .pmin _ v | .pmax _ v => laneOk v
  | .psat _ v => laneOk v
  | .frng _ _ => true
  | .vadd o | .vsub o | .vmul o | .vfma o | .vmax o | .vmin o | .vdiv o | .vperm o => vbinOk o
  | .vsf o _ | .vcvt o _ => vunOk o
  | .vabs o => vunOk o
  | .vcmp o _ => mOk o.d && vOk o.a && vOk o.b
  | .vsel o => vbinOk o && o.m != 0
  | .vbcst o _ => vOk o.d
  | .vred o f => vOk o.a && subOk f
  | .vscan o f => vunOk o && subOk f
  | .vrand d _ => vOk d
  | .vld o | .vst o => vOk o.d
  | .vlds o | .vsts o => vOk o.d
  | .vldx o | .vstx o => vOk o.d && vOk o.t
  | .scfg o => vOk o.d
  | .sstat _ v => vOk v
  | .repv _ _ _ _ => true
  | .vmsk o _ => mOk o.d
  | .vext o _ => vOk o.a
  | .vins o _ _ => vOk o.d
  | .barr _ | .barw _ | .barq _ _ | .xphaseEnter _ => true
  | .mrecv d t => decide (d.toNat < 16) || t.isSome
  | .tsget _ => true
  | .ewr _ n => decide (n.toNat ≤ 6)
  | .erd _ n => erdOk n
  | .copyLaunch _ => true
  | .fence c => ctlOk c && c.order != 0
  | .amo o f c => loadTOk o && atomOk f && ctlOk c
  | .cas o c => loadTOk o && ctlOk c
  | .redf _ c => ctlOk c
  | .rwr _ k | .rwrb _ k | .renq _ k | .rred _ k => clsOk k
  | .ramo o f k c => loadTOk o && atomOk f && clsOk k && ctlOk c
  | .rcas o k c => loadTOk o && clsOk k && ctlOk c
  | .fencer m => m != 0
  | .powerUp | .marchTimeout | .readyClockRaise | .coreRestart | .carveInterval | .carveMoveDone
  | .registerFill | .queueStallTimeout | .vuPopStallTimeout | .vuInstructionStart
  | .vuInstructionComplete | .mauCommandStart | .tileRowFinal | .mauCommandComplete
  | .flxchCopyPhase | .flxchPartnerTimeout | .ldfeSuspendTimeout | .barrierArrivalCounted
  | .barrierRelease | .barrierWaitSpill | .mailboxDelivery | .mailboxPortDrain | .wfiTimeout
  | .pauseExpiry | .copyCommandStart | .copyCommandComplete | .unitCreate | .lotteryDraw
  | .gangStart | .domainMinimumUpdate | .preemptMessage | .resumeMessage | .launchComplete
  | .endlWrite | .digestRequestWrite | .digestComplete | .xsendTransmit | .xselCapture
  | .phaseForcedEnd | .segmentCommitComplete | .redfEntryArrival | .redfEntryRetry
  | .reduceStallTimeout | .remoteOpArrival | .remoteAckArrival | .remoteResponseArrival
  | .requestRecordArrival | .packetNakResend | .packetForward | .multicastForward
  | .linkFlitReceive | .linkModeSet | .routingTableInstall | .routingTableSwitch
  | .routingGenerationRetire | .routerPowerDown | .routerWake | .streamEntryWrite
  | .markerArrival | .reductionPacketArrival | .reduceLimitExpiry | .endpointReductionArrival
  | .endpointIncompleteTimeout | .closedRecordExpiry | .podDeviceArrival | .podRootComplete
  | .podRelease | .routeRecordSend | .tokenArrival | .flushSummary | .staleNoticeArrival
  | .staleNoticeAck | .recomputeComplete | .l1MissReturn | .memoryScrub | .governorWindow
  | .mauRampArm | .hostWrite | .hostRead | .hostLaunch | .hostSpawn | .hostMsg | .hostFence
  | .hostAttestation | .captureStream | .partitionCreate | .partitionSuspend | .partitionRestore
  | .partitionEnd | .clusterHandover | .registerWrite | .scratchpadAccessArrival
  | .tlbAcknowledgement | .cacheLineOperationPerformed | .eventQueueRegistration
  | .podBarrierConfiguration | .linkKeyReplacement => true

/-- At most four prefixes hold the operands (R28, R34). -/
def Parts.ok (p : Parts) : Bool := decide (p.prefixes ≤ 4) && p.fits p.piCount

/-- An instruction that `encode` can write; a third register is written in a P.R even where it is s0. An event has no
encoding and is well-formed. -/
def wellFormed (i : Instr) : Bool :=
  operandsOk i && (match partsOf i with
    | some p => p.ok
    | none => true)

end Sys2Proof
end

