-- ==== Sys2Proof/Certificates/Slice0/Obligations.lean ====
section
/-! DEFINITION. The statements for the provers. -/

open Sys2Proof Sys2Proof.Machine

/-- Every integer instruction writes the value the tables of R81 to R86 give for its operands, and goes on. -/
def Obligations.IntegerResult : Prop :=
  ∀ (s s1 s2 : State) (i : Instr) (m : Sem Word) (d : Reg) (v : Word),
    intValue s i = some (m, d) → s.fits false →
    m s = .ok v s1 → writeS d v s1 = .ok () s2 → exec i s = .next s2.done

/-- BZ, BC and J: taken, the thread goes on at pc + 2 × offset, is no candidate for the next 2 clk and leaves an
active loop whose body does not hold the target; not taken, it goes on at the next instruction (R88 to R90, R93, R97). -/
def Obligations.BranchResult : Prop :=
  ∀ (s s1 : State) (i : Instr) (m : Sem Bool) (off : Word) (c : Bool),
    branchCond i = some (m, off) → s.fits true → m s = .ok c s1 →
    exec i s = .next (if c then (s1.modTh (fun t => t.leaveLoop (s1.pc + 2 * off))).taken (s1.pc + 2 * off)
      else s1.modTh (fun t => t.goto s1.nextPc))

/-- JAL, JR and JALR: the link goes to s1, the thread goes on at the target; LOOPST stays; an odd target of JR and JALR
raises MISALIGN with it in EINFO (R90, R91, R97). -/
def Obligations.JumpResult : Prop :=
  (∀ (s : State) (off : Word), s.fits true → 
    exec (.jal off) s = .next ((s.modTh (fun t => t.setS 1 s.nextPc)).taken (s.pc + 2 * off))) ∧
  (∀ (s s1 : State) (o : Line) (a : Word), s.fits true → o.ea s = .ok a s1 → a.toNat % 2 = 0 →
    exec (.jr o) s = .next (s1.taken a) ∧
    exec (.jalr o) s = .next ((s1.modTh (fun t => t.setS 1 s.nextPc)).taken a)) ∧
  (∀ (s s1 : State) (o : Line) (a : Word), s.fits true → o.ea s = .ok a s1 → a.toNat % 2 = 1 →
    exec (.jr o) s = .next (s.raise s.cur ⟨0x04, a⟩) ∧ exec (.jalr o) s = .next (s.raise s.cur ⟨0x04, a⟩))

/-- LOOP (R94, R96): with no loop active and LEN from 1 to 511 it activates the body that follows; a count of zero, and
s0, go on behind it. An active loop, another LEN and a port raise ILLEGAL_OP. At the back-edge a count of 0 or 1 ends the
loop, clearing LOOPST; a larger one is decremented, and the body starts again. Each back-edge of a body of more than 32
parcels, the ending one too, pauses the thread for 2 clk (R93). -/
def Obligations.LoopResult : Prop :=
  (∀ (s : State) (a : Reg) (len : Word), s.fits true → loopActive s.th.loopst = false →
    1 ≤ len.toInt → len.toInt ≤ 511 → a.toNat < 56 → (s.myCore.test = true → a.toNat < 16) →
    exec (.loop a len) s = .next
      (if a.toNat = 0 ∨ s.th.getS a.toNat = 0 then s.taken (s.nextPc + 2 * len)
       else s.modTh (fun t => { t.goto s.nextPc with
         loopst := loopWord a.toNat len.toNat (s.nextPc + 2 * len) }))) ∧
  (∀ (s : State) (a : Reg) (len : Word), s.fits true →
    (loopActive s.th.loopst = true ∨ len.toInt ≤ 0 ∨ 511 < len.toInt ∨ 56 ≤ a.toNat) →
    exec (.loop a len) s = .next (s.raise s.cur ⟨0x01, s.baseInfo⟩)) ∧
  (∀ (s : State) (n : Nat), n = loopReg s.th.loopst → s.backEdge →
    ((s.th.getS n).toNat ≤ 1 → s.done.th.getS n = 0 ∧ s.done.th.loopst = 0 ∧ s.done.th.pc = s.nextPc) ∧
    (1 < (s.th.getS n).toNat → s.done.th.getS n = s.th.getS n - 1 ∧ s.done.th.loopst = s.th.loopst ∧
      s.done.th.pc = loopStart s.th.loopst)) ∧
  (∀ (s : State), s.backEdge → 32 < loopLen s.th.loopst → s.done.th.paused = true ∧
    (s.clk + 3, Instr.pauseExpiry, ({ tid := s.cur } : Ev)) ∈ s.done.agenda) ∧
  (∀ (s : State), ¬s.backEdge → s.done.th.pc = s.nextPc ∧ s.done.th.loopst = s.th.loopst)

/-- Each load writes what it makes of the bytes at its address (R101 to R103). Each store stores the low bytes of its
data register at its address (R101, R104). -/
def Obligations.AccessResult : Prop :=
  (∀ (s s1 s2 s3 : State) (i : Instr) (o : Mem) (n v : Nat) (ext : Nat → Word) (f : Bool) (ea : Word),
     loadForm i = some (o, n, ext, f) → s.fits false → (f = true → s.myCore.test = false) →
     o.loadEa s = .ok ea s1 → loadN ea n s1 = .ok v s2 →
     (if f then writeF else writeS) o.d (ext v) s2 = .ok () s3 → exec i s = .next s3.done) ∧
  (∀ (s s1 s2 : State) (i : Instr) (m : Sem (Word × Word)) (n : Nat) (v ea : Word),
     storeForm i = some (m, n) → s.fits false → m s = .ok (v, ea) s1 →
     storeN ea n v.toNat s1 = .ok () s2 → exec i s = .next s2.done)

/-- SYSR reads a register at a level that may read it; FCTL once the flags are in (R112, R113, R166). Writes of system
registers, at a level that may write them, outside a speculative segment (R112, R113). Below its level a register is
not read and not written: PRIV, with the base parcel in EINFO (R113, R115). -/
def Obligations.SystemRegisters : Prop :=
  (∀ (s s1 : State) (d : Reg) (num : Word), s.fits false →
    (sysReadLevel num.toNat).toNat ≤ s.th.level.toNat → writeS d (s.sysRead num.toNat) s = .ok () s1 →
    exec (.sysr d num) s = .next s1.done) ∧
  (∀ (s s1 : State) (d : Reg), s.fits false → s.th.capture.left = 0 → s.th.vuq = [] → s.th.pendVec = none →
    s.mauBusy s.cur = false → writeS d s.th.fctl s = .ok () s1 → exec (.fctlRead d) s = .next s1.done) ∧
  (∀ (s s1 : State) (i : Instr) (num : Nat) (o : Src1) (f : Word → State → State) (v : Word),
     sysWriteForm i = some (num, o, f) → s.fits false →
     (sysWriteLevel num).toNat ≤ s.th.level.toNat → o.read s = .ok v s1 → s1.speculative s1.th = false →
     exec i s = .next (f v s1).done) ∧
  (∀ (s : State) (d : Reg) (num : Word), s.th.level.toNat < (sysReadLevel num.toNat).toNat →
     exec (.sysr d num) s = .next (s.raise s.cur ⟨0x03, s.baseInfo⟩)) ∧
  (∀ (s : State) (i : Instr) (num : Nat) (o : Src1) (f : Word → State → State),
     sysWriteForm i = some (num, o, f) → s.th.level.toNat < (sysWriteLevel num).toNat →
     exec i s = .next (s.raise s.cur ⟨0x03, s.baseInfo⟩))

/-- LDFE takes the doubleword of a full granule, which LDFE.c empties; one that has waited takes the value that the bank
has sent it; STFE stores and fills; FESET fills and FECLR
empties (R107). -/
def Obligations.FullEmptyResult : Prop :=
  (∀ (s s1 s2 s3 : State) (o : Mem) (keep : Bool) (ea : Word) (cl off : Nat),
    s.fits false → o.loadEa s = .ok ea s1 → fePlace (.load 8) ea s1 = .ok (cl, off) s2 →
    (keep = false → s2.speculative s2.th = false) → (cl ≠ s2.kid → s2.th.meshOut = 0) →
    s2.th.meshVal = none → smGet false (s2.cluster cl).full (off / 16) = true → s2.spadPoison cl off 8 = none →
    writeS o.d (BitVec.ofNat 64 ((s2.cluster cl).read off 8)) (if keep then s2 else s2.setEmpty cl (off / 16)) =
      .ok () s3 →
    exec (.ldfe o keep) s = .next s3.done) ∧
  (∀ (s s1 s2 s3 : State) (o : Mem) (keep : Bool) (ea : Word) (cl off v : Nat),
    s.fits false → o.loadEa s = .ok ea s1 → fePlace (.load 8) ea s1 = .ok (cl, off) s2 →
    (keep = false → s2.speculative s2.th = false) → s2.th.meshVal = some v →
    writeS o.d (BitVec.ofNat 64 v) (s2.modTh (fun t => { t with meshVal := none })) = .ok () s3 →
    exec (.ldfe o keep) s = .next s3.done) ∧
  (∀ (s s1 s2 s3 s4 : State) (o : Mem) (v ea : Word) (w cl off : Nat),
    s.fits false → o.storeEa s = .ok (v, ea) s1 → fePlace (.store 8) ea s1 = .ok (cl, off) s2 →
    s2.speculative s2.th = false → meshAccess cl off 0 s2 = .ok w s3 → noteStored (.spad cl off) 8 0xFF s3 = .ok () s4 →
    exec (.stfe o) s = .next ((s4.spadWrite cl off 8 v.toNat).setFull cl (off / 16)).done) ∧
  (∀ (s s1 s2 s3 : State) (o : Line) (ea : Word) (w cl off : Nat),
    s.fits false → o.ea s = .ok ea s1 →
    fePlace { kind := .store, bytes := 1, aligned := false } ea s1 = .ok (cl, off) s2 →
    s2.speculative s2.th = false → meshAccess cl off 0 s2 = .ok w s3 →
    exec (.feset o) s = .next (s3.setFull cl (off / 16)).done ∧
    exec (.feclr o) s = .next (s3.setEmpty cl (off / 16)).done)

/-- PIN and UNPIN answer 4 for an address no L1 holds; for a line in the L1 they answer the codes of R75 and pin or
unpin it; CLEAN, INVAL and FLUSH of an absent or clean line, and PREF, complete at once (R108 to R110). -/
def Obligations.LineResult : Prop :=
  (∀ (s s1 s2 s3 : State) (o : Mem) (ea : Word) (p : Place),
    s.fits false → o.loadEa s = .ok ea s1 → linePlace ea s1 = .ok p s2 → s2.lineOf p = none →
    writeS o.d 4 s2 = .ok () s3 →
    exec (.pin o) s = .next s3.done ∧ exec (.unpin o) s = .next s3.done) ∧
  (∀ (s s1 s2 s3 s4 : State) (o : Mem) (ea : Word) (p : Place) (line : Nat) (tcm : Bool) (code : Nat),
    s.fits false → o.loadEa s = .ok ea s1 → linePlace ea s1 = .ok p s2 → s2.lineOf p = some (line, tcm) →
    s2.th.lineFault = none → (tcm = false → s2.isStale (line * 64) = false) →
    (∀ off, p = .tcm off → s2.myCore.unitMoving off = false) → l1Need line tcm false s2 = .ok () s3 →
    code = (if s3.myCore.isPinned line tcm then 1
      else if 16 - s3.myCore.tcmUnits ≤ s3.myCore.pinnedIn line + 1 then 2
      else if smGet 0 s3.myCore.quota s3.th.part ≤ smGet 0 s3.myCore.used s3.th.part then 3 else 0) →
    writeS o.d (BitVec.ofNat 64 code) (if code = 0 then s3.modMyCore (fun c => { c.setPin line tcm true with
      used := smSet 0 c.used s3.th.part (smGet 0 c.used s3.th.part + 1) }) else s3) = .ok () s4 →
    exec (.pin o) s = .next s4.done) ∧
  (∀ (s s1 s2 s3 : State) (o : Mem) (ea : Word) (p : Place) (line : Nat) (tcm : Bool),
    s.fits false → o.loadEa s = .ok ea s1 → linePlace ea s1 = .ok p s2 → s2.lineOf p = some (line, tcm) →
    (∀ off, p = .tcm off → s2.myCore.unitMoving off = false) →
    (if s2.myCore.isPinned line tcm then
       writeS o.d 0 (s2.modMyCore (fun c => { c.setPin line tcm false with
         used := smSet 0 c.used s2.th.part (smGet 0 c.used s2.th.part - 1) }))
     else writeS o.d 1 s2) = .ok () s3 →
    exec (.unpin o) s = .next s3.done) ∧
  (∀ (s s1 s2 : State) (o : Line) (ea : Word) (p : Place),
    s.fits false → o.ea s = .ok ea s1 → linePlace ea s1 = .ok p s2 → s2.lineOf p = none →
    exec (.clean o) s = .next s2.done ∧ exec (.inval o) s = .next s2.done ∧
    exec (.flush o) s = .next s2.done) ∧
  (∀ (s s1 s2 : State) (o : Line) (ea : Word) (p : Place) (line : Nat) (tcm : Bool),
    s.fits false → o.ea s = .ok ea s1 → linePlace ea s1 = .ok p s2 → s2.lineOf p = some (line, tcm) →
    (∀ off, p = .tcm off → s2.myCore.unitMoving off = false) → s2.th.opDone = false →
    exec (.inval o) s = .next (s2.l1Op s2.cid 1 line tcm).done ∧
    (s2.myCore.l1.any (fun x => x.line == line && x.tcm == tcm && x.dirty) = false →
      exec (.clean o) s = .next (s2.l1Op s2.cid 0 line tcm).done ∧
      exec (.flush o) s = .next (s2.l1Op s2.cid 2 line tcm).done)) ∧
  (∀ (s s1 s2 : State) (o : Line) (ea : Word) (hint : BitVec 1),
    s.fits false → o.ea s = .ok ea s1 →
    (prefetch hint ea s1 = .ok () s2 ∨ (∃ e s', prefetch hint ea s1 = .error e s') ∧ s2 = s1) →
    exec (.pref hint o) s = .next s2.done)

/-- LDX and STX reach the element that elemPlace finds; STX changes the bits of its element alone; MAPX and UNMAPX
map an index by the field's map (R87, R154). -/
def Obligations.ElementResult : Prop :=
  (∀ (s s1 s2 s3 s4 s5 : State) (o : MemT) (h t ea : Word) (dpa q v : Nat) (d : Desc) (p : Place),
    s.fits false → s.myCore.test = false → Src2.read ⟨o.base, o.t, o.ub, o.ut⟩ s = .ok (h, t) s1 →
    elemPlace h (t + o.off) s1 = .ok (ea, dpa, d, q) s2 →
    check { kind := .load, bytes := d.size } ea s2 = .ok p s3 → loadPlace p ea d.size s3 = .ok v s4 →
    writeF o.d (BitVec.ofNat 64 (d.pick q v)) s4 = .ok () s5 → exec (.ldx o) s = .next s5.done) ∧
  (∀ (s s1 s2 s3 s4 s5 : State) (o : MemT) (h t ea : Word) (dpa q v : Nat) (d : Desc) (p : Place),
    s.fits false → s.myCore.test = false → Src2.read ⟨o.base, o.t, o.ub, o.ut⟩ s = .ok (h, t) s1 →
    killF o.d o.ud s1 = .ok () s2 → elemPlace h (t + o.off) s2 = .ok (ea, dpa, d, q) s3 →
    check (.store d.size) ea s3 = .ok p s4 → v = d.place q 0 (s.th.getF o.d.toNat).toNat →
    (match p with
      | .chip pa => (do
          noteStored (.chip pa) d.size (if d.fmt = 5 then (if q % 2 = 0 then 0x0F else 0xF0) else 0xFF)
          bufferCells pa ((cellsOf pa d.size v).map (fun (c : Host.Cell) =>
            (c.1, c.2, if d.fmt = 5 then (if q % 2 = 0 then 0x0F else 0xF0) else 0xFF))) [dpa]
            [⟨dpa, q, pa, (s.th.getF o.d.toNat).toNat % 2 ^ 64⟩])
      | p => storePlace p d.size v) s4 = .ok () s5 →
    exec (.stx o) s = .next s5.done) ∧
  (∀ (s s1 s2 s3 : State) (o : Bin) (x h : Word) (d : Desc) (dpa : Nat) (inv : Bool),
    s.fits false → o.read s = .ok (x, h) s1 → descDefined h s1 = .ok (d, dpa) s2 →
    writeS o.d (BitVec.ofNat 64 (if inv then d.unmapx x.toNat else d.mapx x.toNat)) s2 = .ok () s3 →
    exec (if inv then .unmapx o else .mapx o) s = .next s3.done)

/-- AMO and CAS return the old value and leave the new one (R326); an AMO of chip memory that returns nothing is
buffered as an entry, as REDF is, which RM 5 to 7 makes illegal; one of a scratchpad is performed at once; each comes after
the thread's queued vector stores (R161, R309, R313, R327; log 93). RSEQ takes a slot, answers 1 when the slice has none and 2 for a word
that has one; a release answers the count and the drops, or all ones without a slot (R329). The new value of each
atomic operation on 4 or 8 bytes, from the tables of R51 and R326. -/
def Obligations.AtomicResult : Prop :=
  (∀ (s s1 s2 s3 s4 : State) (o : MemT) (op : AtomOp) (c : Ctl) (ea t : Word) (p : Place) (old : Nat),
    s.fits false → o.loadEa s = .ok (ea, t) s1 → atomPlace ea (if op.w32 then 4 else 8) s1 = .ok p s2 → o.d ≠ 0 →
    atomReturn c p (if op.w32 then 4 else 8) (fun x => amoNew op.op.toNat (if op.w32 then 4 else 8) x
      (t.toNat % 2 ^ (8 * (if op.w32 then 4 else 8)))) s2 = .ok old s3 →
    writeS o.d (sextW old (8 * (if op.w32 then 4 else 8))) s3 = .ok () s4 →
    exec (.amo o op c) s = .next s4.done) ∧
  (∀ (s s1 s2 : State) (o : MemT) (op : AtomOp) (c : Ctl) (ea t : Word) (pa : Nat),
    s.fits false → o.loadEa s = .ok (ea, t) s1 →
    atomPlace ea (if op.w32 then 4 else 8) s1 = .ok (.chip pa) s2 → o.d = 0 → vuStored s2 = .ok () s2 →
    (Ctl.releases c = true → s2.Stored) → entryCount s2.th.entries < 480 →
    exec (.amo o op c) s = .next (s2.modTh (fun x =>
      { x with entries := x.entries ++ [.amo pa op.op.toNat (if op.w32 then 4 else 8) t] })).done) ∧
  (∀ (s s1 s2 s3 s4 : State) (o : MemT) (op : AtomOp) (c : Ctl) (ea t : Word) (cl off x old : Nat),
    s.fits false → o.loadEa s = .ok (ea, t) s1 →
    atomPlace ea (if op.w32 then 4 else 8) s1 = .ok (.spad cl off) s2 → o.d = 0 → vuStored s2 = .ok () s2 →
    (Ctl.releases c = true → s2.Stored) → s2.speculative s2.th = false →
    meshAccess cl off (if op.w32 then 4 else 8) s2 = .ok x s3 →
    atomAt (.spad cl off) (if op.w32 then 4 else 8) (fun x => amoNew op.op.toNat (if op.w32 then 4 else 8) x
      (t.toNat % 2 ^ (8 * (if op.w32 then 4 else 8)))) s3 = .ok old s4 →
    exec (.amo o op c) s = .next s4.done) ∧
  (∀ (s s1 s2 s3 s4 : State) (o : MemT) (c : Ctl) (d ea t : Word) (p : Place) (old : Nat),
    s.fits false → o.storeEa s = .ok (d, ea, t) s1 → atomPlace ea 8 s1 = .ok p s2 →
    atomReturn c p 8 (fun x => if x = d.toNat then t.toNat else x) s2 = .ok old s3 →
    writeS o.d (BitVec.ofNat 64 old) s3 = .ok () s4 → exec (.cas o c) s = .next s4.done) ∧
  (∀ (s s1 s2 : State) (o : MemT) (c : Ctl) (v ea t : Word) (pa : Nat),
    s.fits false → s.th.rm < 5 → o.storeEaF 1 s = .ok ([v], ea, t) s1 → check (.store 4) ea s1 = .ok (.chip pa) s2 →
    vuStored s2 = .ok () s2 → (Ctl.releases c = true → s2.Stored) → entryCount s2.th.entries < 480 →
    exec (.redf o c) s = .next (s2.modTh (fun x =>
      { x with entries := x.entries ++ [.redf pa (v.truncate 32) (t.truncate 32) s.th.rm] })).done) ∧
  (∀ (s : State) (o : MemT) (c : Ctl), s.fits false → 5 ≤ s.th.rm →
    exec (.redf o c) s = .next (s.raise s.cur ⟨0x01, s.baseInfo⟩)) ∧
  (∀ (s s1 s2 s3 s4 : State) (o : Bin) (a t : Word) (pa : Nat),
     s.fits false → o.read s = .ok (a, t) s1 → bitsN t.toNat 62 32 = 0 → check (.store 4) a s1 = .ok (.chip pa) s2 →
     commitOnly s2 = .ok () s3 → (t.toNat.testBit 63 = true → s3.writeHeld [pa / 256] = false) →
     (match s3.slotAt pa, t.toNat.testBit 63 with
       | some _, false => writeS o.d 2 s3
       | none, false =>
         if 16 ≤ (s3.slots.filter (fun (x : Slot) => homeSlice x.pa == homeSlice pa)).length then writeS o.d 1 s3
         else
           let x : Slot := {
             pa := pa, next := bitsN t.toNat 31 0, drop := 0, ownerPart := s3.th.part, owner := s3.th.record }
           writeS o.d 0 { s3 with slots := x :: s3.slots }
       | none, true => writeS o.d (-1) s3
       | some x, true =>
         let r := s3.flushSlot x
         writeS o.d (BitVec.ofNat 64 (r.2 % 2 ^ 32 + x.drop % 2 ^ 32 * 2 ^ 32))
           { r.1 with slots := r.1.slots.filter (fun y => y.pa != pa) }) = .ok () s4 →
     exec (.rseq o) s = .next s4.done) ∧
  (∀ (w old t : Nat), w = 4 ∨ w = 8 → old < 2 ^ (8 * w) → t < 2 ^ (8 * w) →
     amoNew 0 w old t = (old + t) % 2 ^ (8 * w) ∧ amoNew 1 w old t = old &&& t ∧ amoNew 2 w old t = old ||| t ∧
     amoNew 3 w old t = old ^^^ t ∧
     (amoNew 4 w old t = if (BitVec.ofNat (8 * w) t).toInt < (BitVec.ofNat (8 * w) old).toInt then t else old) ∧
     (amoNew 5 w old t = if (BitVec.ofNat (8 * w) old).toInt < (BitVec.ofNat (8 * w) t).toInt then t else old) ∧
     amoNew 6 w old t = min old t ∧ amoNew 7 w old t = max old t ∧ amoNew 8 w old t = t)

/-- COMMIT, and FENCE of an order and a scope, go on when nothing is outstanding; a COMMIT and a FENCE of chip scope or
wider begin a new segment (R322, R323). -/
def Obligations.FenceResult : Prop :=
  ∀ (s : State) (c : Ctl), s.fits false → s.Quiet →
    exec .commit s = .next (s.modTh (fun t => { t with segNew := true })).done ∧
    (c.order ≠ 0 → c.scope.toNat ≤ 5 → exec (.fence c) s = .next
      (if 4 ≤ c.scope.toNat then (s.modTh (fun t => { t with segNew := true })).done else s.done))

/-- TRAP, BKPT and ILLEGAL of a thread whose fault is taken at once: EPC, ECAUSE with the level, EINFO, ELOOP and EREC
hold what R114 says, LOOPST is clear, q0 to q3 are empty, the FAULT word stands in the record, and the handler runs at S. A fault while a
handler is active is not delivered: the thread stops, ST 7, NESTED in its FAULT word (R116). -/
def Obligations.TrapEntry : Prop :=
  (∀ (s s1 : State) (i : Instr) (cause : Nat) (info : Word) (code : BitVec 8),
     (i = .trap code ∧ cause = 0x19 ∧ info = code.zeroExtend 64 ∨
      i = .bkpt code ∧ cause = 0x1A ∧ info = code.zeroExtend 64 ∨
      i = .illegal code ∧ cause = 0x01 ∧ info = s.baseInfo) →
     s.fits true → s.Takes →
     (s.modTh (fun t => { t with lineFault := none })).frameWrite s.th.part s.cid (s.th.record + 0x38)
       (faultWord false ⟨cause, info⟩) = .ok s1 → s1.thread s.cur = { s.th with lineFault := none } →
     Completes i s (fun t =>
       t.mem = s1.mem ∧ (t.thread s.cur).epc = s.th.pc ∧
       (t.thread s.cur).ecause = BitVec.ofNat 64 (0x8000 + s.th.level.toNat * 256 + cause) ∧
       (t.thread s.cur).einfo = info ∧ (t.thread s.cur).eloop = s.th.loopst ∧ (t.thread s.cur).loopst = 0 ∧
       (t.thread s.cur).erec = s.th.record ∧ (t.thread s.cur).level = .S ∧
       (t.thread s.cur).pc = (s1.part s.th.part).trapvec &&& ~~~1#64 ∧
       (t.thread s.cur).sregs = s.th.sregs ∧ (t.thread s.cur).fregs = s.th.fregs ∧
       (t.thread s.cur).q0 = [] ∧ (t.thread s.cur).q1 = [] ∧ (t.thread s.cur).q2 = [] ∧ (t.thread s.cur).q3 = [])) ∧
  (∀ (s s1 : State) (code : BitVec 8), s.fits true → s.th.level ≠ .F → s.myCore.test = false → hact s.th = true →
     s.th.capture = {} → s.th.xsel = none → s.th.vuq = [] → s.th.entries = [] → s.speculative s.th = false →
     ((s.modTh (fun t => { t with lineFault := none })).modTh Thread.emptied).frameWrite s.th.part s.cid
       (s.th.record + 0x38) (faultWord true ⟨0x19, code.zeroExtend 64⟩) = .ok s1 →
     exec (.trap code) s = .next (s1.markFaulted s.cur ⟨0x19, code.zeroExtend 64⟩) ∧
     (∀ (u : State) (f : Flt), ((u.markFaulted s.cur f).thread s.cur).stopped = true ∧
       ((u.markFaulted s.cur f).thread s.cur).st = 7))

/-- ERET restores LOOPST, which stays zero where ELOOP has ACTIVE = 0 (R95), the level and the pc, and clears HACT; at U it raises PRIV, without a handler ILLEGAL_OP, and
at S a return to F raises PRIV (R117). -/
def Obligations.EretResult : Prop :=
  decoded [0xE200] = some .eret ∧
  (∀ (s : State), s.fits true → s.th.level ≠ .U → hact s.th = true →
    (bitsN s.th.ecause.toNat 9 8 = 0 ∨ bitsN s.th.ecause.toNat 9 8 = 1 ∨
      bitsN s.th.ecause.toNat 9 8 = 2 ∧ s.th.level = .F) →
    Completes .eret s (fun t =>
      (t.thread s.cur).loopst = (if s.th.eloop.toNat.testBit 63 then s.th.eloop else 0) ∧ (t.thread s.cur).pc = s.th.epc &&& ~~~1#64 ∧
      (t.thread s.cur).level.toNat = bitsN s.th.ecause.toNat 9 8 ∧
      (t.thread s.cur).ecause = putBits s.th.ecause 15 15 0 ∧
      (t.thread s.cur).sregs = s.th.sregs ∧ t.mem = s.mem)) ∧
  (∀ (s : State), s.th.level = .U →
    exec .eret s = .next (s.raise s.cur ⟨0x03, s.baseInfo⟩)) ∧
  (∀ (s : State), s.fits true → s.th.level ≠ .U → (hact s.th = false ∨ bitsN s.th.ecause.toNat 9 8 = 3) →
    exec .eret s = .next (s.raise s.cur ⟨0x01, s.baseInfo⟩)) ∧
  (∀ (s : State), s.fits true → s.th.level = .S → hact s.th = true → bitsN s.th.ecause.toNat 9 8 = 2 →
    exec .eret s = .next (s.raise s.cur ⟨0x03, s.baseInfo⟩))

/-- NOP only goes on; PAUSE goes on and is no candidate in the 16 clk that follow; WFI with a mailbox entry goes on; PAUSE_EXPIRY makes
the thread a candidate again; HALT at level F stops the thread, below it it raises PRIV
(R118). -/
def Obligations.IdleResult : Prop :=
  (∀ (s : State), s.fits false → exec .nop s = .next s.done) ∧
  (∀ (s : State), s.fits false → exec .pause s =
    .next (((s.modTh (fun t => { t with paused := true })).post 17 .pauseExpiry { tid := s.cur }).done)) ∧
  (∀ (s : State), s.fits false → s.myCore.mailbox ≠ [] → exec .wfi s = .next s.done) ∧
  (∀ (s : State), s.ev.ok = false → exec .pauseExpiry s =
    .next (s.modThread s.ev.tid (fun t => { t with paused := false }))) ∧
  (∀ (s : State), s.fits false → s.th.level = .F → s.speculative s.th = false →
    exec .halt s = .next (let s' := s.modTh (fun t => { t with stopped := true })
      (if s.myCore.test then (s'.marchDone s.cid).bringUp else s').done)) ∧
  (∀ (s : State), s.th.level ≠ .F → exec .halt s = .next (s.raise s.cur ⟨0x03, s.baseInfo⟩))

/-- TLBINV and CACHEOP go on once their operation is acknowledged (R119, R120); one that waits posts an acknowledgement for
each TLB in scope, and each drops the entries that R119 names, a core's once no axis command holds descriptors through them
(R404). -/
def Obligations.InvalidateResult : Prop :=
  (∀ (s s1 : State) (o : Src1) (kind : BitVec 2) (scope : BitVec 3) (va : Word), s.fits false →
    kind ≠ 3 → (if kind = 2 then Level.F else .S).toNat ≤ s.th.level.toNat →
    o.read s = .ok va s1 → s1.speculative s1.th = false →
    exec (.tlbinv o kind scope) s = .next (if s1.th.opDone then
      (s1.modTh (fun t => { t with opDone := false })).done else s.park (.tlb kind.toNat scope.toNat va))) ∧
  (∀ (s s1 s2 : State) (o : Src1) (op : BitVec 2) (scope : BitVec 3) (ea : Word) (p : Place), s.fits false →
    (op = 1 → 4 ≤ scope.toNat → Level.S.toNat ≤ s.th.level.toNat) →
    o.read s = .ok ea s1 → s1.speculative s1.th = false → linePlace ea s1 = .ok p s2 →
    (∀ off, p = .tcm off → s2.myCore.unitMoving off = false) →
    (s2.th.opDone = true → exec (.cacheop o op scope) s =
      .next (s2.modTh (fun t => { t with opDone := false })).done) ∧
    (s2.th.opDone = false → s2.lineOf p = none → exec (.cacheop o op scope) s = .next s2.done) ∧
    (∀ line tcm, s2.th.opDone = false → s2.lineOf p = some (line, tcm) → op ≠ 3 → exec (.cacheop o op scope) s =
      .next (s.park (.lineOp op.toNat scope.toNat (line / 4) tcm))) ∧
    (∀ line tcm, s2.th.opDone = false → s2.lineOf p = some (line, tcm) → op = 3 →
      Completes (.cacheop o op scope) s (fun t => t.mem = s2.mem ∧ t.th.pc = s2.done.th.pc))) ∧
  (∀ (s : State), s.ev.id < 1024 → s.descsHeld s.ev.id = true →
    exec .tlbAcknowledgement s = .next (s.post 1 .tlbAcknowledgement s.ev)) ∧
  (∀ (s : State), s.ev.id < 1024 → s.descsHeld s.ev.id = false → Completes .tlbAcknowledgement s (fun t =>
    (t.core s.ev.id).tlb = (s.core s.ev.id).tlb.filter (fun e => !(tlbGone s.ev.n s.ev.part s.ev.v e)))) ∧
  (∀ (s : State), 1024 ≤ s.ev.id → s.ev.id < 1152 → Completes .tlbAcknowledgement s (fun t =>
    (t.cluster (s.ev.id - 1024)).tlb =
      (s.cluster (s.ev.id - 1024)).tlb.filter (fun e => !(tlbGone s.ev.n s.ev.part s.ev.v e))))

/-- BARR of a member that has not arrived in this phase arrives, as a commit point; BARW passes a release of its
arrival and withdraws it; BARQ reads the record; BMASK sets the members (R249, R251). The last arrival of a channel
without a digest request sets its release 24 clk later; an earlier one does nothing; the release flips the phase, and
every member that waits in BARR or BARW on the channel goes on (R250). -/
def Obligations.ChannelResult : Prop :=
  (∀ (s : State) (ch : BitVec 6), s.fits false → s.myCore.test = false → s.Quiet → s.inPhase s.cur = false →
    s.memberOf ch.toNat s.cur = true →
    (s.th.arrA ch.toNat && s.th.arrRP ch.toNat == (s.channel ch.toNat).phase) = false →
    exec (.barr ch) s = .next (((s.modTh (fun t => { t with segNew := true })).modTh (fun t =>
      t.setArr ch.toNat true (s.channel ch.toNat).phase)).postNow .barrierArrivalCounted
        { ch := ch.toNat, tid := s.cur, n := s.th.tstamp.toNat }).done) ∧
  (∀ (s : State) (ch : BitVec 6), s.fits false → s.myCore.test = false → s.th.pendVec = none → s.th.pendMau = none →
    s.inPhase s.cur = false → s.memberOf ch.toNat s.cur = true →
    (s.th.arrA ch.toNat = true ∧ s.th.arrRP ch.toNat ≠ (s.channel ch.toNat).phase ∨ s.th.opDone = true) →
    exec (.barw ch) s =
      .next ((s.modTh (fun t => t.setArr ch.toNat false (t.arrRP ch.toNat))).modTh (fun t =>
        { t with segNew := t.segNew || t.between })).done) ∧
  (∀ (s s1 : State) (d : Reg) (ch : BitVec 6), s.fits false → s.myCore.test = false →
    (let m := s.memberOf ch.toNat s.cur
     let a := m && s.th.arrA ch.toNat
     let cur := s.th.arrRP ch.toNat == (s.channel ch.toNat).phase
     writeS d (BitVec.ofNat 64 (b2n m * 8 + b2n (a && !cur) * 4 + b2n (a && cur) * 2 +
       b2n (s.channel ch.toNat).phase)) s) = .ok () s1 →
    exec (.barq d ch) s = .next s1.done) ∧
  (∀ (s s1 : State) (o : Src2) (a t : Word), s.fits false → s.th.level ≠ .U → o.read s = .ok (a, t) s1 →
    bitsN a.toNat 63 26 = 0 → bitsN a.toNat 15 6 = 0 → bitsN t.toNat 63 4 = 0 →
    s1.myPart.wbmask.toNat.testBit (bitsN a.toNat 5 0) = true → s1.speculative s1.th = false →
    exec (.bmask o) s = .next ((s1.setMembers (bitsN a.toNat 5 0) (bitsN a.toNat 25 16) t.toNat).postNow
      .barrierArrivalCounted { ch := bitsN a.toNat 5 0, tid := s1.cur, n :=
        ((s1.setMembers (bitsN a.toNat 5 0) (bitsN a.toNat 25 16) t.toNat).th).tstamp.toNat }).done) ∧
  (∀ (s : State), s.allArrived s.ev.ch = true → (s.channel s.ev.ch).releasing = false → s.digestsOn s.ev.ch = [] →
    exec .barrierArrivalCounted s = .next ((s.setChannel s.ev.ch
      { s.channel s.ev.ch with releasing := true }).post 24 .barrierRelease { ch := s.ev.ch, n := s.ev.n })) ∧
  (∀ (s : State), s.allArrived s.ev.ch = false → exec .barrierArrivalCounted s = .next s) ∧
  (∀ (s : State), Completes .barrierRelease s (fun t =>
    t.channel s.ev.ch = { phase := !(s.channel s.ev.ch).phase, releasing := false } ∧
    ((∀ tid ∈ s.membersOf s.ev.ch, (s.thread tid).st ≠ 4) → t.mem = s.mem) ∧
    (∀ (tid since : Nat), s.snaps = [] → tid ∈ s.membersOf s.ev.ch → (s.thread tid).xarr = none →
      (s.thread tid).wait = some ⟨.channel s.ev.ch, since⟩ →
      (t.thread tid).opDone = true ∧ s.ev.n ≤ (t.thread tid).tstamp.toNat ∨ (t.thread tid).stopped = true ∨
        2 ^ 64 ≤ s.ev.n))) ∧
  (∀ (s : State) (k since : Nat), (s.thread s.ev.tid).wait = some ⟨.channel k, since⟩ → since = s.ev.since →
    (s.thread s.ev.tid).level ≠ .F → exec .barrierWaitSpill s = .next (s.spillAll s.ev.tid))

/-- TBINIT, TBEXP, TBARR and a passing TBWAIT do to a word, of the own cluster or of another, what R253 and R254 say; an
arriver that completes a phase gives the waiters its timestamp (log 34). The phase rule of a transfer-barrier word (R253): the
phase completes exactly when the arrivals reach the expected count with nothing pending, and then the counts start again; an
arrival beyond the expected count leaves EXTRA. -/
def Obligations.WordResult : Prop :=
  (∀ (s s1 s2 s3 : State) (o : Mem) (v ea : Word) (cl off x : Nat), s.fits false → o.storeEa s = .ok (v, ea) s1 →
    tbPlace ea false s1 = .ok (cl, off) s2 → s2.speculative s2.th = false → meshAccess cl off 8 s2 = .ok x s3 →
    exec (.tbinit o) s = .next (s3.tbWrite cl off (TbWord.init (s3.tbRead cl off) v.toNat)).done ∧
    (TbWord.pend (s3.tbRead cl off) + v.toNat ≤ 1048575 → exec (.tbexp o) s =
      .next (s3.tbWrite cl off (TbWord.addPend (s3.tbRead cl off) v.toNat)).done) ∧
    (1048575 < TbWord.pend (s3.tbRead cl off) + v.toNat → exec (.tbexp o) s = .next (s.raise s.cur ⟨0x0A, ea⟩))) ∧
  (∀ (s s1 s2 s3 s4 : State) (o : Line) (ea : Word) (cl off x : Nat), s.fits false → o.ea s = .ok ea s1 →
    tbPlace ea false s1 = .ok (cl, off) s2 → commitOnly s2 = .ok () s3 → s3.th.meshOut = 0 →
    meshAccess cl off 8 s3 = .ok x s4 →
    exec (.tbarr o) s = .next (let w := s4.tbRead cl off
      let s' := s4.tbWrite cl off (TbWord.arrive w)
      (if TbWord.phase (TbWord.arrive w) = TbWord.phase w then s'
       else s'.wordReleased cl off s4.th.tstamp.toNat).done)) ∧
  (∀ (s s1 s2 s3 : State) (o : Mem) (d ea : Word) (cl off : Nat), s.fits false → s.th.pendVec = none →
    s.th.pendMau = none → s.inPhase s.cur = false → o.storeEa s = .ok (d, ea) s1 →
    tbPlace ea true s1 = .ok (cl, off) s2 → TbWord.phase (s2.tbRead cl off) ≠ d.toNat.testBit 44 →
    writeS o.d (BitVec.ofNat 64 (s2.tbRead cl off))
      (((if s2.th.st = 4 then s2.putWait s2.cur 2 0 0 else s2).refreshOf s2.cur).modTh (fun t =>
        { t with segNew := t.segNew || t.between })) = .ok () s3 →
    exec (.tbwait o) s = .next s3.done) ∧
  (∀ (w : Nat),
     (TbWord.arr w < TbWord.exp w → TbWord.arr w + 1 = TbWord.exp w → TbWord.pend w = 0 →
       TbWord.phase (TbWord.arrive w) = !TbWord.phase w ∧ TbWord.arr (TbWord.arrive w) = 0 ∧
       TbWord.exp (TbWord.arrive w) = TbWord.exp w ∧ TbWord.pend (TbWord.arrive w) = 0) ∧
     (TbWord.arr w < TbWord.exp w → (TbWord.arr w + 1 ≠ TbWord.exp w ∨ TbWord.pend w ≠ 0) →
       TbWord.phase (TbWord.arrive w) = TbWord.phase w ∧ TbWord.arr (TbWord.arrive w) = TbWord.arr w + 1 ∧
       TbWord.exp (TbWord.arrive w) = TbWord.exp w ∧ TbWord.pend (TbWord.arrive w) = TbWord.pend w) ∧
     (TbWord.exp w ≤ TbWord.arr w → (TbWord.arr w ≠ TbWord.exp w ∨ TbWord.pend w ≠ 0) →
       (TbWord.arrive w).testBit 47 = true ∧ TbWord.phase (TbWord.arrive w) = TbWord.phase w ∧
       TbWord.arr (TbWord.arrive w) = TbWord.arr w ∧ TbWord.exp (TbWord.arrive w) = TbWord.exp w) ∧
     (TbWord.arr w = TbWord.exp w → TbWord.pend w = 0 →
       (TbWord.arrive w).testBit 50 = true ∧ TbWord.phase (TbWord.arrive w) = !TbWord.phase w ∧
       TbWord.arr (TbWord.arrive w) = 0))

/-- WAITM passes with a mailbox entry; MRECV takes the oldest; MSEND posts a message with bits [63:62] clear to a core
with room, due 10 clk and 2 for each mesh hop later; a delivery appends it; spilled entries come before those at the port
(R256, R285, R437, R439). -/
def Obligations.MailboxResult : Prop :=
  (∀ (s : State), s.fits false → s.myCore.mailbox ≠ [] → exec .waitm s = .next s.done) ∧
  (∀ (s s1 : State) (d : Reg) (w0 w1 : Word) (rest : List (Word × Word)), s.fits false →
    s.myCore.mailbox = (w0, w1) :: rest → s.myCore.port = [] → s.myCore.spillq = [] →
    writeS d w0 (s.modMyCore (fun c => { c with mailbox := rest })) = .ok () s1 →
    exec (.mrecv d none) s = .next s1.done ∧
    (∀ (r : Reg) (s2 : State), writeS r w1 s1 = .ok () s2 → exec (.mrecv d (some r)) s = .next s2.done)) ∧
  (∀ (s s1 : State) (o : Src3) (d a t : Word), s.fits false → o.read s = .ok (d, a, t) s1 →
    bitsN a.toNat 63 10 = 0 → s1.mailOk s1.th.part a.toNat = true → s1.speculative s1.th = false → s1.Stored →
    ((s1.core a.toNat).preempted = true ∨ (s1.core a.toNat).spillq ≠ [] ∨ (s1.core a.toNat).mailbox.length < 16) →
    exec (.msend o) s = .next (s1.post (10 + 2 * meshHops s1.kid (a.toNat / 8)) .mailboxDelivery
      { core := a.toNat, v := putBits d 63 62 0, w := t, n := s1.th.tstamp.toNat, tid := s1.cur }).done) ∧
  (∀ (s : State), exec .mailboxDelivery s = .next (s.toMailbox s.ev.core s.ev.v s.ev.w s.ev.n)) ∧
  (∀ (s : State) (c : Nat) (w0 w1 : Word) (n : Nat), (s.core c).preempted = false → (s.core c).spillq = [] →
    (s.core c).port = [] → (s.core c).mailbox.length < 16 →
    s.toMailbox c w0 w1 n = ((List.range 4).foldl (fun (s : State) k => s.endWfi (4 * c + k))
      (s.setCore c { s.core c with mailbox := (s.core c).mailbox ++ [(w0, w1)] })).wakeMailbox c n) ∧
  (∀ (s : State), exec .mailboxPortDrain s = .next (s.drainPort s.ev.core 16)) ∧
  (∀ (s : State) (c n : Nat) (x : Word × Word × Nat) (xs : List (Word × Word × Nat)), (s.core c).preempted = false →
    (s.core c).mailbox.length < 16 → (s.core c).spillq = x :: xs →
    s.drainPort c (n + 1) = ((s.setCore c { s.core c with
      spillq := xs, mailbox := (s.core c).mailbox ++ [(x.1, x.2.1)] }).wakeMailbox c x.2.2).drainPort c n)

/-- LAUNCH of a sound header is accepted; SPAWN makes a waiting record ready, one of no continuation with the spawner's launch
and cluster (log 24); SUSPEND and YIELD free the slot, the saved pc being the one after the back-edge (log 32), or, for a
gang's YIELD, only commit; a SUSPEND with a value stores the record's address there first (R269, R288 to R291). -/
def Obligations.LaunchResult : Prop :=
  (∀ (s s1 s2 s3 : State) (o : Src1) (a : Word) (hdr : List Word), s.fits false → o.read s = .ok a s1 →
    s1.Stored → commitOnly s1 = .ok () s2 → s2.speculative s2.th = false → s2.myPart.launches.length < 256 → a.toNat % 128 = 0 →
    (List.range 16).mapM (fun k => readPerformed (a + BitVec.ofNat 64 (8 * k))) s2 = .ok hdr s3 →
    s3.headerFault s2.th.part { addr := a, hdr := hdr, level := s2.th.level, core := s2.cid } = none →
    exec (.launch o) s = .next (s3.accept_ s2.th.part
      { addr := a, hdr := hdr, level := s2.th.level, core := s2.cid }).done) ∧
  (∀ (s s1 s2 : State) (o : Src1) (r : Word), s.fits false → o.read s = .ok r s1 → r.toNat % 64 = 0 →
    s1.Stored → commitOnly s1 = .ok () s2 → s2.speculative s2.th = false →
    exec (.spawn o) s = .next (s2.spawnRecord s2.th.part s2.cid r s2.th.tstamp.toNat
      (if s2.th.inLaunch then some s2.th.launch else none)).done) ∧
  (∀ (s s1 s2 : State) (o : Src1), s.fits false → s.inPhase s.cur = false → s.th.suspVal = none →
    o.read s = .ok 0 s1 → ¬(s1.th.level = .S ∧ hact s1.th = true) → suspendAfter 0 0 0 s1 = .ok () s2 →
    exec (.suspend o) s = .next s2) ∧
  (∀ (s s1 s2 : State) (o : Src1) (v : Word), s.fits false → s.inPhase s.cur = false → s.th.suspVal = none →
    o.read s = .ok v s1 → v ≠ 0 → ¬(s1.th.level = .S ∧ hact s1.th = true) → s1.th.suspVal = none →
    deliverAll s1 = .ok () s1 → (do
      let _ ← check (.store 8) v
      drainAll
      storeN v 8 s1.th.record.toNat : Sem Unit) s1 = .ok () s2 →
    exec (.suspend o) s = .next (s2.modTh (fun t => { t with suspVal := some v, wait := none }))) ∧
  (∀ (s s1 : State) (o : Src1) (v : Word), s.fits false → s.inPhase s.cur = false → s.th.suspVal = some v → v ≠ 0 →
    ¬(s.th.level = .S ∧ hact s.th = true) → (do
      commitPoint
      leaveSlot 5 6 v.toNat : Sem Unit) s = .ok () s1 →
    exec (.suspend o) s = .next s1) ∧
  (∀ (s s1 : State), s.fits false → s.inPhase s.cur = false →
    (s.th.gang = false → suspendAfter 1 0 0 s = .ok () s1 → exec .yield s = .next s1) ∧
    (s.th.gang = true → commitOnly s = .ok () s1 → exec .yield s = .next s1.done)) ∧
  (∀ (s : State) (st kind obj : Nat), s.Quiet → suspendAfter st kind obj s =
    (let s' := s.modTh (fun t => { t with segNew := true })
     let t := s'.th.advance s'.pc s'.nextPc
     .ok () ((s'.modTh (fun _ => t)).suspendSlot s'.cur st kind obj t.level.toNat t.pc t.loopst)))

/-- WID reads a field of the work identifier, TSSET and TSGET the timestamp, TICKET and FORQ exchange their values, RNGJ
jumps the generator and takes 40 clk (R292 to R294). -/
def Obligations.WorkResult : Prop :=
  (∀ (s s1 s2 : State) (o : Un) (k : Word), s.fits false → o.read s = .ok k s1 →
    writeS o.d (if bitsN s1.th.wshape.toNat 38 36 ≤ k.toNat then 0xFFFFFFFFFFFFFFFF
      else BitVec.ofNat 64 (widField s1.th.wshape.toNat s1.th.wid.toNat k.toNat)) s1 = .ok () s2 →
    exec (.wid o) s = .next s2.done) ∧
  (∀ (s s1 s2 : State) (o : Src1) (v : Word), s.fits false → o.read s = .ok v s1 → commitOnly s1 = .ok () s2 →
    exec (.tsset o) s = .next ((s2.modTh (fun t =>
      { t with tstamp := BitVec.ofNat 64 (max t.tstamp.toNat v.toNat) })).refreshOf s2.cur).done) ∧
  (∀ (s s1 : State) (d : Reg), s.fits false → writeS d s.th.tstamp s = .ok () s1 → exec (.tsget d) s = .next s1.done) ∧
  (∀ (s s1 s2 : State) (o : Bin) (q n : Word), s.fits false → s.th.level ≠ .U → o.read s = .ok (q, n) s1 →
    bitsN q.toNat 63 4 = 0 → bitsN n.toNat 63 16 = 0 → s1.speculative s1.th = false →
    writeS o.d (BitVec.ofNat 64 (smGet 0 s1.myPart.tickets q.toNat))
      (s1.modPart s1.th.part (fun p => { p with tickets := smSet 0 p.tickets q.toNat n.toNat })) = .ok () s2 →
    exec (.ticket o) s = .next s2.done) ∧
  (∀ (s s1 s2 : State) (o : Un) (q : Word), s.fits false → o.read s = .ok q s1 → bitsN q.toNat 63 4 = 0 →
    writeS o.d (BitVec.ofNat 64 s1.th.queue) (s1.modTh (fun t => { t with queue := q.toNat })) = .ok () s2 →
    exec (.forq o) s = .next s2.done) ∧
  (∀ (s s1 : State) (o : Src1) (v : Word), s.fits false → o.read s = .ok v s1 →
    exec (.rngj o) s = .next (((s1.modTh (fun t => { t with
      genLo := (genJump v.toNat s1.th.genLo s1.th.genHi).1,
      genHi := (genJump v.toNat s1.th.genLo s1.th.genHi).2 })).pauseFor 40).done))

/-- The scheduler's steps: a new unit's record and its place in a ready queue, a draw, a gang's plan and its start, a
launch's completion, and the domain minimum (R268, R272, R274, R275, R287, R314). Which slot draws and where a gang goes are
free values of the model (log 5). -/
def Obligations.SchedulerResult : Prop :=
  (∀ (s : State) (l : Launch) (cl slot : Nat) (rest : List Nat), s.findLaunch s.ev.part s.ev.v = some l →
    l.isGang = false → l.ended = false → l.created < l.units → s.unitSite s.ev.part l = some cl →
    l.freeSlots l.created 1 = some (slot :: rest) →
    exec .unitCreate s = .next (
      let c := (s.modLaunch s.ev.part l.addr (fun l => { l with rr := (cl + 1) % 128 })).createUnit
        s.ev.part (8 * cl) l l.created slot none
      let s' := c.1.refreshMin s.ev.part l.addr
      if c.2 then s'.enqueue cl s.ev.part l.queue (l.frameBase slot + 0x3FC0) else s')) ∧
  (∀ (s s1 : State) (key : Nat) (r : Word), s.drawSlots s.ev.cl ≠ [] →
    (s.free.2).lottery ((s.drawSlots s.ev.cl).getD (s.free.1.toNat % (s.drawSlots s.ev.cl).length) 0) =
      some (key, r, s1) →
    exec .lotteryDraw s = .next (s1.take
      ((s.drawSlots s.ev.cl).getD (s.free.1.toNat % (s.drawSlots s.ev.cl).length) 0)
      (key / 16) r (s1.pairOf (key / 16) r))) ∧
  (∀ (s s1 : State) (l : Launch) (plan : List Nat), s.findLaunch s.ev.part s.ev.v = some l → l.isGang = true →
    l.ended = false → l.created < l.units → (l.channels = [] ∨ l.gangLeft = 0) → l.gangPlan = [] →
    s.planGang s.ev.part l = some (plan, s1) →
    exec .gangStart s = .next (s1.modLaunch s.ev.part l.addr (fun l => { l with gangPlan := plan }))) ∧
  (∀ (s : State) (l : Launch) (slots : List Nat), s.findLaunch s.ev.part s.ev.v = some l → l.isGang = true →
    l.ended = false → l.created < l.units → (l.channels = [] ∨ l.gangLeft = 0) → l.gangPlan ≠ [] →
    (∀ t ∈ l.gangPlan, s.coreTakes s.ev.part (t / 4) = true) → s.gangReady s.ev.part l = true →
    l.freeSlots 0 l.gangSize = some slots →
    exec .gangStart s = .next (s.startGang s.ev.part l slots)) ∧
  (∀ (s : State) (l : Launch), s.findLaunch s.ev.part s.ev.v = some l → l.finished = l.units →
    exec .launchComplete s = .next ((s.signal s.ev.part l).modPart s.ev.part (fun q =>
      { q with launches := q.launches.filter (fun x => x.addr != l.addr) }))) ∧
  (∀ (s : State) (l : Launch), s.findLaunch s.ev.part s.ev.v = some l →
    exec .domainMinimumUpdate s = .next (s.modLaunch s.ev.part s.ev.v (fun l' =>
      { l' with minimum := s.launchMin s.ev.part l })))

/-- Every instruction of majors 0x7 and 0x8 but FCMP, FCLASS, FCVT and FRNG writes the value that R216 to R222 give for
its operands, and raises its flags in FCTL and FLAGOR.STICKY. -/
def Obligations.FloatResult : Prop :=
  ∀ (s s1 s2 : State) (i : Instr) (m : Sem (Word × Flags)) (toF : Bool) (d : Reg) (v : Word) (fl : Flags),
    floatForm i = some (m, toF, d) → s.fits false → m s = .ok (v, fl) s1 →
    (if toF then writeF else writeS) d v (s1.raiseFlags s1.cur fl) = .ok () s2 → exec i s = .next s2.done

/-- FCMP writes one bit a lane, or one for C32; FCLASS one class bit a lane; FCVT converts a pair that R172 lists, under
the thread's mode where the pair uses it; FRNG writes one output of the generator (R218, R221, R223). In every float
instruction that rounds, and in the conversions of FCVT that do, RM 5 to 7 is ILLEGAL_OP with the base parcel in EINFO
(R161). -/
def Obligations.FloatTest : Prop :=
  (∀ (s s1 s2 : State) (o : Bin) (v c : BitVec 2) (a b : Word), s.fits false → o.readF s = .ok (a, b) s1 →
    (let r := fun k => condVal c.toNat (laneVal (varFmt v) a k) (laneVal (varFmt v) b k)
     let n := varLanes v
     writeS o.d (BitVec.ofNat 64 (if v = 1 then (if c = 0 then b2n ((r 0).1 && (r 1).1) else b2n ((r 0).1 || (r 1).1))
        else ((List.range n).map (fun k => b2n (r k).1 * 2 ^ k)).sum))
      (s1.raiseFlags s1.cur ((List.range n).foldl (fun x k => x ||| (r k).2) 0))) = .ok () s2 →
    exec (.fcmp o v c) s = .next s2.done) ∧
  (∀ (s s1 s2 : State) (o : Un) (v : BitVec 2) (a : Word), s.fits false → o.readF s = .ok a s1 →
    writeS o.d (BitVec.ofNat 64 ((List.range (varLanes v)).foldl (fun r k =>
      r + 2 ^ (classOf (varFmt v) (laneOf (varFmt v) a k)) * 2 ^ (16 * k)) 0)) s1 = .ok () s2 →
    exec (.fclass o v) s = .next s2.done) ∧
  (∀ (s s1 s2 : State) (o : Un) (src dst : BitVec 3) (a : Word), s.fits false → o.readF s = .ok a s1 →
    convOk src.toNat dst.toNat = true → (convRounds src.toNat dst.toNat = true → s1.th.rm < 5) →
    (let r := convElem src.toNat dst.toNat s1.myCore.tbl4 (if convRounds src.toNat dst.toNat then s1.th.rm else 0)
        (a.toNat % 2 ^ fmtBits src.toNat)
     writeF o.d (BitVec.ofNat 64 r.1) (s1.raiseFlags s1.cur r.2)) = .ok () s2 →
    exec (.fcvt o src dst) s = .next s2.done) ∧
  (∀ (s s1 : State) (d : Reg) (v : BitVec 2), s.fits false → s.myCore.test = false →
    (let g := genStep s.th.genLo s.th.genHi
     let x := g.1.toNat
     writeF d (if v = 1 then g.1
       else if v = 3 then ofLanes .bf16 ((List.range 4).map (fun k =>
         unitCode .bf16 (bitsN x (63 - 8 * k) (56 - 8 * k)) 8))
       else ofLanes .fp32 ((List.range (if v = 2 then 2 else 1)).map (fun k =>
         unitCode .fp32 (bitsN x (63 - 24 * k) (40 - 24 * k)) 24)))
      (s.modTh (fun t => { t with genLo := g.2.1, genHi := g.2.2 }))) = .ok () s1 →
    exec (.frng d v) s = .next s1.done) ∧
  (∀ (s : State) (o : Bin) (u : Un) (v : BitVec 2), s.fits false → s.myCore.test = false → 5 ≤ s.th.rm →
    ∀ i ∈ [Instr.fadd o v, .fsub o v, .fmul o v, .fdiv o v, .fma o v, .fms o v, .fnma o v, .cmac o, .fsqrt u v, .frnd u v,
      .fcvti u], exec i s = .next (s.raise s.cur ⟨0x01, s.baseInfo⟩)) ∧
  (∀ (s s1 : State) (u : Un) (a : Word), s.fits false → s.myCore.test = false → 5 ≤ s.th.rm → u.read s = .ok a s1 →
    exec (.fcvtf u) s = .next (s.raise s.cur ⟨0x01, s.baseInfo⟩)) ∧
  (∀ (s : State) (u : Un) (src dst : BitVec 3), s.fits false → s.myCore.test = false → 5 ≤ s.th.rm →
    convOk src.toNat dst.toNat = true → convRounds src.toNat dst.toNat = true →
    exec (.fcvt u src dst) s = .next (s.raise s.cur ⟨0x01, s.baseInfo⟩))

/-- The rounding modes of R161 on the magnitude m / 2^k of a value with sign `neg`. A sum of finite terms is exact; a
zero sum takes the sign of R163 (R160, R163). Each lane of a packed or format-variant result is that lane's own result
(R159, R219). -/
def Obligations.NumberRules : Prop :=
  (∀ (neg : Bool) (m k : Nat),
     (let r := fun mode => (roundInt mode neg m k).1
      (2 * (r 0 * 2 ^ k) ≤ 2 * m + 2 ^ k ∧ 2 * m ≤ 2 * (r 0 * 2 ^ k) + 2 ^ k ∧
         (2 * (r 0 * 2 ^ k) = 2 * m + 2 ^ k ∨ 2 * m = 2 * (r 0 * 2 ^ k) + 2 ^ k → r 0 % 2 = 0)) ∧
      (r 1 * 2 ^ k ≤ m ∧ m < (r 1 + 1) * 2 ^ k) ∧
      (if neg then m ≤ r 2 * 2 ^ k ∧ r 2 * 2 ^ k < m + 2 ^ k else r 2 * 2 ^ k ≤ m ∧ m < (r 2 + 1) * 2 ^ k) ∧
      (if neg then r 3 * 2 ^ k ≤ m ∧ m < (r 3 + 1) * 2 ^ k else m ≤ r 3 * 2 ^ k ∧ r 3 * 2 ^ k < m + 2 ^ k) ∧
      (2 * (r 4 * 2 ^ k) ≤ 2 * m + 2 ^ k ∧ 2 * m < 2 * (r 4 * 2 ^ k) + 2 ^ k) ∧
      (∀ mode, (roundInt mode neg m k).2 = true ↔ m % 2 ^ k ≠ 0))) ∧
  (∀ (mode : Nat) (ts : List (Bool × Nat × Int)), ts ≠ [] →
     ∃ q : Int, (∀ x ∈ ts, q ≤ x.2.2) ∧
       (let sum := (ts.map (fun x => Val.sint x.1 x.2.1 x.2.2 q)).sum
        sumVals mode (ts.map (fun x => (.fin x.1 x.2.1 x.2.2, false))) =
          if sum = 0 then
            (.fin (ts.all (fun x => x.1) || (ts.any (fun x => x.1) && decide (mode = 2))) 0 0, false)
          else (.fin (decide (sum < 0)) sum.natAbs q, false))) ∧
  (∀ (v : BitVec 2) (f : Nat → Nat × Flags) (k : Nat), k < varLanes v →
    laneOf (varFmt v) (lanes v f).1 k = (f k).1 % 2 ^ (varFmt v).bits) ∧
  (∀ (n w : Nat) (f : Nat → Int) (k : Nat), 0 < w → n * w ≤ 64 → k < n →
    bitsN (intLanes n w f).toNat (w * k + w - 1) (w * k) = (f k % (2 ^ w : Nat)).toNat) ∧
  (∀ (n w : Nat) (f : Nat → Int), n * w ≤ 64 → (intLanes n w f).toNat < 2 ^ (n * w))

/-- A vector instruction that passes its checks reads its scalars and enters the VU queue with VL, FMT, RM and the
level of its issue; into an open capture of REPV it goes instead; the thread's first one says in its record that there is
vector state. VRAND takes ⌈VL / 2⌉ outputs; SCFG changes SB (R64, R226, R230, R231, R233, R239). VCFG sets VL and FMT or
answers 0; SSTAT answers a stream's remaining elements once the VU queue has drained; REPV opens a capture (R236, R238,
R239). -/
def Obligations.VectorIssue : Prop :=
  (∀ (s s1 s2 : State) (i : Instr) (rs : List (Reg × Bool)) (xs : List (Nat × Word)),
    vecScalars i = some rs → s.fits false → s.vecFine i → vecSources rs s = .ok xs s1 →
    (5 ≤ s1.th.rm → s1.vecUnsettled (s1.vuCmd i xs []) = false ∧ s1.vecConverts (s1.vuCmd i xs []) = false) → needVx s1 = .ok () s2 → s2.th.stopped = false →
    (s2.vuRoom → exec i s = .next (s2.vuEnter (s1.vuCmd i xs [])).done) ∧
    (s2.th.capture.left ≠ 0 → exec i s = .next (s2.modTh (fun t => { t with capture :=
      { t.capture with left := t.capture.left - 1, cmds := t.capture.cmds ++ [s1.vuCmd i xs []] } }.feed)).done)) ∧
  (∀ (s s1 s2 : State) (d : Reg) (m : BitVec 3) (xs : List Word), s.fits false → s.vecFine (.vrand d m) →
    drawN ((bitsN s.th.vctl.toNat 6 0 + 1) / 2) s = .ok xs s1 → needVx s1 = .ok () s2 → s2.th.stopped = false →
    s2.vuRoom → exec (.vrand d m) s = .next (s2.vuEnter (s1.vuCmd (.vrand d m) [] xs)).done) ∧
  (∀ (s s1 s2 : State) (o : Un) (xs : List (Nat × Word)) (sb : Nat), s.fits false → s.vecFine (.scfg o) →
    vecSources [(o.a, o.ua)] s = .ok xs s1 → sb.testBit (o.d.toNat - 28) = decide (o.a ≠ 0) →
    (∀ k, k ≠ o.d.toNat - 28 → sb.testBit k = s1.th.sb.testBit k) →
    needVx (s1.modTh (fun t => { t with sb := sb })) = .ok () s2 → s2.th.stopped = false → s2.vuRoom →
    exec (.scfg o) s = .next (s2.vuEnter (s1.vuCmd (.scfg o) xs [])).done) ∧
  (∀ (s s1 u s2 : State) (o : Un) (a : Word), s.fits false → s.th.capture.left = 0 → o.a.toNat < 56 →
    o.read s = .ok a s1 → needVx s1 = .ok () u →
    (let vl := bitsN a.toNat 6 0
     let f := bitsN a.toNat 10 8
     if vl = 0 ∨ (f ≠ 0 ∧ f ≠ 1 ∧ f ≠ 6) then writeS o.d 0 s1
     else writeS o.d (BitVec.ofNat 64 (min vl 64)) (u.modTh (fun t => { t with
       vctl := putBits (putBits t.vctl 6 0 (min vl 64)) 10 8 f }))) = .ok () s2 →
    exec (.vcfg o) s = .next s2.done) ∧
  (∀ (s u s1 : State) (d v : Reg), s.fits false → s.myCore.test = false → s.th.capture.left = 0 →
    (s.th.bound (some v.toNat) = true → s.speculative s.th = false) → s.th.vuq = [] → s.th.pendVec = none →
    needVx s = .ok () u →
    writeS d (if (u.th.stream v.toNat).bound then BitVec.ofNat 64 (u.th.stream v.toNat).remaining else -1) u =
      .ok () s1 →
    exec (.sstat d v) s = .next s1.done) ∧
  (∀ (s s1 u : State) (n : BitVec 4) (o : Src1) (stagger : Word) (m : BitVec 3) (c : Word), s.fits false →
    s.th.capture.left = 0 → o.a.toNat < 56 → stagger.toNat < 32 →
    o.read s = .ok c s1 → s1.th.capture.cmds = [] → needVx s1 = .ok () u →
    exec (.repv n o stagger m) s = .next (u.modTh (fun t => { t with capture :=
      { left := n.toNat + 1, count := c.toNat % 2 ^ 16, stagger := stagger.toNat, mask := m.toNat } })).done) ∧
  (∀ (s : State), (s.th.vx = true → needVx s = .ok () s) ∧
    (s.th.vx = false → s.th.level = .F → needVx s = .ok () (s.modTh (fun t => { t with vx := true }))) ∧
    (∀ (u : State), s.th.vx = false → s.th.level ≠ .F → (s.modTh (fun t => { t with vx := true })).frameStore s.cur
      (s.th.record + 0x18) (s.th.frame + 1) = .ok u → needVx s = .ok () u))

/-- The VU (R67, R226, R227, R241): free lane groups take heads, a head that starts pops its q0 and q1 entries and completes
after its time; a head without its entries waits 2^24 clk and then faults; one of a thread with a pending vector fault is
discarded with its pops. A completion has the instruction's effect and delivers its flags, or leaves a vector fault pending,
the first one kept; of a re-run's state it changes what the instruction wrote (R316). -/
def Obligations.VuEvents : Prop :=
  (∀ (s : State), Completes .vuInstructionStart s (fun t =>
    let u := s.vuFill s.ev.cl 32
    t.mem = u.mem ∧ t.cores = u.cores ∧ t.clusters = u.clusters ∧ ∀ j < 32,
      let tid := 32 * s.ev.cl + j
      ((u.vuStarved tid).isSome = true → (u.thread tid).vuWait = none →
        t.thread tid = { u.thread tid with vuWait := some s.clk } ∧
        (s.clk + 2 ^ 24, Instr.vuPopStallTimeout, ({ tid := tid, since := s.clk } : Ev)) ∈ t.agenda) ∧
      ((u.vuStarved tid = none ∨ (u.thread tid).vuWait ≠ none) → t.thread tid = u.thread tid))) ∧
  (∀ (s : State) (cl n : Nat), 8 ≤ s.groupsBusy cl ∨ (∀ j < 32, s.vuReady (32 * cl + j) = false) → s.vuFill cl n = s) ∧
  (∀ (s : State) (cl n j ptr : Nat) (credit : SMap Nat), s.groupsBusy cl < 8 →
    wrr 32 (s.cluster cl).vuPtr (fun j => s.vuReady (32 * cl + j)) (fun j => s.vuWeight (32 * cl + j))
      (s.cluster cl).vuCredit = some (j, credit, ptr) →
    s.vuFill cl (n + 1) = ((s.setCluster cl { s.cluster cl with vuCredit := credit, vuPtr := ptr }).vuStart
      (32 * cl + j)).vuFill cl n) ∧
  (∀ (s : State) (tid : Nat) (c : VuCmd) (rest : List VuCmd), (s.thread tid).vuq = c :: rest →
    (let t := s.thread tid
     let pops := fun p k => ((c.scalars.take k).filter (fun x => x.1 == p)).length
     let n := c.scalars.length
     let t' := { t with q0 := t.q0.drop (pops 56 n), q1 := t.q1.drop (pops 57 n) }
     (t.pendVec.isSome = true → s.vuStart tid = s.setThread tid t'.vuPop) ∧
     (t.pendVec = none → ∃ xs : List (Nat × Word), xs.length = n ∧
       (∀ k x, c.scalars[k]? = some x → xs[k]? = some (x.1, if x.1 = 56 then t.q0.getD (pops 56 k) 0
         else if x.1 = 57 then t.q1.getD (pops 57 k) 0 else x.2)) ∧
       (let c' := { c with scalars := xs, running := true, started := s.clk }
        s.vuStart tid = ((s.work ({ s with cur := tid }.vecCount c') Config.sliceWeight).setThread tid
          { t' with vuq := c' :: rest, vuWait := none }).post ({ s with cur := tid }.vecTime c')
            .vuInstructionComplete { tid := tid, since := s.clk })))) ∧
  (∀ (s s1 : State) (c : VuCmd) (rest : List VuCmd), (s.thread s.ev.tid).vuq = c :: rest → c.running = true →
    c.started = s.ev.since →
    vecBody c ({ s with cur := s.ev.tid }.modThread s.ev.tid (fun t => { t with
      level := c.level, fctl := t.fctl &&& 0xE0 })) = .ok () s1 →
    exec .vuInstructionComplete s = .next ((s1.modThread s.ev.tid (fun t => { t with
      level := (s.thread s.ev.tid).level,
      fctl := (s.thread s.ev.tid).fctl ||| ((s1.thread s.ev.tid).fctl &&& 0x1F) }.vuPop)).keepVec s.ev.tid c
        ((s1.thread s.ev.tid).fctl &&& 0x1F))) ∧
  (∀ (s s1 : State) (c : VuCmd) (rest : List VuCmd) (f : Flt), (s.thread s.ev.tid).vuq = c :: rest → c.running = true →
    c.started = s.ev.since →
    vecBody c ({ s with cur := s.ev.tid }.modThread s.ev.tid (fun t => { t with
      level := c.level, fctl := t.fctl &&& 0xE0 })) = .error (.trap f) s1 →
    exec .vuInstructionComplete s = .next ((s.modThread s.ev.tid (fun t =>
      { t with pendVec := t.pendVec <|> some (f, c.pc) }.vuPop)).keepVec s.ev.tid c 0)) ∧
  (∀ (s : State) (tid : Nat) (c : VuCmd) (f : Word), ∃ sn, s.keepVec tid c f = { s with snaps := sn }) ∧
  (∀ (s : State) (c : VuCmd) (rest : List VuCmd) (p : Nat), (s.thread s.ev.tid).vuq = c :: rest →
    s.vuStarved s.ev.tid = some p → (s.thread s.ev.tid).vuWait = some s.ev.since →
    exec .vuPopStallTimeout s = .next (s.setThread s.ev.tid (Thread.vuPop
      { s.thread s.ev.tid with pendVec := (s.thread s.ev.tid).pendVec <|> some (⟨0x15, BitVec.ofNat 64 p⟩, c.pc) }))) ∧
  (∀ (s : State) (c : VuCmd) (o : VBin),
    c.ins = .vadd o ∨ c.ins = .vsub o ∨ c.ins = .vmul o ∨ c.ins = .vfma o ∨ c.ins = .vsel o →
    s.th.streamsIn c c.regs = [] → s.vecTime c = 4 + (c.vl + (if c.fmt = 1 then 32 else 16) - 1) / (if c.fmt = 1 then 32 else 16))

/-- An element-by-element vector instruction on registers writes each active element its own result, leaves every
inactive element, and leaves the other vector registers (R228, R229, R231). VSEL, VABS, VSF, VCVT, VBCST, VPERM, VRAND and
VINS write the elements that R231 and R237 give; VCMP and VMSK a mask (R231, R237); VRED and VEXT push on q2 or q3, and VSCAN
gives each active element the reduction up to it (R235, R237); a load takes, and a store leaves, each active element at its
own address (R237, R438). -/
def Obligations.VectorElements : Prop :=
  (∀ (s : State) (c : VuCmd) (o : VBin),
    (c.ins = .vadd o ∨ c.ins = .vsub o ∨ c.ins = .vmul o ∨ c.ins = .vfma o ∨ c.ins = .vmax o ∨ c.ins = .vmin o ∨
      c.ins = .vdiv o) → c.sel = 0 → c.vl ≤ 64 → 
    (∀ n ∈ [o.d.toNat, o.a.toNat, o.b.toNat], (s.th.stream n).bound = false) →
    o.d.toNat < 32 → o.a.toNat < 32 → o.b.toNat < 32 →
    ∃ t, vecBody c s = .ok () t ∧ t.mem = s.mem ∧ t.th.sregs = s.th.sregs ∧ t.th.fregs = s.th.fregs ∧
      t.th.masks = s.th.masks ∧
      ∀ n i, n < 32 → i < 64 → t.th.v n i =
        if n = o.d.toNat ∧ i < c.vl ∧ (s.th.mask o.m.toNat).toNat.testBit i = true then
          (elemOp c (elemCode c.fmt (s.th.v o.a.toNat i)) (elemCode c.fmt (s.th.v o.b.toNat i))
            (match c.ins with
              | .vfma _ => elemCode c.fmt (s.th.v o.d.toNat i)
              | _ => 0) true 0).1 % 2 ^ 32
        else s.th.v n i) ∧
  (∀ (s : State) (c : VuCmd) (o : VBin), c.ins = .vsel o → c.sel = 0 → c.vl ≤ 64 →
    s.Unbound [o.d.toNat, o.a.toNat, o.b.toNat] → ∃ t, vecBody c s = .ok () t ∧ ∀ n i, n < 32 → i < 64 → t.th.v n i =
      if n = o.d.toNat ∧ i < c.vl then (if s.active c i then s.code c o.a.toNat i else s.code c o.b.toNat i)
      else s.th.v n i) ∧
  (∀ (s : State) (c : VuCmd) (o : VUn) (k : BitVec 3), c.sel = 0 → c.vl ≤ 64 → s.Unbound [o.d.toNat, o.a.toNat] →
    (c.ins = .vabs o → s.VecSets c o.d.toNat (fun i =>
      if c.fmt = 6 then (i32 (s.code c o.a.toNat i)).natAbs else s.code c o.a.toNat i % 2 ^ ((vFmt c.fmt).bits - 1))) ∧
    (c.ins = .vsf o k → s.VecSets c o.d.toNat (fun i => ((vFmt c.fmt).round ⟨c.tblA, c.tblB⟩ c.rm
      (special k.toNat ((vFmt c.fmt).decode ⟨c.tblA, c.tblB⟩ (s.code c o.a.toNat i))).1).1)) ∧
    (c.ins = .vcvt o k → s.VecSets c o.d.toNat (fun i =>
      (convElem c.fmt k.toNat ⟨c.tblA, c.tblB⟩ c.rm (s.code c o.a.toNat i)).1)) ∧
    (∀ op, c.ins = .vscan o op → s.VecSets c o.d.toNat (fun i =>
      (redValue c op.toNat (s.codes c o.a.toNat (i + 1)) true).1))) ∧
  (∀ (s : State) (c : VuCmd) (o : VUn) (u : Bool), c.sel = 0 → c.vl ≤ 64 → s.Unbound [o.d.toNat] → c.ins = .vbcst o u →
    s.VecSets c o.d.toNat (fun _ => (c.scalar 0).toNat)) ∧
  (∀ (s : State) (c : VuCmd) (o : VBin), c.ins = .vperm o → c.sel = 0 → c.vl ≤ 64 →
    s.Unbound [o.d.toNat, o.a.toNat, o.b.toNat] → s.VecSets c o.d.toNat (fun i =>
      if s.th.v o.b.toNat i < 64 then s.code c o.a.toNat (s.th.v o.b.toNat i) else 0)) ∧
  (∀ (s : State) (c : VuCmd) (d : Reg) (m : BitVec 3), c.ins = .vrand d m → c.sel = 0 → c.vl ≤ 64 →
    s.Unbound [d.toNat] → s.VecSets c d.toNat (fun i =>
      let out := (c.draws.getD (i / 2) 0).toNat
      let top := if i % 2 = 0 then 63 else 31
      if c.fmt = 0 then unitCode .fp32 (bitsN out top (top - 23)) 24
      else if c.fmt = 1 then unitCode .bf16 (bitsN out top (top - 7)) 8
      else bitsN out top (top - 31))) ∧
  (∀ (s : State) (c : VuCmd) (o : VBin) (u w : Bool), c.ins = .vins o u w → c.sel = 0 → c.vl ≤ 64 →
    s.Unbound [o.d.toNat] → ∃ t, vecBody c s = .ok () t ∧ ∀ n i, n < 32 → i < 64 → t.th.v n i =
      if n = o.d.toNat ∧ i = (c.scalar 1).toNat % 64 ∧ s.active c i = true then (c.scalar 0).toNat % 2 ^ 32
      else s.th.v n i) ∧
  (∀ (s : State) (c : VuCmd) (o : VBin) (cc : BitVec 2), c.ins = .vcmp o cc → c.sel = 0 → c.vl ≤ 64 →
    s.Unbound [o.a.toNat, o.b.toNat] → ∃ t, vecBody c s = .ok () t ∧ t.th.vregs = s.th.vregs ∧ ∀ i < 64,
      (smGet 0 t.th.masks o.d.toNat).toNat.testBit i = (s.active c i &&
        (let a := s.code c o.a.toNat i
         let b := s.code c o.b.toNat i
         if c.fmt = 6 then (cc = 0 && i32 a == i32 b) || (cc = 1 && decide (i32 a < i32 b)) ||
             (cc = 2 && decide (i32 a ≤ i32 b))
         else (condVal cc.toNat ((vFmt c.fmt).decode ⟨0, 0⟩ a) ((vFmt c.fmt).decode ⟨0, 0⟩ b)).1))) ∧
  (∀ (s : State) (c : VuCmd) (o : VUn) (u : Bool), c.ins = .vmsk o u → vecBody c s = .ok () (s.modTh (fun t =>
    { t with masks := smSet 0 t.masks o.d.toNat (c.scalar 0 &&& t.mask o.m.toNat) }))) ∧
  (∀ (s : State) (c : VuCmd) (o : VBin) (u : Bool), c.ins = .vext o u → c.sel = 0 → s.Unbound [o.a.toNat] →
    (let i := (c.scalar 0).toNat % 64
     let x := BitVec.ofNat 64 (if s.active c i then s.th.v o.a.toNat i else 0)
     (o.d.toNat = 58 → s.th.q2.length < 16 → vecBody c s = .ok () ((s.modTh (fun t =>
       { t with q2 := t.q2 ++ [x] })).modTh (fun t => { t with pushAt := some (58, s.clk) }))) ∧
     (o.d.toNat = 59 → s.th.q3.length < 16 → vecBody c s = .ok () ((s.modTh (fun t =>
       { t with q3 := t.q3 ++ [x] })).modTh (fun t => { t with pushAt := some (59, s.clk) }))))) ∧
  (∀ (s : State) (c : VuCmd) (o : VUn) (op : BitVec 2), c.ins = .vred o op → c.sel = 0 → c.vl ≤ 64 →
    s.Unbound [o.a.toNat] → o.d.toNat = 58 → s.th.q2.length < 16 → ∃ t, vecBody c s = .ok () t ∧
      t.th.vregs = s.th.vregs ∧ t.th.q2 = s.th.q2 ++
        [BitVec.ofNat 64 (redValue c op.toNat (s.codes c o.a.toNat c.vl) false).1]) ∧
  (∀ (c : VuCmd) (xs : List Nat) (scan : Bool), (∀ x ∈ xs, x < 2 ^ 32) →
    (c.fmt = 6 → i32 (redValue c 0 xs scan).1 = satW 32 (xs.map i32).sum) ∧
    (c.fmt = 0 → xs ≠ [] → redValue c 0 xs scan = Fmt.fp32.roundInv ⟨c.tblA, c.tblB⟩ c.rm
      (sumVals c.rm (xs.map (fun x => (Fmt.fp32.decode ⟨c.tblA, c.tblB⟩ x, false))))) ∧
    (c.fmt = 6 → xs ≠ [] → (redValue c 1 xs scan).1 ∈ xs ∧ (redValue c 2 xs scan).1 ∈ xs ∧
      ∀ x ∈ xs, i32 x ≤ i32 (redValue c 1 xs scan).1 ∧ i32 (redValue c 2 xs scan).1 ≤ i32 x)) ∧
  (∀ (s : State) (c : VuCmd) (off : Word) (e : Nat → Int) (place : Nat → Nat) (d : Nat), c.sel = 0 → c.vl ≤ 64 →
    vecAccess c s.th c.regs.b = some (off, e, false) → c.regs.d = some d → s.Unbound (d :: c.regs.b.toList) →
    s.VecLocal c (c.scalar 0 + off) e place →
    s.VecSets c d (fun i => readB s.myCore.tcm (place i) (memBytes c.fmt))) ∧
  (∀ (s : State) (c : VuCmd) (off : Word) (e : Nat → Int) (place : Nat → Nat) (d : Nat), c.sel = 0 → c.vl ≤ 64 →
    vecAccess c s.th c.regs.b = some (off, e, true) → c.regs.d = some d → s.Unbound (d :: c.regs.b.toList) →
    s.VecLocal c (c.scalar 0 + off) e place → s.th.stored = [] →
    (∀ i j, s.active c i = true → s.active c j = true → place i = place j → i = j) →
    ∃ t, vecBody c s = .ok () t ∧ t.mem = s.mem ∧
      (∀ i, s.active c i = true → readB (t.core s.cid).tcm (place i) (memBytes c.fmt) = s.code c d i) ∧
      (∀ a, (∀ i, s.active c i = true → ¬(place i ≤ a ∧ a < place i + memBytes c.fmt)) →
        smGet 0 (t.core s.cid).tcm a = smGet 0 s.myCore.tcm a))

/-- A commit performs every entry of the segment in program order, all together, and a new segment begins; it waits
while the segment is speculative or above its domain minimum, a field is busy, or a notice would come late (R313, R314,
R388); that it tries again after 16 clk is the model's choice (log 94). Each kind of entry writes what R313, R326 and R147
say. A REDF entry at its slice: without a slot it is applied; with one it is dropped below next, applied at next, held
above it while there is room, and else, 64 or more above next or with 64 entries held, sent again 64 clk later. A slot that makes no progress for 2^20 clk while it
holds entries leaves REDUCE_STALL with its owner (R327, R328, R330). -/
def Obligations.CommitResult : Prop :=
  (∀ (s : State), (s.thread s.ev.tid).entries ≠ [] → s.commitHeld s.ev.tid = false →
    s.entriesFree (s.thread s.ev.tid).entries = true → s.writeHeld (entryLines (s.thread s.ev.tid).entries) = false →
    s.badEntry s.ev.tid = none →
    (s.part (s.thread s.ev.tid).part).trctl.toNat.testBit 3 = false →
    (∀ pa v i rm, Entry.redf pa v i rm ∉ (s.thread s.ev.tid).entries) →
    exec .segmentCommitComplete s = .next ((((s.thread s.ev.tid).entries.foldl
      (fun u e => u.performEntry (s.writerOf s.ev.tid) e) s).modThread s.ev.tid
        (fun t => { t with entries := [] })).newSegment s.ev.tid)) ∧
  (∀ (s : State), (s.thread s.ev.tid).entries ≠ [] → (s.commitHeld s.ev.tid = true ∨
      s.entriesFree (s.thread s.ev.tid).entries = false ∨ s.writeHeld (entryLines (s.thread s.ev.tid).entries) = true) →
    exec .segmentCommitComplete s = .next (s.post 16 .segmentCommitComplete { tid := s.ev.tid })) ∧
  (∀ (s : State) (w : Writer) (pa n op : Nat) (t : Word),
    s.performEntry w (.amo pa op n t) =
      (s.sliceLoad pa n).homeWrite w (cellsOf pa n (amoNew op n (readB s.mem pa n) (t.toNat % 2 ^ (8 * n))))) ∧
  (∀ (s : State) (w : Writer) (sec : Nat) (cs : List MCell) (ws : List Nat) (xs : List ElemStore),
    s.performEntry w (.store sec cs ws xs) = s.homeWrite w (cs.map (fun c =>
      (c.1, (smGet 0 s.mem c.1 &&& ~~~c.2.2) ||| (c.2.1 &&& c.2.2))))) ∧
  (∀ (s : State) (w : Writer) (cs : List Host.Cell), (s.chipWrite w cs).mem = writeCells s.mem cs) ∧
  (∀ (s : State) (e : RedfEntry), s.ev.redf = some e → s.slotAt e.pa = none →
    s.writeHeld [e.pa / 256] = false → (s.part (s.thread e.tid).part).trctl.toNat.testBit 3 = false → ∀ i ∈ [Instr.redfEntryArrival, .redfEntryRetry],
    exec i s = .next ((s.redfApply e).modThread e.tid (fun t => { t with redfOut := t.redfOut - 1 }))) ∧
  (∀ (s : State) (e : RedfEntry) (x : Slot), s.ev.redf = some e → s.slotAt e.pa = some x → e.idx.toNat < x.next →
    s.writeHeld [e.pa / 256] = false → (s.part (s.thread e.tid).part).trctl.toNat.testBit 3 = false → 
    ∀ i ∈ [Instr.redfEntryArrival, .redfEntryRetry],
    exec i s = .next ((s.setSlot { x with drop := x.drop + 1 }).modThread e.tid
      (fun t => { t with redfOut := t.redfOut - 1 }))) ∧
  (∀ (s : State) (e : RedfEntry) (x : Slot), s.ev.redf = some e → s.slotAt e.pa = some x → e.idx.toNat = x.next →
    s.writeHeld [e.pa / 256] = false → (s.part (s.thread e.tid).part).trctl.toNat.testBit 3 = false → 
    ∀ i ∈ [Instr.redfEntryArrival, .redfEntryRetry],
    exec i s = .next (((((s.redfApply e).setSlot { x with next := x.next + 1, since := s.clk }).drainSlot e.pa 64).stallTimer
      e.pa).modThread e.tid (fun t => { t with redfOut := t.redfOut - 1 }))) ∧
  (∀ (s : State) (e : RedfEntry) (x : Slot), s.ev.redf = some e → s.slotAt e.pa = some x → x.next < e.idx.toNat →
    e.idx.toNat < x.next + 64 →
    s.slots.foldl (fun (n : Nat) y => if homeSlice y.pa = homeSlice e.pa then n + y.held.length else n) 0 < 64 →
    s.writeHeld [e.pa / 256] = false → (s.part (s.thread e.tid).part).trctl.toNat.testBit 3 = false → 
    ∀ i ∈ [Instr.redfEntryArrival, .redfEntryRetry],
    exec i s = .next ((let s' := (s.setSlot
        { x with held := x.held ++ [e], since := if x.held = [] then s.clk else x.since });
      if x.held = [] then s'.stallTimer e.pa else s').modThread e.tid (fun t => { t with redfOut := t.redfOut - 1 }))) ∧
  (∀ (s : State) (e : RedfEntry) (x : Slot), s.ev.redf = some e → s.slotAt e.pa = some x → x.next < e.idx.toNat →
    (x.next + 64 ≤ e.idx.toNat ∨
      64 ≤ s.slots.foldl (fun (n : Nat) y => if homeSlice y.pa = homeSlice e.pa then n + y.held.length else n) 0) →
    s.writeHeld [e.pa / 256] = false → (s.part (s.thread e.tid).part).trctl.toNat.testBit 3 = false → 
    ∀ i ∈ [Instr.redfEntryArrival, .redfEntryRetry],
    exec i s = .next (s.post 64 .redfEntryRetry { tid := e.tid, redf := some e })) ∧
  (∀ (s : State) (e : RedfEntry), s.chipPoison e.pa 4 = none → (s.part e.part).trctl.toNat.testBit 0 = false →
    (s.redfApply e).mem = writeCells s.mem (cellsOf e.pa 4 (roundIeee 24 e.rm
    (sumVals e.rm [(Fmt.fp32.decode ⟨0, 0⟩ (readB s.mem e.pa 4), false),
      (Fmt.fp32.decode ⟨0, 0⟩ e.val.toNat, false)]).1).1)) ∧
  (∀ (s : State) (x : Slot), s.slotAt s.ev.pa = some x → x.held ≠ [] → x.since = s.ev.since →
    exec .reduceStallTimeout s = .next (s.stallOwner x.ownerPart x.owner ⟨0x14, BitVec.ofNat 64 x.pa⟩))

/-- What ends a wait: a store or a load at another cluster's bank, a line in the L1, a line operation, and the time
limits of LDFE, of a queue port and of WFI (R67, R106, R107, R109, R118, R310); that an LDFE at level F waits on is the model's
choice (log 33). A register fill loads the frame
slot's doubleword, as a load through the L1, into the register it names and gives it a physical entry; a write by firmware reaches the register it names (R63, R112). -/
def Obligations.WaitEvents : Prop :=
  (∀ (s : State) (x : SpadStore), s.ev.spad = some x → exec .scratchpadAccessArrival s =
    .next ((s.spadWrite x.cl x.off x.bytes x.val.toNat).modThread x.tid (fun t => { t with meshOut := t.meshOut - 1 }))) ∧
  (∀ (s : State) (a b c : Nat), s.ev.spad = none → (s.thread s.ev.tid).wait = some ⟨.mesh a b c, s.ev.since⟩ →
    exec .scratchpadAccessArrival s = .next (s.modThread s.ev.tid (fun t =>
      { t with meshVal := some (s.spadsRead s.ev.cl s.ev.off s.ev.n) }))) ∧
  (∀ (s : State) (cl off n : Nat), off % 0x400000 + n ≤ 0x400000 →
    s.spadsRead cl off n = (s.cluster (cl + off / 0x400000)).read (off % 0x400000) n) ∧
  (∀ (s : State) (tcm : Bool),
    ((s.l1Install s.ev.core s.ev.pa s.ev.ok false).thread s.ev.tid).wait = some ⟨.miss s.ev.pa tcm, s.ev.since⟩ →
    exec .l1MissReturn s = .next ((s.l1Install s.ev.core s.ev.pa s.ev.ok false).modThread s.ev.tid
      (fun t => { t with opDone := true }))) ∧
  (∀ (c : Core) (x : L1Line), (c.l1.filter (fun y => y.line % 1024 == x.line % 1024)).length < 16 - c.tcmUnits →
    c.l1Evict x = ({ c with l1 := x :: c.l1 }, none)) ∧
  (∀ (s : State) (a b c : Nat) (d : Bool), (s.thread s.ev.tid).wait = some ⟨.lineOp a b c d, s.ev.since⟩ →
    exec .cacheLineOperationPerformed s = .next ((s.lineOpAll s.ev.core s.ev.n s.ev.idx s.ev.pa s.ev.ok).modThread s.ev.tid
      (fun t => { t with opDone := true }))) ∧
  (∀ (s : State) (cl g : Nat) (ea : Word) (keep : Bool),
    (s.thread s.ev.tid).wait = some ⟨.granule cl g ea keep, s.ev.since⟩ → (s.thread s.ev.tid).opDone = false →
    (s.thread s.ev.tid).level ≠ .F → s.inPhase s.ev.tid = false → { s with cur := s.ev.tid }.Quiet →
    exec .ldfeSuspendTimeout s = .next
      ((s.modCluster cl (fun k => { k with feWait := k.feWait.filter (fun x => x.2 != s.ev.tid) })).suspendSlot s.ev.tid 3 4
        (ea &&& ~~~15#64).toNat (s.thread s.ev.tid).level.toNat (s.thread s.ev.tid).pc (s.thread s.ev.tid).loopst)) ∧
  (∀ (s : State), (s.thread s.ev.tid).level = .F → exec .ldfeSuspendTimeout s = .next s) ∧
  (∀ (s : State) (r : Nat), (s.thread s.ev.tid).wait = some ⟨.port r, s.ev.since⟩ →
    exec .queueStallTimeout s = .next (s.raise s.ev.tid ⟨0x15, BitVec.ofNat 64 r⟩)) ∧
  (∀ (s : State), (s.thread s.ev.tid).wait = some ⟨.wfi, s.ev.since⟩ →
    exec .wfiTimeout s = .next (s.modThread s.ev.tid (fun t => { t with opDone := true }))) ∧
  (∀ (s s1 : State) (v : Word),
    s.victims (s.ev.tid / 4) 1 s.ev.ok (lruCode (s.ev.tid % 4) s.ev.n s.ev.ok :: s.ev.nums) = [] →
    s.spillWait (s.ev.tid / 4) [] = none → s.entriesUsed (s.ev.tid / 4) s.ev.ok < 128 →
    fillLoad (frameSlot (s.thread s.ev.tid).frame s.ev.n s.ev.ok)
      { s with cur := s.ev.tid, pc := (s.thread s.ev.tid).pc } = .ok v s1 →
    s1.victims s1.cid 1 s.ev.ok (lruCode (s1.cur % 4) s.ev.n s.ev.ok :: s.ev.nums) = [] →
    exec .registerFill s = .next ((s1.modTh (fun t =>
      { (if s.ev.ok then t.setF s.ev.n v else t.setS s.ev.n v) with wait := none, opDone := false })).modMyCore (fun c =>
        { c with lru := c.lru.filter (fun x => x != lruCode (s1.cur % 4) s.ev.n s.ev.ok) ++
          [lruCode (s1.cur % 4) s.ev.n s.ev.ok] }))) ∧
  (∀ (s : State) (off : Nat), s.tcmPoison s.cid off 8 = none → s.myCore.unitMoving off = false →
    off + 8 ≤ s.myCore.tcmMax * 0x10000 → off + 8 ≤ s.myCore.tcmUnits * 0x10000 → off < 0x200000 →
    fillLoad (BitVec.ofNat 64 off) s = .ok (s.frameSee s.cur (BitVec.ofNat 64 off)) s) ∧
  (∀ (s : State) (tid num : Nat), s.ev.target = some (.sys tid num) →
    exec .registerWrite s = .next ({ s with cur := tid }.sysWrite num s.ev.v)) ∧
  (∀ (s : State) (cl off : Nat), s.ev.target = some (.cluster cl off) →
    exec .registerWrite s = .next (s.ctlWrite cl off s.ev.v)) ∧
  (∀ (s : State) (p off : Nat), s.ev.target = some (.partition p off) →
    exec .registerWrite s = .next (s.blockWriteF p off s.ev.v)) ∧
  (∀ (s : State) (tid num : Nat), s.ev.target = some (.engine tid num) → num < 7 →
    Completes .registerWrite s (fun t => smGet 0 (t.thread tid).ce num = s.ev.v ∧ t.mem = s.mem))

/-- Bring-up and upkeep: POWER_UP with a good image fills memory with zeros and puts every core into test mode; a core
that has not halted in time is withdrawn with its cluster; READY; restart; the boundary of core store; scrub; the
governor's window; the MAU ramp (R10, R18, R71, R72, R77, R114, R416, R418, R426, R428, R430). -/
def Obligations.PowerResult : Prop :=
  (∀ (s : State), s.ev.ok = true → s.ev.n ≠ 3 → s.ev.n ≠ 4 → Completes .powerUp s (fun t =>
    if Config.firmwareVerifies then
      t.mem = [] ∧ t.poison = [] ∧ t.devstat.toNat.testBit 0 = true ∧ t.devstat.toNat.testBit 1 = true ∧
      (∀ c < 1024, (t.core c).test = true ∧ (t.core c).started = true ∧ (t.thread (4 * c)).occ = true ∧
        (t.thread (4 * c)).level = .F ∧ (t.thread (4 * c)).pc = 0 ∧ (t.thread (4 * c)).getS 4 = 0x1000)
    else t = { s with powered := true })) ∧
  (∀ (s : State), s.ev.ok = false → exec .powerUp s = .next { s with powered := true }) ∧
  (∀ (s : State), (s.core s.ev.core).test = true → (s.core s.ev.core).haltedDone = false →
    (s.core s.ev.core).testFault = false → exec .marchTimeout s =
      .next (((s.modThread (4 * s.ev.core) (fun t => { t with stopped := true })).withdrawCluster
        (s.ev.core / 8)).bringUp)) ∧
  (∀ (s : State), s.ev.n = 1 → (∀ c ∈ s.die0Busy, (s.core c).preempted = true ∧ (s.core c).saved = true) →
    Completes .readyClockRaise s (fun t => t.devstat = putBits s.devstat 5 5 1 ∧ t.mem = s.mem)) ∧
  (∀ (s : State) (k : Nat), k < 4 → (s.thread (4 * s.ev.core + k)).stopped = true →
    (s.thread (4 * s.ev.core + k)).st ≠ 7 → Completes .coreRestart s (fun t =>
      (t.thread (4 * s.ev.core + k)).stopped = false ∧ (s.ev.ok = true →
        (t.thread (4 * s.ev.core + k)).pc = s.ev.v &&& ~~~1#64))) ∧
  (∀ (s : State), Completes .carveInterval s (fun t => t.mem = s.mem ∧
    (∀ c ∈ s.cores.map (fun x => x.1),
      (let k := s.core c
       let k' := { k with depthHits := [], sampled := 0 }
       t.core c = if k.test = true ∨ k.chooseWays = 16 - k.tcmUnits ∨ k.moving ≠ none then k'
         else if k.chooseWays < 16 - k.tcmUnits ∧ k.pinsFill k.chooseWays = true then { k' with refused := true }
         else { k' with moving := some (16 - k.chooseWays) })))) ∧
  (∀ (k : Core), (let w := 16 - k.tcmUnits
    let ok := fun x => 16 - k.tcmMax ≤ x ∧ x ≤ 16 - k.tcmMin
    (k.chooseWays = w ∨ (k.chooseWays = w - 1 ∨ k.chooseWays = w + 1) ∧ ok k.chooseWays ∧
      k.missesAt k.chooseWays + k.sampled / 64 < k.missesAt w) ∧
    (∀ x ∈ [w - 1, w + 1], ok x → k.missesAt x + k.sampled / 64 < k.missesAt w → k.missesAt k.chooseWays ≤ k.missesAt x) ∧
    (0 < w → ok (w - 1) → k.missesAt (w - 1) ≤ k.missesAt (w + 1) → k.chooseWays ≠ w + 1))) ∧
  (∀ (s : State) (m : Nat), (s.core s.ev.core).moving = some m → 
    Completes .carveMoveDone s (fun t => (t.core s.ev.core).tcmUnits = m ∧ (t.core s.ev.core).moving = none)) ∧
  (∀ (s : State) (x : ScrubSite), s.ev.site = some x → s.ev.n = 2 → s.poison.contains x = false →
    exec .memoryScrub s = .next { s with poison := x :: s.poison }) ∧
  (∀ (s : State), Completes .governorWindow s (fun t =>
    (s.slew.toNat.testBit 31 = false → t.governor = s.windowDemand) ∧ (s.slew.toNat.testBit 31 = true →
    t.governor ≤ max (s.governor - bitsN s.slew.toNat 24 16 * 256) (s.governor + bitsN s.slew.toNat 8 0 * 256) ∧
    s.governor - bitsN s.slew.toNat 24 16 * 256 ≤ t.governor))) ∧
  (∀ (s : State), (s.cluster s.ev.cl).mauIdle = s.ev.since → s.tileRunning s.ev.cl = false →
    s.ev.since + bitsN s.shape.toNat 15 0 ≤ s.clk →
    exec .mauRampArm s = .next (s.setCluster s.ev.cl { s.cluster s.ev.cl with ramped := true }))

/-- A MAU command reads its operands and enters its core's queue of 8 with the rounding mode, the tables and the phase of
its barrier operand at issue; MWAIT passes when the thread has none; TALLOC and TWM (R185, R188, R195, R196, R205). -/
def Obligations.MauIssue : Prop :=
  (∀ (s s1 : State) (i : Instr) (m : Sem (List Word)) (g : Desig) (xs : List Word),
    mauForm i = some (m, g) → s.fits false → (mauNames i = true → s.myCore.test = false) → m s = .ok xs s1 →
    (s1.mauRounds s1.th.part s1.th.level s1.kid i xs = true → s1.th.rm < 5) → s1.speculative s1.th = false → s1.myCore.mauWaiting.length < 8 →
    (s1.th.capture.left = 0 ∨ s1.th.capture.cmds = []) →
    exec i s = .next (s1.mauEnter (s1.mauCmd i xs g)).done) ∧
  (∀ (s : State), s.fits false → s.th.pendVec = none → s.mauBusy s.cur = false → s.th.pendMau = none →
    exec .mwait s = .next s.done) ∧
  (∀ (s s1 s2 : State) (o : Un) (v : Word), s.fits false → o.read s = .ok v s1 → s1.speculative s1.th = false →
    s1.myCore.mauq = [] →
    (let nb := bitsN v.toNat 5 0
     let nt := bitsN v.toNat 13 8
     if bitsN v.toNat 63 14 ≠ 0 ∨ bitsN v.toNat 7 6 ≠ 0 ∨ 48 < nb ∨ 48 < nt then writeS o.d 2 s1
     else if s1.freeUnits s1.kid Core.tiles + s1.myCore.tiles < nt ∨
       s1.freeUnits s1.kid Core.bslots + s1.myCore.bslots < nb then writeS o.d 1 s1
     else writeS o.d 0 (s1.allocate s1.cid nt nb)) = .ok () s2 →
    exec (.talloc o) s = .next s2.done) ∧
  (∀ (s s1 : State) (d t : Reg), s.fits false → s.myCore.test = false →
    writeS d (if t.toNat < s.myCore.tiles then BitVec.ofNat 64 (s.tile s.cid t.toNat).twm else -1) s = .ok () s1 →
    exec (.twm d t) s = .next s1.done)

/-- The MAU starts one head a clk by weighted round robin; a tile command that fails its checks ends with its fault; a
row that is final is followed by the next, the last one by completion; an axis command completes after its pass; the
first fault of a thread stays pending (R184, R187, R189, R190, R206, R207). That a row is read when it becomes final is the
model's choice (log 36), that an axis command makes its whole pass in the step of its completion its reading (log 37). Row i
of an MMA into one tile: each of its 64 elements is the old one plus the exact products of row i of A with its column
of B, rounded once; MMAZ leaves the old one out; the other rows stay (R193). TLDB, TST into an FP32 window and TCLR (R192,
R194, R195). AXLD from the own scratchpad fills its slot (R197); what AXAPPLY, AXPHASE, AXSUM, AXSCALE and AXCOPY give each
element (R199 to R202); a dune shift, FLSWAP's too, writes to each position the element of the position with the two bits
swapped, its map standing so from its start (R135, R148). -/
def Obligations.MauEvents : Prop :=
  (∀ (s : State) (j ptr : Nat) (credit : SMap Nat) (c : MauCmd), (∀ k < 8, s.mauDrop (8 * s.ev.cl + k) = none) →
    s.axisReady s.ev.cl = [] → (s.cluster s.ev.cl).mauAt ≤ s.clk →
    wrr 8 (s.cluster s.ev.cl).mauPtr (fun k => s.mauReady (8 * s.ev.cl + k)) (fun k => s.mauWeight (8 * s.ev.cl + k))
      (s.cluster s.ev.cl).mauCredit = some (j, credit, ptr) → s.mauHead (8 * s.ev.cl + j) = some c →
    exec .mauCommandStart s = .next (
      let s' := s.setCluster s.ev.cl { s.cluster s.ev.cl with mauCredit := credit, mauPtr := ptr, mauAt := s.clk + 1 }
      if c.isTile then s'.tileStart c else s'.axisStart c)) ∧
  (∀ (s : State) (c : MauCmd) (f : Flt), s.tileCheck c = .error f → s.tileStart c = s.mauFinish c (some f)) ∧
  (∀ (s u : State) (c : MauCmd) (fl : Flags), s.findMau s.ev.core s.ev.id = some c → 
    (∀ o, c.ins = .tst o → s.ev.idx < (s.tile c.cid o.d.toNat).twm) → s.tileRow c s.ev.idx = .ok (u, fl) →
    exec .tileRowFinal s = .next (
      let s' := (u.modMau s.ev.core s.ev.id (fun x => { x with rows := s.ev.idx + 1, flags := x.flags ||| fl })).work
        (u.rowPlanes c) Config.planeWeight
      let last : Ev := { core := s.ev.core, cl := s.ev.core / 8, id := s.ev.id }
      if s.ev.idx = 63 then (if c.slotWrites = [] then s'.postNow .mauCommandComplete last
        else s'.post 1 .mauCommandComplete last)
      else s'.post (s'.rowDue c (s.ev.idx + 1) - s'.clk) .tileRowFinal { s.ev with idx := s.ev.idx + 1 })) ∧
  (∀ (s : State) (c : MauCmd), s.findMau s.ev.core s.ev.id = some c → c.isTile = true →
    exec .mauCommandComplete s = .next (s.mauFinish c none)) ∧
  (∀ (s u : State) (c : MauCmd) (fl : Flags), s.findMau s.ev.core s.ev.id = some c → c.isTile = false → c.stage = 1 →
    isXch c = false → s.axldMoving c = false → s.writeHeld (s.axisLines c) = false → s.axisPass c = (u, fl, none) →
    exec .mauCommandComplete s = .next ((match c.held with
      | pa :: _ =>
        let d := Desc.ofNat (u.pread pa 64)
        if d.active then u.putShift pa (d.withBits true false false d.xcopy) else u
      | [] => u).axisEnd { c with flags := c.flags ||| fl } none)) ∧
  (∀ (s u : State) (c : MauCmd) (fl : Flags) (f : Flt), s.findMau s.ev.core s.ev.id = some c → c.isTile = false →
    c.stage = 1 → isXch c = false → s.axldMoving c = false → s.writeHeld (s.axisLines c) = false →
    s.axisPass c = (u, fl, some f) →
    exec .mauCommandComplete s = .next ((u.haltField { c with flags := c.flags ||| fl } false).axisEnd
      { c with flags := c.flags ||| fl } (some f))) ∧
  (∀ (s : State) (c : MauCmd) (f : Flt), f.cause ≠ 0x18 →
    ((s.mauFinish c (some f)).thread c.tid).pendMau = ((s.thread c.tid).pendMau <|> some (c.fault f)) ∧
    (s.mauFinish c (some f)).mem = s.mem) ∧
  (∀ (s : State) (c : MauCmd) (w : Win) (e0 i t b : Nat) (acc : Bool), i < 64 →
     (let u := (s.mmaRow c w e0 i t b 1 acc).1
      let a := fun q => ((s.cluster (c.tid / 32)).winVal w c.tbl (e0 + 64 * i + q)).1
      (u.tile c.cid t).twm = i + 1 ∧
      (∀ col < 64, smGet 0 (u.tile c.cid t).data (64 * i + col) = BitVec.ofNat 32 (Fmt.fp32.roundInv ⟨0, 0⟩ c.rm
         (sumVals c.rm ((if acc then [(Fmt.fp32.decode ⟨0, 0⟩ (smGet 0 (s.tile c.cid t).data (64 * i + col)).toNat, false)]
           else []) ++ (List.range 64).map (fun q => (a q).mul ((s.bslot c.cid b).val q col))))).1) ∧
      (∀ k, ¬(64 * i ≤ k ∧ k < 64 * i + 64) → smGet 0 (u.tile c.cid t).data k = smGet 0 (s.tile c.cid t).data k))) ∧
  (∀ (s : State) (c : MauCmd) (t : Reg) (i : Nat), c.ins = .tclr t → ∃ u, s.tileRow c i = .ok (u, 0) ∧
    (u.tile c.cid t.toNat).twm = i + 1 ∧ ∀ k, smGet 0 (u.tile c.cid t.toNat).data k =
      if k / 64 = i then 0 else smGet 0 (s.tile c.cid t.toNat).data k) ∧
  (∀ (s : State) (c : MauCmd) (o : Mem) (w : Win) (e0 i : Nat), c.ins = .tldb o → s.tileOperand c (c.arg 0) = .ok (w, e0) →
    s.spadPoison (c.tid / 32) (w.at_ (e0 + 64 * i)) (w.bytes 64) = none →
    ∃ u, s.tileRow c i = .ok (u, 0) ∧ u.mem = s.mem ∧ (let x := u.bslot c.cid o.d.toNat
      let k := s.cluster (c.tid / 32)
      x.valid = true ∧ x.fmt = w.fmt ∧
      (∀ j < 64, smGet 0 x.data (64 * i + j) = BitVec.ofNat 64 (
        bCode (decodeElem w.fmt c.tbl (k.winCode w (e0 + 64 * i + j))).1 +
          (w.scale + k.winBE w (e0 + 64 * i + j) + 1024).toNat * 65536)) ∧
      (∀ n, n / 64 ≠ i → smGet 0 x.data n = smGet 0 (s.bslot c.cid o.d.toNat).data n))) ∧
  (∀ (s : State) (c : MauCmd) (o : Mem) (w : Win) (e0 i : Nat), c.ins = .tst o → s.tileOperand c (c.arg 0) = .ok (w, e0) →
    w.fmt = 0 → (s.cluster (c.tid / 32)).banks = [] → i < 64 → ∃ u, s.tileRow c i = .ok (u, 0) ∧ u.mem = s.mem ∧
      ∀ j < 64, (u.cluster (c.tid / 32)).winCode w (e0 + 64 * i + j) =
        (smGet 0 (s.tile c.cid o.d.toNat).data (64 * i + j)).toNat % 2 ^ 32) ∧
  (∀ (s : State) (c : MauCmd) (o : Mem) (k : BitVec 3) (z : Bool) (off : Nat), c.ins = .axld o k z →
    (let n := 2 ^ k.toNat * 2 ^ k.toNat
     let w := if z then 8 else 4
     (∀ x < n, regionOf (c.arg 0 + BitVec.ofNat 64 (w * x)) = .own (off + w * x) ∧
       s.spadPoison (c.tid / 32) (off + w * x) w = none) →
     s.axisPass c = (s.modCore c.cid (fun y => { y with axis := smSet none y.axis o.d.toNat (some ⟨k.toNat, z,
       (List.range n).map (fun x => BitVec.ofNat 64 ((s.cluster (c.tid / 32)).read (off + w * x) w))⟩) }), 0, none))) ∧
  (∀ (c : MauCmd) (d : Desc) (sig : Nat) (a : AxSlot) (x : AxList) (code : Nat → Nat) (ps : List Nat) (q w : Nat),
    (q, w) ∈ (applyOp c d sig a x code ps).1 ↔ ∃ p ∈ ps, ∃ r < 2 ^ a.k,
      (∀ j ∈ x.targets, p.testBit (d.mapBit j) = false) ∧
      condsHold x.controls x.pat (d.unmapx (sig * 2 ^ d.l + p)) = true ∧
      q = p + spreadBits (x.targets.map d.mapBit) r ∧
      w = (sumProducts c d.fmt ((List.range (2 ^ a.k)).map (fun t =>
        (a.entry r t, decodeElem d.fmt c.tbl (code (p + spreadBits (x.targets.map d.mapBit) t)))))).1) ∧
  (∀ (c : MauCmd) (d : Desc) (sig m : Nat) (f : Val × Val) (code : Nat → Nat) (ps : List Nat) (q w : Nat),
    (q, w) ∈ (phaseOp c d sig m f code ps).1 ↔ q ∈ ps ∧ d.unmapx (sig * 2 ^ d.l + q) &&& m = m ∧
      w = (sumProducts c d.fmt [(decodeElem d.fmt c.tbl (code q), f)]).1) ∧
  (∀ (s : State) (c : MauCmd) (ds : Desc) (sq : Bool) (m y fd : Nat) (R : State → Prop) (rd : Nat → Nat), R s →
    (∀ u x, R u → x < 2 ^ ds.n → ∃ u', R u' ∧ (srcElem c ds x).run u = .ok (rd x, u')) →
    (let vs := ((List.range (2 ^ ds.n)).filter (fun x => squeezeOut m x ds.n == y)).map (fun x =>
       decodeElem ds.fmt c.tbl (rd x))
     let sqr := fun (v : Val) => v.mul v
     ∃ u, R u ∧ (sumElem c ds sq m y fd).run s = .ok (roundElem fd c.tbl c.rm
       (sumVals c.rm (if sq then vs.flatMap (fun v => if fmtCplx ds.fmt then [sqr v.1, sqr v.2] else [sqr v.1])
         else vs.map (fun v => (v.1, false))))
       (sumVals c.rm (if sq then [] else vs.map (fun v => (v.2, false)))), u))) ∧
  (∀ (s u : State) (c : MauCmd) (ds dd : Desc) (x v : Nat), (srcElem c ds x).run s = .ok (v, u) →
    (∀ o, c.ins = .axcopy o → (scaleElem c ds dd x).run s =
      .ok (if ds.fmt = dd.fmt then (v, 0) else convElem ds.fmt dd.fmt c.tbl c.rm v, u)) ∧
    (∀ o, c.ins = .axscale o → (scaleElem c ds dd x).run s =
      .ok (sumProducts c dd.fmt [(decodeElem ds.fmt c.tbl v, factorOf (c.arg 2))], u))) ∧
  (∀ (s : State) (c : MauCmd) (d : Desc) (ps : List Nat) (src rd : Nat → Nat) (shift : Bool) (op : Operator)
     (R : State → Prop), R s →
    (∀ u q, R u → q ∈ ps → ∃ u', R u' ∧ (fieldRd c d (src q)).run u = .ok (rd q, u')) →
    (let r := op (fun q => if q ∈ ps then rd q else 0) ps
     let all := if shift then ps.map (fun q => (q, (r.1.find? (fun y => y.1 == q)).elim (rd q) Prod.snd)) else r.1
     ∃ u, R u ∧ (passPair c d ps src shift op).run s =
       (do all.forM (fun (x : Nat × Nat) => fieldWr c d x.1 x.2); pure r.2 : Eng Flags).run u)) ∧
  (∀ (s : State) (c : MauCmd) (o : Src2) (d : Desc) (dpa : Nat), c.ins = .flswap o → s.cmdDesc c (c.arg 0) = .ok (d, dpa) →
    (let x := (c.arg 1).toNat
     let a := bitsN x 5 0
     let b := bitsN x 13 8
     bitsN x 63 14 = 0 → bitsN x 7 6 = 0 → a < d.n → b < d.n → s.isBound c.part (c.arg 0).toNat d = false →
     d.mapBit a < d.l → d.mapBit b < d.l → (d.mapBit a < 12 ∨ d.mapBit b < 12) → s.axisPlan c =
       .ok (if a = b then .nothing else .shift (max (d.mapBit a) (d.mapBit b)) (min (d.mapBit a) (d.mapBit b))))) ∧
  (∀ (s : State) (c : MauCmd) (h : Word) (d : Desc) (dpa pc pv : Nat), c.handles = [h] → isXch c = false →
    s.cmdDesc c h = .ok (d, dpa) → d.halted = false → s.modeLost c = false → s.axisPlan c = .ok (.shift pc pv) →
    (s.axisBegin c).mem = (s.putDesc dpa (Desc.swapMap d.map d.n pc pv)
      (Desc.shiftOf true true false (!d.phase) false false pv pc)).mem ∧
    (s.clk + s.axisTime c (.shift pc pv), Instr.mauCommandComplete, ({ core := c.cid, cl := c.tid / 32, id := c.id } : Ev)) ∈
      (s.axisBegin c).agenda)

/-- FLDEF stores the image of a free handle's descriptor with STATE 1; FLPERM buffers its permutation; FLSTAT, FLMAP
and FLFREE (R146, R147, R151 to R153). An exchange whose sends are acknowledged and whose elements have arrived copies
them into place and ends; a failed send and a partner that does not come within 2^26 clk halt the field and end it
with their fault (R149, R150). -/
def Obligations.FieldResult : Prop :=
  (∀ (s s1 s2 s3 s4 : State) (o : Src2) (h a : Word) (img dpa : Nat) (old : Desc), s.fits false →
    o.read s = .ok (h, a) s1 → h.toNat < 4096 → s1.myPart.ftbase ≠ 0 → loadN a 64 s1 = .ok img s2 →
    descSeen h s2 = .ok (old, dpa) s3 → old.state = 0 → (Desc.ofNat img).valid = true →
    storeN (s3.myPart.ftbase + BitVec.ofNat 64 (64 * h.toNat)) 64 (img + 2 ^ 120) s3 = .ok () s4 →
    exec (.fldef o) s = .next s4.done) ∧
  (∀ (s s1 s2 s3 s4 : State) (o : Src2) (h a : Word) (d : Desc) (l : List Nat) (dpa pa : Nat), s.fits false →
    o.read s = .ok (h, a) s1 → descDefined h s1 = .ok (d, dpa) s2 → s2.isBound s2.th.part h.toNat d = false →
    readList a d.n s2 = .ok l s3 → Desc.isPerm l d.n = true → descStore h s3 = .ok pa s4 →
    entryCount s4.th.entries < 480 →
    exec (.flperm o) s = .next (s4.modTh (fun t => { t with entries := t.entries ++ [.perm pa l] })).done) ∧
  (∀ (s s1 s2 s3 : State) (o : Un) (h : Word) (d : Desc) (pa : Nat), s.fits false → o.read s = .ok h s1 →
    descSeen h s1 = .ok (d, pa) s2 →
    writeS o.d (if d.state = 0 then 0
      else BitVec.ofNat 64 (d.state * 2 ^ 56 + d.fmt * 2 ^ 48 + d.s * 2 ^ 40 + d.n * 2 ^ 32 + d.shift)) s2 = .ok () s3 →
    exec (.flstat o) s = .next s3.done) ∧
  (∀ (s s1 s2 s3 s4 : State) (o : Src1) (h : Word) (d : Desc) (dpa pa : Nat), s.fits false → o.read s = .ok h s1 →
    descDefined h s1 = .ok (d, dpa) s2 → s2.isBound s2.th.part h.toNat d = false → descStore h s2 = .ok pa s3 →
    bufferStore (pa + 15) 1 0 [pa] s3 = .ok () s4 → exec (.flfree o) s = .next s4.done) ∧
  (∀ (s s1 s2 s3 : State) (o : Bin) (h j : Word) (d : Desc) (pa : Nat), s.fits false → o.read s = .ok (h, j) s1 →
    descDefined h s1 = .ok (d, pa) s2 →
    writeS o.d (if d.n ≤ j.toNat then 0x8000000000000000 else BitVec.ofNat 64 (d.mapBit j.toNat + 256 *
      (if d.mapBit j.toNat < d.near then 0 else if d.mapBit j.toNat < d.l then 1 else 2))) s2 = .ok () s3 →
    exec (.flmap o) s = .next s3.done) ∧
  (∀ (s u : State) (c : MauCmd) (d : Desc) (pa : Nat) (sig : Option Nat) (n : Flags), s.findMau s.ev.core s.ev.id = some c →
    c.stage = 1 → s.ev.status = 0 → s.cmdDesc c (c.arg 0) = .ok (d, pa) → c.sends = 0 →
    2 ^ (d.l - 1) ≤ smGet 0 (s.part c.part).exch (c.arg 0).toNat →
    (let s1 := s.putShift pa (d.withBits true true false true)
     s1.sigma c d = .ok sig ∧ s1.runPairs (copyBlock c d pa (c.arg 2) (ownBit d sig)) (List.range d.blocks) = (u, n, none)) →
    exec .flxchCopyPhase s = .next (((u.putShift pa (d.withBits true false false true)).modPart c.part (fun q =>
      { q with exch := smSet 0 q.exch (c.arg 0).toNat 0 })).axisEnd c none)) ∧
  (∀ (s : State) (c : MauCmd), s.findMau s.ev.core s.ev.id = some c → c.stage = 1 → s.ev.status ≠ 0 →
    exec .flxchCopyPhase s = .next ((s.haltField c false).axisEnd c (some ⟨s.ev.status, s.ev.v⟩))) ∧
  (∀ (s : State) (c : MauCmd) (d : Desc) (pa : Nat), s.findMau s.ev.core s.ev.id = some c → c.stage = 1 →
    c.started = s.ev.since → s.cmdDesc c (c.arg 0) = .ok (d, pa) → exec .flxchPartnerTimeout s = .next (
      if smGet 0 (s.part c.part).exch (c.arg 0).toNat < 2 ^ (d.l - 1) then
        (s.haltField c false).axisEnd c (some (badField 12 (c.arg 0)))
      else s))

/-- EWR writes and ERD reads a copy-engine or routing-engine register; ERD ce.launch queues a command of the registers as
they stand, or answers 0 when the queue holds 32 (R257, R259, R332). -/
def Obligations.EngineRegisters : Prop :=
  (∀ (s s1 : State) (o : Src1) (num v : Word), s.fits false → o.read s = .ok v s1 →
    num.toNat < 7 → exec (.ewr o num) s = .next (s1.modTh (fun t => { t with ce := smSet 0 t.ce num.toNat v })).done) ∧
  (∀ (s s1 : State) (d : Reg) (num : Word), s.fits false → num.toNat < 7 →
    writeS d (smGet 0 s.th.ce num.toNat) s = .ok () s1 → exec (.erd d num) s = .next s1.done) ∧
  (∀ (s s1 : State) (d : Reg), s.fits false →
    (writeS d (BitVec.ofNat 64 s.th.reList) s = .ok () s1 → exec (.erd d 256) s = .next s1.done) ∧
    (writeS d (smGet {} s.myPart.lists s.th.reList).hdr s = .ok () s1 → exec (.erd d 257) s = .next s1.done) ∧
    (writeS d (smGet {} s.myPart.lists s.th.reList).stat s = .ok () s1 → exec (.erd d 260) s = .next s1.done)) ∧
  (∀ (s s1 : State) (d : Reg), s.fits false → s.Quiet →
    (let s' := if (smGet 0 s.th.ce 6).toNat.testBit 3 then s.modTh (fun t => { t with segNew := true }) else s
     let id := s.myCluster.cbtid % 65535 + 1
     let c : CopyCmd :=
       { id := id, tid := s.cur, part := s.th.part, level := s.th.level, regs := (List.range 7).map (smGet 0 s.th.ce),
         tblA := s.myCore.tbl4a, tblB := s.myCore.tbl4b }
     if 32 ≤ s.myCluster.copyq.length then writeS d 0 s'
     else writeS d (BitVec.ofNat 64 id) (s'.modMyCluster (fun k =>
       { k with cbtid := id, copyq := k.copyq ++ [c] }))) = .ok () s1 →
    exec (.copyLaunch d) s = .next s1.done)

/-- The copy engine starts the first waiting command, four at most at once; a command that completes with status 0, CK 0
only leaves the queue; its checks give the first status of R261, in the model's reading of their order (log 39); a copy of unchanged bytes that
fails leaves the bytes before the failure, and its entry tells their number (R260, R261). -/
def Obligations.CopyEvents : Prop :=
  (∀ (s : State) (c : CopyCmd), s.copyReady s.ev.cl = some c → c.bad = false →
    exec .copyCommandStart s = .next ((s.modCopy s.ev.cl c.id (fun x => { x with running := true })).post
      (24 + (c.len * c.cnt + 255) / 256) .copyCommandComplete { cl := s.ev.cl, id := c.id })) ∧
  (∀ (s : State) (c : CopyCmd), (s.cluster s.ev.cl).copyq.find? (fun x => x.id == s.ev.id && x.running && !x.done) = some c →
    s.copyHeld c = false → s.copyCheck c = 0 → (s.copyRows c).status = 0 → c.ck = 0 → exec .copyCommandComplete s =
      .next ((s.copyRows c).s.modCluster s.ev.cl (fun k => { k with copyq := k.copyq.filter (fun x => x.id != c.id) }))) ∧
  (∀ (s : State) (c : CopyCmd), (s.cluster s.ev.cl).copyq.find? (fun x => x.id == s.ev.id && x.running && !x.done) = some c →
    s.copyHeld c = false → s.copyCheck c ≠ 0 → c.ck < 2 → (s.core c.cid).preempted = false → (s.core c.cid).spillq = [] →
    (s.core c.cid).port = [] → (s.core c.cid).mailbox.length < 16 → s.copyCheck c ≠ 8 →
    exec .copyCommandComplete s = .next ((s.toMailbox c.cid
      (BitVec.ofNat 64 (2 ^ 62 + s.copyCheck c * 2 ^ 48 + c.id * 2 ^ 32)) (c.reg 1) 0).modCluster s.ev.cl
        (fun k => { k with copyq := k.copyq.filter (fun x => x.id != c.id) }))) ∧
  (∀ (s : State) (c : CopyCmd), (s.copyCheck c = 3 ↔ c.bad = true ∨ (c.bad = false ∧ c.len ≠ 0 ∧
      (∀ r < c.cnt, s.rowBar c r = false ∧ s.rowDerived c r = false) ∧
      2 ^ 32 ≤ ((List.range c.cnt).map (s.rowBytes c)).sum)) ∧
    (s.copyCheck c = 1 ↔ c.bad = false ∧ c.len ≠ 0 ∧ ∃ r < c.cnt, s.rowBar c r = true) ∧
    (s.copyCheck c = 2 ↔ c.bad = false ∧ c.len ≠ 0 ∧ (∀ r < c.cnt, s.rowBar c r = false) ∧
      ∃ r < c.cnt, s.rowDerived c r = true) ∧
    (s.copyCheck c = 4 ↔ c.bad = false ∧ c.len ≠ 0 ∧ (∀ r < c.cnt, s.rowBar c r = false ∧ s.rowDerived c r = false) ∧
      ((List.range c.cnt).map (s.rowBytes c)).sum < 2 ^ 32 ∧ ∃ r < c.cnt, s.rowForm c r = true)) ∧
  (∀ (s : State) (c : CopyCmd), (s.cluster s.ev.cl).copyq.find? (fun x => x.id == s.ev.id && x.running && !x.done) = some c →
    s.copyHeld c = false → s.copyCheck c = 0 → c.ck < 2 →
    (let e := s.copyRows c
     e.status ≠ 0 → e.status ≠ 8 → (e.s.core c.cid).preempted = false → (e.s.core c.cid).spillq = [] →
     (e.s.core c.cid).port = [] → (e.s.core c.cid).mailbox.length < 16 →
     exec .copyCommandComplete s = .next ((e.s.toMailbox c.cid (BitVec.ofNat 64
       (2 ^ 62 + e.fl.toNat * 2 ^ 56 + e.status * 2 ^ 48 + c.id * 2 ^ 32 + e.bytes % 2 ^ 32)) (c.reg 1) 0).modCluster s.ev.cl
         (fun k => { k with copyq := k.copyq.filter (fun x => x.id != c.id) })))) ∧
  (∀ (s : State) (c : CopyCmd), c.len ≠ 0 → c.cnt = 1 → s.copyRows c = s.copyRow c 0) ∧
  (∀ (s u : State) (c : CopyCmd) (r v : Nat), s.copyReadN c (c.srcRow r) c.len = .ok (v, u) → c.raw = true →
    s.copyRow c r = u.copyWriteN c (c.dstRow r) c.len v) ∧
  (∀ (s : State) (c : CopyCmd) (r e : Nat), s.copyReadN c (c.srcRow r) c.len = .error e →
    (s.copyRow c r).status = e ∧ (s.copyRow c r).bytes = 0 ∧ (s.copyRow c r).s = s) ∧
  (∀ (s : State) (c : CopyCmd) (ea : Word) (n v : Nat),
    (let e := s.copyWriteN c ea n v
     (e.status = 0 → e.bytes = n) ∧ (e.status ≠ 0 → e.bytes < n) ∧
     (s.copyWriteN c ea e.bytes v).status = 0 ∧ (s.copyWriteN c ea e.bytes v).s = e.s))

/-- RWR, RWRB and RENQ are sent once their checks pass and fewer than 64 operations are outstanding. RAMO and RCAS are
sent, after what a release waits for, and the thread goes on while d waits for the response; one with an acquire, or whose
d is a queue port, waits for it, then writes its value, or leaves d where it failed. That RENQ names d to d + 7 at any d up to
56 is the model's reading (log 40). FENCER passes with nothing outstanding in its classes (R344 to R350, R353). -/
def Obligations.RemoteIssue : Prop :=
  (∀ (s s1 : State) (o : MemT) (cls : BitVec 2) (v ea t : Word), s.fits false → cls ≠ 3 →
    o.storeEa s = .ok (v, ea, t) s1 → t &&& ~~~(BitVec.ofNat 64 usedRwr) = 0 → ea.toNat % 8 = 0 →
    s1.allowed s1.th.part (bitsN t.toNat 13 0) = true → s1.speculative s1.th = false →
    s1.th.outOM + s1.th.outAD + s1.th.outRT < 64 →
    exec (.rwr o cls) s = .next (s1.sendOp (s1.opPacket 0 cls.toNat (bitsN t.toNat 13 0) ea [v] t)).done) ∧
  (∀ (s s1 : State) (o : MemT) (cls : BitVec 2) (vs : List Word) (ea t : Word), s.fits false → s.myCore.test = false →
    cls ≠ 3 → o.storeEaF 8 s = .ok (vs, ea, t) s1 → o.d.toNat % 8 = 0 → t &&& ~~~(BitVec.ofNat 64 usedRwr) = 0 →
    ea.toNat % 64 = 0 → s1.allowed s1.th.part (bitsN t.toNat 13 0) = true → s1.speculative s1.th = false →
    s1.th.outOM + s1.th.outAD + s1.th.outRT < 64 →
    exec (.rwrb o cls) s = .next (s1.sendOp (s1.opPacket 1 cls.toNat (bitsN t.toNat 13 0) ea vs t)).done) ∧
  (∀ (s s1 s2 : State) (o : MemT) (cls : BitVec 2) (vs : List Word) (ea t : Word) (p : Place), s.fits false →
    s.myCore.test = false → cls ≠ 3 → o.storeEaF 8 s = .ok (vs, ea, t) s1 → o.d.toNat ≤ 56 →
    t &&& ~~~(0xF3FFF#64) = 0 → ea.toNat % 64 = 0 → s1.allowed s1.th.part (bitsN t.toNat 13 0) = true →
    check (.store 8) ea s1 = .ok p s2 → s2.speculative s2.th = false →
    s2.th.outOM + s2.th.outAD + s2.th.outRT < 64 →
    exec (.renq o cls) s = .next (s2.sendOp (s2.opPacket 4 cls.toNat (bitsN t.toNat 13 0)
      (BitVec.ofNat 64 (bitsN t.toNat 19 16)) vs ea)).done) ∧
  (∀ (s s1 : State) (o : MemT) (op : AtomOp) (cls : BitVec 2) (c : Ctl), s.fits false → cls ≠ 3 →
    s.th.awaiting = true →
    (∀ v, s.th.response = some (some v) →
      writeS o.d v (s.modTh (fun t => { t with awaiting := false, response := none })) = .ok () s1 →
      exec (.ramo o op cls c) s = .next s1.done ∧ exec (.rcas o cls c) s = .next s1.done) ∧
    (s.th.response = some none →
      exec (.ramo o op cls c) s = .next (s.modTh (fun t => { t with awaiting := false, response := none })).done ∧
      exec (.rcas o cls c) s = .next (s.modTh (fun t => { t with awaiting := false, response := none })).done)) ∧
  (∀ (s s1 s2 : State) (o : MemT) (op : AtomOp) (cls : BitVec 2) (c : Ctl) (v ea t : Word), s.fits false →
    cls ≠ 3 → s.th.awaiting = false → (Ctl.releases c = true → s.th.pendReduce = none) → o.d ≠ 58 → o.d ≠ 59 → o.storeEa s = .ok (v, ea, t) s1 →
    t &&& ~~~(0x3FFF#64) = 0 → ea.toNat % (if op.w32 then 4 else 8) = 0 →
    s1.allowed s1.th.part (bitsN t.toNat 13 0) = true → s1.speculative s1.th = false →
    (if Ctl.releases c then (do
      storesPerformed
      commitOnly
      waitRemote) s1 else .ok () s1) = .ok () s2 → s2.speculative s2.th = false →
    s2.th.outOM + s2.th.outAD + s2.th.outRT < 64 →
    (let p := s1.opPacket 2 cls.toNat (bitsN t.toNat 13 0) ea [v] (BitVec.ofNat 64 (op.op.toNat + b2n op.w32 * 16))
     exec (.ramo o op cls c) s = .next (if c.order.toNat % 2 = 1 ∨ 56 ≤ o.d.toNat then
       (s2.sendOp p).modTh (fun t => { t with awaiting := true, wait := none }) else (s2.sendOwed o.d p).done))) ∧
  (∀ (s s1 s2 s3 : State) (o : MemT) (cls : BitVec 2) (c : Ctl) (v w ea t : Word), s.fits false →
    cls ≠ 3 → s.th.awaiting = false → (Ctl.releases c = true → s.th.pendReduce = none) → o.d.toNat % 2 = 0 → o.d.toNat ≤ 54 → readS (o.d + 1) s = .ok w s1 →
    o.storeEa s1 = .ok (v, ea, t) s2 → t &&& ~~~(0x3FFF#64) = 0 → ea.toNat % 8 = 0 →
    s2.allowed s2.th.part (bitsN t.toNat 13 0) = true → s2.speculative s2.th = false →
    (if Ctl.releases c then (do
      storesPerformed
      commitOnly
      waitRemote) s2 else .ok () s2) = .ok () s3 → s3.speculative s3.th = false →
    s3.th.outOM + s3.th.outAD + s3.th.outRT < 64 →
    (let p := s2.opPacket 3 cls.toNat (bitsN t.toNat 13 0) ea [v, w] 0
     exec (.rcas o cls c) s = .next (if c.order.toNat % 2 = 1 then
       (s3.sendOp p).modTh (fun t => { t with awaiting := true, wait := none }) else (s3.sendOwed o.d p).done))) ∧
  (∀ (s : State) (mask : BitVec 3), s.fits false → (mask.toNat.testBit 0 = true → s.th.outOM = 0) →
    (mask.toNat.testBit 1 = true → s.th.outAD = 0) → (mask.toNat.testBit 2 = true → s.th.outRT = 0) →
    s.th.pendRemote = none → exec (.fencer mask) s = .next s.done)

/-- An operation that the target accepts is performed there, and answered once the stale notices that it caused are
acknowledged: the old value of RAMO and RCAS, the status of a write, the tail of RENQ; an answer retires its operation, the
first error staying pending, and gives a waiting register its value; a refused packet goes back (R331, R342, R346 to R351,
R385). -/
def Obligations.RemoteEvents : Prop :=
  (∀ (s u : State) (p : Packet) (old w : Nat), s.ev.pkt = some p → s.pairHeld p = false → s.accepts p = true →
    p.kind = 2 → w = (if p.aux.toNat.testBit 4 then 4 else 8) →
    ((s.accept p).logArrival p).remoteAtomic p.part p.addr w (fun x => amoNew (p.aux.toNat % 16) w x
      ((p.data.headD 0).toNat % 2 ^ (8 * w))) = .ok (old, u) →
    exec .remoteOpArrival s = .next (((s.accept p).logArrival p).answerAfter u
      (answerTo p u.devid 0 (sextW old (8 * w))))) ∧
  (∀ (s u : State) (p : Packet) (old : Nat), s.ev.pkt = some p → s.pairHeld p = false → s.accepts p = true →
    p.kind = 3 →
    ((s.accept p).logArrival p).remoteAtomic p.part p.addr 8 (fun x =>
      if x = (p.data.headD 0).toNat then (p.data.getD 1 0).toNat else x) = .ok (old, u) →
    exec .remoteOpArrival s = .next (((s.accept p).logArrival p).answerAfter u
      (answerTo p u.devid 0 (BitVec.ofNat 64 old)))) ∧
  (∀ (s : State) (p : Packet), s.ev.pkt = some p → s.pairHeld p = false → s.accepts p = true → p.kind = 0 ∨ p.kind = 1 →
    exec .remoteOpArrival s = .next (
      let before := (s.accept p).logArrival p
      let r := before.remoteRwr p
      before.answerAfter r.2 (answerTo p r.2.devid r.1 0))) ∧
  (∀ (s : State) (p : Packet), s.ev.pkt = some p → s.pairHeld p = false → s.accepts p = false →
    ∀ i ∈ [Instr.remoteOpArrival, .requestRecordArrival, .tokenArrival], exec i s = .next (s.nak p)) ∧
  (∀ (s : State) (p : Packet), s.ev.pkt = some p → s.pairHeld p = false → s.accepts p = true →
    exec .requestRecordArrival s = .next (
      let before := (s.accept p).logArrival p
      let r := before.requestArrive p
      before.answerAfter r.2.2 (answerTo p r.2.2.devid r.1 (BitVec.ofNat 64 r.2.1)))) ∧
  (∀ (s u : State) (a : Packet), (u.notices.all (fun n => s.notices.any (fun x => x.id == n.id)) = true →
      s.answerAfter u a = u.inject a) ∧
    (u.notices.any (fun n => !(s.notices.any (fun x => x.id == n.id))) = true →
      (s.answerAfter u a).agenda = u.agenda ∧ (s.answerAfter u a).fabric.acks.length = u.fabric.acks.length + 1)) ∧
  (∀ (s : State) (r p : Packet), s.ev.pkt = some r → s.flightOf r = some p → p.kind < 2 → isExch p = false →
    exec .remoteAckArrival s = .next (s.retireOp p (r.data.headD 0).toNat)) ∧
  (∀ (s : State) (r p : Packet), s.ev.pkt = some r → s.flightOf r = some p → p.kind = 4 →
    exec .remoteAckArrival s = .next ((s.retireOp p (r.data.headD 0).toNat).statusWrite p (r.data.getD 1 0).toNat)) ∧
  (∀ (s : State) (r p : Packet), s.ev.pkt = some r → s.flightOf r = some p → owedOp p = none →
    exec .remoteResponseArrival s = .next ((s.retireOp p (r.data.headD 0).toNat).modThread (4 * p.score + p.slot) (fun t =>
      { t with response := some (if (r.data.headD 0).toNat = 0 then some (r.data.getD 1 0) else none) }))) ∧
  (∀ (s : State) (r p : Packet) (op n : Nat) (old : Word), s.ev.pkt = some r → s.flightOf r = some p → owedOp p = some op →
    s.fabric.pending = [] → smGet .dead (s.thread (4 * p.score + p.slot)).sregs n = .owed op old →
    Completes .remoteResponseArrival s (fun t => smGet .dead (t.thread (4 * p.score + p.slot)).sregs n =
      .resident (if (r.data.headD 0).toNat = 0 then r.data.getD 1 0 else old))) ∧
  (∀ (s : State) (p : Packet) (st tid : Nat), isExch p = false → tid = 4 * p.score + p.slot → s.fabric.pending = [] →
    ((s.retireOp p st).thread tid).pendRemote =
      (if st ≠ 0 ∧ p.kind ≠ 5 ∧ (s.thread tid).pendRemote = none then some (remoteError p st)
        else (s.thread tid).pendRemote) ∧
    (p.cls = 0 → ((s.retireOp p st).thread tid).outOM = (s.thread tid).outOM - 1) ∧ (s.retireOp p st).mem = s.mem)

/-- A packet of the own endpoint's router: forwarded on its route with its flits, held while the router is down, its link
is down or its channel is stopped, answered where its device has failed, resent; links, their modes and keys; routing
generations; router power (R339 to R342, R358, R360, R369, R370). -/
def Obligations.RouterEvents : Prop :=
  (∀ (s : State) (p : Packet), s.ev.pkt = some p → exec .packetNakResend s = .next (s.inject p)) ∧
  (∀ (s w : State) (p : Packet), s.ev.pkt = some p → w = s.woken →
    (w.fabric.powered = false → exec .packetForward s = .next (w.skid .packetForward)) ∧
    (w.fabric.powered = true →
      (p.dst ∈ (w.fabric.table p.gen).devs → p.dst ≠ w.devid → exec .packetForward s = .next (w.refuseFailed p)) ∧
      (p.dst ∉ (w.fabric.table p.gen).devs ∨ p.dst = w.devid →
        (w.fabric.route w.devid (w.fabric.regen w.devid p) = none → exec .packetForward s = .next (w.endpoint p)) ∧
        (∀ port q, w.fabric.route w.devid (w.fabric.regen w.devid p) = some (port, q, false) →
          (w.fabric.link port q.vc).up = true →
          (w.fabric.link port q.vc).off = false → (w.fabric.link port q.vc).buf = [] →
          Completes .packetForward s (fun t => t.fabric.out = s.fabric.out ++ [(port, q)] ∧ t.mem = s.mem ∧
            (t.fabric.link port q.vc).seqOut = (s.fabric.link port q.vc).seqOut + (payloadsOf q).length ∧
            t.fabric.flits.length = s.fabric.flits.length + (payloadsOf q).length)) ∧
        (∀ port q shut, w.fabric.route w.devid (w.fabric.regen w.devid p) = some (port, q, shut) →
          (shut = true ∨ (w.fabric.link port q.vc).up = false ∨ (w.fabric.link port q.vc).off = true) →
          exec .packetForward s = .next { w with fabric := w.fabric.setLink port q.vc { w.fabric.link port q.vc with
            buf := (w.fabric.link port q.vc).buf ++ [(linkKey s.ev.port s.ev.vc, q)] } })))) ∧
  (∀ (s : State), s.ev.n ≤ 2 → (s.ev.n = 1 → s.ev.port < 4) → exec .linkModeSet s = .next
    { s with fabric := s.fabric.setLink s.ev.port s.ev.vc { s.fabric.link s.ev.port s.ev.vc with mode := s.ev.n } }) ∧
  (∀ (s : State), s.ev.n = 1 → 4 ≤ s.ev.port → exec .linkModeSet s = .next s) ∧
  (∀ (s : State), exec .linkKeyReplacement s = .next (
    let l := { s.fabric.link s.ev.port s.ev.vc with key := s.ev.v, nonce := 0 }
    { s with fabric := s.fabric.setLink s.ev.port s.ev.vc l })) ∧
  (∀ (l : Link) (h : BitVec 128) (d : List Word),
    (l.mode = 0 → l.seal h d = ⟨h, d, 0⟩) ∧ (l.mode = 1 → l.seal h d = ⟨h, d, Config.gmac l.key l.nonce h d⟩) ∧
    (l.mode = 2 → l.seal h d = ⟨h, (Config.gcm l.key l.nonce h d).1, (Config.gcm l.key l.nonce h d).2⟩) ∧
    ((l.send h [d]).1.nonce = (l.nonce + 1) % 2 ^ 96 ∧ (l.send h [d]).2 = [l.seal h d])) ∧
  (∀ (s : State) (p : Packet), s.ev.n = 0 → (s.fabric.link s.ev.port s.ev.vc).up = true → s.ev.ok = true →
    s.ev.pkt = some p → p.kind ≠ 8 → exec .linkFlitReceive s = .next (
      let w := s.woken
      let l := w.fabric.link s.ev.port s.ev.vc
      let s' : State := { w with fabric := w.fabric.setLink s.ev.port s.ev.vc { l with naks := 0, seqIn := l.seqIn + 1 } }
      s'.postNow .packetForward { pkt := some p, port := s.ev.port, vc := s.ev.vc })) ∧
  (∀ (s : State), s.ev.n = 0 → (s.fabric.link s.ev.port s.ev.vc).up = true → s.ev.ok = false →
    (s.fabric.link s.ev.port s.ev.vc).naks = 15 → s.ev.vc < 8 → s.ev.port < 8 → Completes .linkFlitReceive s (fun t =>
      (∀ vc < 8, (t.fabric.link s.ev.port vc).up = false) ∧
      t.errors = s.errors ++ [(2, BitVec.ofNat 64 s.ev.port)])) ∧
  (∀ (s : State), Completes .routingTableInstall s (fun t => t.fabric.nextGen = some s.ev.gen ∧
    t.fabric.table s.ev.gen = { devs := s.ev.nums, links := s.ev.links } ∧ t.fabric.gen = s.fabric.gen ∧
    (∀ g, g ≠ s.ev.gen → t.fabric.table g = s.fabric.table g))) ∧
  (∀ (s : State) (g : Nat), s.fabric.nextGen = some g → Completes .routingTableSwitch s (fun t =>
    t.fabric.gen = g ∧ t.fabric.nextGen = none ∧ t.mem = s.mem)) ∧
  (∀ (s : State), s.ev.gen ≠ s.fabric.gen → s.fabric.holds s.ev.gen = false → s.ev.ok = true →
    exec .routingGenerationRetire s = .next { s with fabric := { s.fabric with
      tables := smSet {} s.fabric.tables s.ev.gen {},
      liveGens := s.fabric.liveGens.filter (fun x => x != s.ev.gen) } }) ∧
  (∀ (s : State), s.ev.gen = s.fabric.gen ∨ s.fabric.holds s.ev.gen = true →
    exec .routingGenerationRetire s = .next s) ∧
  (∀ (s : State), s.routerBusy = false → (∀ c, s.fabric.wakeAt = some c → c + 2 < s.clk) → s.ev.ok = true →
    exec .routerPowerDown s = .next { s with fabric := { s.fabric with powered := false, downAt := s.clk } }) ∧
  (∀ (s : State) (c : Nat), s.fabric.wakeAt = some c → s.clk ≤ c + 2 → exec .routerPowerDown s = .next s) ∧
  (∀ (s : State), s.fabric.powered = false → exec .routerWake s = .next { s with
    fabric := { s.fabric with wakeAt := some s.clk, powered := true, skid := [] },
    agenda := s.fabric.skid.map (fun x => (s.clk, x.1, x.2)) ++ s.agenda })

/-- RTSEND appends its record; the routing engine's registers; a record is sent as a token, a malformed one is counted as
spilled; a token goes to its expert's buffer with room; a flush's summary goes to the flushing core (R332 to R335, R356). That
RTSEND knows no limit of 64 operations is the model's reading (log 40). -/
def Obligations.RoutingEngine : Prop :=
  (∀ (s s1 : State) (o : Src1) (v : Word), s.fits false → o.read s = .ok v s1 →
    bitsN v.toNat 63 6 = 0 →
    exec (.reListWrite o) s = .next (s1.modTh (fun t => { t with reList := v.toNat })).done) ∧
  (∀ (s s1 : State) (o : Src1) (v : Word), s.fits false → o.read s = .ok v s1 →
    bitsN v.toNat 17 16 ≠ 3 → s1.speculative s1.th = false →
    exec (.reHdrWrite o) s = .next (s1.modList s1.th.part s1.th.reList (fun x => { x with hdr := v &&& 0x33FFF })).done) ∧
  (∀ (s s1 s2 s3 s4 s5 : State) (o : Src1) (a base tags cap : Word), s.fits false →
    o.read s = .ok a s1 → a.toNat % 32 = 0 → regionOf a = .chip → s1.speculative s1.th = false →
    readPerformed a s1 = .ok base s2 → readPerformed (a + 8) s2 = .ok tags s3 → readPerformed (a + 16) s3 = .ok cap s4 →
    1 ≤ bitsN cap.toNat 8 0 → bitsN cap.toNat 8 0 ≤ 256 → bitsN cap.toNat 63 14 = 0 → base.toNat % 64 = 0 →
    tags.toNat % 8 = 0 → cap.toNat.testBit 13 = false → s4.remoteWrite s4.th.part (a + 24) 8 0 = .ok s5 →
    exec (.reBufRegister o) s = .next (
      let s' := s5.modTh (fun t => { t with reStatus := 0 })
      let b : RecvBuf :=
        { valid := true, part := s4.th.part, base := base, tags := tags, cap := bitsN cap.toNat 8 0, image := a }
      { s' with bufs := smSet {} s'.bufs (bitsN cap.toNat 12 9) b }).done) ∧
  (∀ (s s1 : State) (o : Src1) (v : Word), s.fits false → o.read s = .ok v s1 →
    bitsN v.toNat 63 6 = 0 → s1.speculative s1.th = false → Completes (.reFlush o) s (fun t =>
      (smGet {} (t.part s1.th.part).lists v.toNat).fid = (smGet {} s1.myPart.lists v.toNat).fid + 1 ∧
      (smGet {} (t.part s1.th.part).lists v.toNat).accs.any (fun a =>
        a.fid == (smGet {} s1.myPart.lists v.toNat).fid && a.closed) = true ∧ t.mem = s1.mem)) ∧
  (∀ (s s1 : State) (o : Src3) (d w0 w1 : Word), s.fits false → o.read s = .ok (d, w0, w1) s1 →
    bitsN d.toNat 63 6 = 0 → s1.myPart.rlmask.toNat.testBit d.toNat = true → s1.speculative s1.th = false →
    (smGet {} s1.myPart.lists d.toNat).recs.length < 256 → Completes (.rtsend o) s (fun t =>
      (smGet {} (t.part s1.th.part).lists d.toNat).recs = (smGet {} s1.myPart.lists d.toNat).recs ++
        [{ w0 := w0, w1 := w1, hdr := (smGet {} s1.myPart.lists d.toNat).hdr, level := s1.th.level, tid := s1.cur,
           fid := (smGet {} s1.myPart.lists d.toNat).fid }] ∧ t.mem = s1.mem ∧
      (t.thread s1.cur).outOM + (t.thread s1.cur).outAD + (t.thread s1.cur).outRT =
        s1.th.outOM + s1.th.outAD + s1.th.outRT + 1)) ∧
  (∀ (s : State) (r : SendRec) (rest : List SendRec), (smGet {} (s.part s.ev.part).lists s.ev.list).recs = r :: rest →
    r.malformed = true → exec .routeRecordSend s = .next
      (((s.modList s.ev.part s.ev.list (fun x => { x with recs := rest })).modThread r.tid (fun t =>
        t.retire (bitsN r.hdr.toNat 17 16))).recordDone s.ev.part s.ev.list r.fid 2 1)) ∧
  (∀ (s u : State) (r : SendRec) (rest : List SendRec) (ws : List Word),
    (smGet {} (s.part s.ev.part).lists s.ev.list).recs = r :: rest → r.malformed = false →
    (let dst := bitsN r.hdr.toNat 13 0
     let cls := bitsN r.hdr.toNat 17 16
     let s' := s.modList s.ev.part s.ev.list (fun x => { x with recs := rest })
     s'.allowed s.ev.part dst = true → s'.fabric.failed.contains dst = false →
     s'.payload s.ev.part r.level (sextW r.w0.toNat 48) (bitsN r.w0.toNat 55 48) = .ok (ws, u) →
     exec .routeRecordSend s = .next ((u.modList s.ev.part s.ev.list (fun x =>
       { x with inflight := x.inflight + 1 })).sendPacket
         { kind := 5, cls := cls, vc := 0, gen := 0, seq := 0, src := u.devid, dst := dst, part := s.ev.part,
           score := r.tid / 4, slot := r.tid % 4, addr := BitVec.ofNat 64 (s.ev.list + 64 * r.fid),
           data := tokenMeta false dst cls :: ws, aux := r.w1, mid := none }))) ∧
  (∀ (s : State) (p : Packet) (m : Nat), s.ev.pkt = some p → s.pairHeld p = false → s.accepts p = true →
    m = (p.data.headD 0).toNat → m.testBit 0 = false →
    (let u := (s.accept p).logArrival p
     let b := smGet {} u.bufs (bitsN p.aux.toNat 3 0)
     b.is p = true → b.fill < b.cap → exec .tokenArrival s = .next (
       let r := u.placeToken p (bitsN p.aux.toNat 3 0) false 0
       u.answerAfter r.1 (answerTo { p with cls := bitsN m 17 16 } (bitsN m 14 1) 0 (BitVec.ofNat 64 r.2))))) ∧
  (∀ (s : State) (a : FlushAcc), (smGet {} (s.part s.ev.part).lists s.ev.list).accs.find? (fun a =>
      a.fid == s.ev.fid && a.closed) = some a → exec .flushSummary s = .next
    ((s.modList s.ev.part s.ev.list (fun x => { x with accs := x.accs.filter (fun y => y.fid != a.fid) })).toMailbox a.core
      (BitVec.ofNat 64 (2 ^ 63 + s.ev.list * 2 ^ 56 + a.status % 256 * 2 ^ 48 + a.count % 65536 * 2 ^ 32 +
        a.second % 65536 * 65536 + a.spilled % 65536)) a.hdr 0))

/-- SMARK and RRED put their packet on the stream; a stream entry is written; the router gathers a marker from every
input and steps to the next port-set (R361 to R363). The address of a marker's packet is a free value of the model
(log 5); that RRED knows no limit of 64 operations is its reading (log 40). -/
def Obligations.StreamResult : Prop :=
  (∀ (s s1 : State) (o : Src2) (d v : Word), s.fits false → o.read s = .ok (d, v) s1 →
    bitsN d.toNat 63 8 = 0 → s1.myPart.stmask.testBit d.toNat = true → s1.speculative s1.th = false →
    s1.th.outOM + s1.th.outAD + s1.th.outRT < 64 →
    exec (.smark o) s = .next (
      let u := s1.free.2
      let p : Packet :=
        { u.opPacket 8 0 u.devid (sextW s1.free.1.toNat 48) [v] d with seq := u.streamSeq, vc := 7, gen := u.fabric.gen }
      ((u.sendStream p).post 120 .markerArrival { pkt := some p, port := 8, stream := d.toNat }).done)) ∧
  (∀ (s s1 : State) (o : MemT) (cls : BitVec 2) (vs : List Word) (ea t : Word), s.fits false → s.myCore.test = false →
    cls ≠ 3 → o.storeEaF 4 s = .ok (vs, ea, t) s1 → o.d.toNat % 4 = 0 → bitsN t.toNat 63 33 = 0 →
    s1.myPart.stmask.testBit (bitsN t.toNat 7 0) = true → ea.toNat % 128 = 0 → s1.speculative s1.th = false →
    Completes (.rred o cls) s (fun u => u.mem = s1.mem ∧
      (u.thread s1.cur).outOM + (u.thread s1.cur).outAD + (u.thread s1.cur).outRT =
        s1.th.outOM + s1.th.outAD + s1.th.outRT + 1 ∧
      ∃ r : RedPacket, (s1.clk + 120, Instr.reductionPacketArrival,
          ({ red := some r, port := 8, stream := bitsN t.toNat 7 0 } : Ev)) ∈ u.agenda ∧
        r.ea = ea ∧ r.map = 2 ^ bitsN t.toNat 23 16 ∧ r.k = bitsN t.toNat 31 24 + 1 ∧
        r.words = (vs.flatMap (fun v => [bitsN v.toNat 31 0, bitsN v.toNat 63 32])).map (fun c => BitVec.ofInt 64
          (fx64Of (sextW (bitsN t.toNat 15 8) 8).toInt (decodeIeee 23 c)).1))) ∧
  (∀ (s : State), s.ev.idx ≤ 8 → exec .streamEntryWrite s = .next (
    let v := s.ev.v &&& (if s.ev.idx = 0 then 0xFFFFFF000F else 0x301FF01FF)
    let e := s.entry s.ev.stream
    s.setEntry s.ev.stream { e with words := smSet 0 e.words s.ev.idx v })) ∧
  (∀ (s : State), s.ev.pkt.isSome = true → s.woken.fabric.powered = false →
    exec .markerArrival s = .next (s.woken.skid .markerArrival)) ∧
  (∀ (s : State) (p : Packet), s.ev.pkt = some p → s.woken.fabric.powered = true →
    (s.entry s.ev.stream).takes s.ev.port = true →
    (∀ m ∈ (s.entry s.ev.stream).markers, m.1 ≠ s.ev.port) →
    (∃ i ∈ (s.entry s.ev.stream).ins, i ≠ s.ev.port ∧ ∀ m ∈ (s.entry s.ev.stream).markers, m.1 ≠ i) →
    ((s.entry s.ev.stream).outs.contains 8 = true → ∀ m ∈ (s.entry s.ev.stream).markers ++ [(s.ev.port, p)],
      s.woken.pairHeld { m.2 with cls := 1 } = false) →
    exec .markerArrival s = .next (s.woken.setEntry s.ev.stream { s.entry s.ev.stream with
      markers := (s.entry s.ev.stream).markers ++ [(s.ev.port, p)] })) ∧
  (∀ (s : State) (p : Packet), s.ev.pkt = some p → s.woken.fabric.powered = true →
    (s.entry s.ev.stream).takes s.ev.port = true →
    (s.entry s.ev.stream).waiting = [] → (∀ m ∈ (s.entry s.ev.stream).markers, m.1 ≠ s.ev.port) →
    (∀ i ∈ (s.entry s.ev.stream).ins, i = s.ev.port ∨ ∃ m ∈ (s.entry s.ev.stream).markers, m.1 = i) →
    (s.entry s.ev.stream).outs.contains 8 = false →
    Completes .markerArrival s (fun t => (t.entry s.ev.stream).markers = [] ∧ t.mem = s.mem ∧
      (t.entry s.ev.stream).cur = ((s.entry s.ev.stream).cur + 1) % (s.entry s.ev.stream).nset)) ∧
  (∀ (s : State) (p : Packet), s.ev.pkt = some p → s.woken.fabric.powered = true →
    (s.entry s.ev.stream).takes s.ev.port = false →
    exec .markerArrival s = .next (s.woken.entryError s.ev.stream))

/-- A reduction packet is multicast, or joins its step's gather; one of other parameters is its input's packet of the step
and goes on alone; what the limit finds goes on combined; the endpoint adds the words of disjoint maps and delivers the
block when every contribution is in (R359, R361, R363, R364). -/
def Obligations.ReductionEvents : Prop :=
  (∀ (s : State) (r : RedPacket), s.ev.red = some r → s.woken.fabric.powered = true →
    (s.entry s.ev.stream).takes s.ev.port = true →
    (∀ m ∈ (s.entry s.ev.stream).markers, m.1 ≠ s.ev.port) →
    ((s.entry s.ev.stream).op ≠ 2 → exec .reductionPacketArrival s = .next (s.woken.postNow .multicastForward s.ev)) ∧
    ((s.entry s.ev.stream).op = 2 → (s.entry s.ev.stream).late = [] → s.gatherOf s.ev.stream = none →
      (s.entry s.ev.stream).ins ≠ [s.ev.port] → (s.entry s.ev.stream).limit = 0 →
      exec .reductionPacketArrival s = .next (s.woken.putGather
        { stream := s.ev.stream, ea := r.ea, since := s.clk, pkts := [r], ports := [s.ev.port] })) ∧
    (∀ g, (s.entry s.ev.stream).op = 2 → (s.entry s.ev.stream).late = [] → s.gatherOf s.ev.stream = some g →
      s.ev.port ∉ g.ports → (∃ i ∈ (s.entry s.ev.stream).ins, i ≠ s.ev.port ∧ i ∉ g.ports) →
      ((∀ x ∈ g.pkts, redDiffers x r = false) → exec .reductionPacketArrival s = .next (s.woken.putGather
        { g with pkts := g.pkts ++ [r], ports := s.ev.port :: g.ports })) ∧
      ((∃ x ∈ g.pkts, redDiffers x r = true) → exec .reductionPacketArrival s = .next
        ((s.woken.sendRed s.ev.port (s.entry s.ev.stream).outs r).putGather
          { g with mis := true, ports := s.ev.port :: g.ports })))) ∧
  (∀ (s : State) (r : RedPacket), s.ev.red = some r →
    exec .multicastForward s = .next (s.sendRed s.ev.port (s.entry s.ev.stream).outs r)) ∧
  (∀ (s : State) (g : Gather), s.gatherOf s.ev.stream = some g → g.since = s.ev.since →
    exec .reduceLimitExpiry s = .next ((s.setEntry g.stream { s.entry g.stream with
      late := (s.entry g.stream).late ++ ((s.entry g.stream).ins.filter (fun i => !(g.ports.contains i))).map
        (fun i => (g.ea, i)) }).closeGather 8 g)) ∧
  (∀ (s : State) (r : RedPacket), s.ev.red = some r →
    s.fabric.closed.find? (fun c => c.stream == r.stream && c.ea == r.ea) = none → s.redHeld r.part r.ea = false →
    exec .endpointReductionArrival s = .next (s.accumulate r)) ∧
  (∀ (s : State) (r : RedPacket), s.fabric.endpoint.find? (sameStep r.stream r.ea) = none → mapCount r.map ≠ r.k →
    s.redHeld r.part r.ea = false →
    Completes .endpointReductionArrival { s with ev := { red := some r }, fabric := { s.fabric with closed := [] } } (fun t =>
      t.fabric.endpoint = s.fabric.endpoint ++ [{ stream := r.stream, ea := r.ea, since := s.clk, pkts := [r] }] ∧
      t.mem = s.mem)) ∧
  (∀ (s : State) (r : RedPacket) (g : Gather), s.fabric.endpoint.find? (sameStep r.stream r.ea) = some g →
    (∀ x ∈ g.pkts, redDiffers x r = false) → (g.pkts.foldl (fun m x => m ||| x.map) 0) &&& r.map = 0 →
    mapCount ((g.pkts.foldl (fun m x => m ||| x.map) 0) ||| r.map) = r.k →
    s.accumulate r = s.deliverRed { g with pkts := g.pkts ++ [r] } false) ∧
  (∀ (a b : RedPacket) (k : Nat), k < a.words.length → k < b.words.length →
    (combineRed a [b]).words[k]? = some (a.words.getD k 0 + b.words.getD k 0) ∧
    (combineRed a [b]).map = a.map ||| b.map ∧ (combineRed a [b]).sat = (a.sat || b.sat)) ∧
  (∀ (s : State) (g : Gather), s.fabric.endpoint.find? (sameStep s.ev.stream s.ev.v) = some g → g.since = s.ev.since →
    (∀ r ∈ g.pkts, s.redHeld r.part r.ea = false) → exec .endpointIncompleteTimeout s = .next (s.deliverRed g true)) ∧
  (∀ (s : State), Completes .closedRecordExpiry s (fun t => t.mem = s.mem ∧
    (∀ c, c ∈ t.fabric.closed ↔ c ∈ s.fabric.closed ∧
      ¬(c.stream = s.ev.stream ∧ c.ea = s.ev.v ∧ c.since = s.ev.since))))

/-- RPBAR arrives once at a pod barrier and signals the device at its local count; RPWAIT passes a release; the root
releases at pod time plus the allowance; a release flips the phase and wakes the local waiters (R365 to R367). -/
def Obligations.PodResult : Prop :=
  (∀ (s s1 : State) (o : Src1) (v : Word), s.fits false → s.Quiet → o.read s = .ok v s1 →
    bitsN v.toNat 63 6 = 0 → s1.myPart.pbmask.toNat.testBit v.toNat = true → s1.Quiet →
    (s1.th.arrA (podKey s1.th.part v.toNat) && s1.th.arrRP (podKey s1.th.part v.toNat) ==
      (s1.pod s1.th.part v.toNat).phase) = false →
    Completes (.rpbar o) s (fun t =>
      (t.thread s1.cur).arrA (podKey s1.th.part v.toNat) = true ∧
      (t.thread s1.cur).arrRP (podKey s1.th.part v.toNat) = (s1.pod s1.th.part v.toNat).phase ∧
      (t.pod s1.th.part v.toNat).count = (s1.pod s1.th.part v.toNat).count + 1 ∧ t.mem = s1.mem ∧
      (∀ c, (s1.pod s1.th.part v.toNat).cfg = some c → (s1.pod s1.th.part v.toNat).count + 1 = c.lc →
        (s1.clk, Instr.podDeviceArrival, ({ part := s1.th.part, ch := v.toNat } : Ev)) ∈ t.agenda))) ∧
  (∀ (s s1 : State) (o : Src1) (v : Word), s.fits false → s.th.pendVec = none → s.th.pendMau = none →
    o.read s = .ok v s1 → bitsN v.toNat 63 6 = 0 →
    s1.myPart.pbmask.toNat.testBit v.toNat = true → s1.th.arrA (podKey s1.th.part v.toNat) = true →
    s1.th.arrRP (podKey s1.th.part v.toNat) ≠ (s1.pod s1.th.part v.toNat).phase →
    exec (.rpwait o) s = .next ((s1.modTh (fun t => t.setArr (podKey s1.th.part v.toNat) false
      (t.arrRP (podKey s1.th.part v.toNat)))).modTh (fun t => { t with segNew := t.segNew || t.between })).done) ∧
  (∀ (s : State) (c : PodCfg), (s.pod s.ev.part s.ev.ch).cfg = some c → c.root = s.devid →
    c.members.contains (match s.ev.pkt with
      | some q => q.src
      | none => s.devid) = true →
    exec .podDeviceArrival s = .next (
      let x := s.pod s.ev.part s.ev.ch
      let s' := s.setPod s.ev.part s.ev.ch { x with arrived := x.arrived + 1 }
      if x.arrived + 1 = c.members.length then s'.post 0 .podRootComplete { part := s.ev.part, ch := s.ev.ch }
      else s')) ∧
  (∀ (s : State) (c : PodCfg), (s.pod s.ev.part s.ev.ch).cfg = some c → c.root ≠ s.devid → s.ev.pkt = none →
    exec .podDeviceArrival s = .next (s.podSignal s.ev.part s.ev.ch 0 c.root 0)) ∧
  (∀ (s : State) (c : PodCfg), (s.pod s.ev.part s.ev.ch).cfg = some c → Completes .podRootComplete s (fun t =>
    (t.pod s.ev.part s.ev.ch).arrived = 0 ∧ t.mem = s.mem ∧ (s.devid ∈ c.members → (s.clk, Instr.podRelease,
      ({ part := s.ev.part, ch := s.ev.ch, v := BitVec.ofNat 64 (s.clk + c.allow) } : Ev)) ∈ t.agenda) ∧
    (∀ d ∈ c.members, d ≠ s.devid → ∃ p : Packet, p.kind = 10 ∧ p.dst = d ∧ p.addr = BitVec.ofNat 64 (s.clk + c.allow) ∧
      (s.clk + 120, Instr.packetForward, ({ pkt := some p, port := 8, vc := 7 } : Ev)) ∈ t.agenda))) ∧
  (∀ (s : State), s.ev.n = 1 → Completes .podRelease s (fun t =>
    (t.pod s.ev.part s.ev.ch).phase = !(s.pod s.ev.part s.ev.ch).phase ∧ (t.pod s.ev.part s.ev.ch).count = 0)) ∧
  (∀ (s : State) (c : PodCfg), s.ev.n ≠ 1 → (s.pod s.ev.part s.ev.ch).cfg = some c → s.clk < s.ev.v.toNat →
    Completes .podRelease s (fun t => t.mem = s.mem ∧ t.threads = s.threads ∧ ∃ due,
      4 * (s.ev.v.toNat) + c.index * c.window * 50 / max 1 c.members.length * 5 ≤ 4 * due ∧
      4 * due ≤ 4 * s.ev.v.toNat + c.index * c.window * 50 / max 1 c.members.length * 5 + 1003 ∧
      (due, Instr.podRelease, ({ part := s.ev.part, ch := s.ev.ch, n := 1 } : Ev)) ∈ t.agenda)) ∧
  (∀ (s : State), (∀ c, s.ev.pod = some c → c.window ≤ 2000) →
    exec .podBarrierConfiguration s = .next (s.setPod s.ev.part s.ev.ch
      { s.pod s.ev.part s.ev.ch with cfg := s.ev.pod })) ∧
  (∀ (s : State) (c : PodCfg), s.ev.pod = some c → 2000 < c.window →
    exec .podBarrierConfiguration s = .next s)

/-- DVREG of a sound rule enters it and makes every derived line stale by notice; DVDROP makes current lines ordinary
memory; DVSTAT and DVREF; a notice makes its line stale and is acknowledged, and a remote operation whose notices all are
is acknowledged then; a recompute installs its line and frees its engine
(R346, R371, R372, R384, R385, R387, R391, R393, R394). -/
def Obligations.DerivedResult : Prop :=
  (∀ (s s1 s2 : State) (o : Un) (h : Word), s.fits false → o.read s = .ok h s1 → h.toNat < 4096 →
    s1.myPart.ftbase ≠ 0 →
    (match (if s1.myPart.dvbase = 0 then none else s1.ruleOf s1.th.part h.toNat) with
      | none => writeS o.d 0 s1
      | some r => writeS o.d (BitVec.ofNat 64 (2 ^ 63 + r.depth * 2 ^ 20 + r.kind * 65536 + r.base)) s1) = .ok () s2 →
    exec (.dvstat o) s = .next s2.done) ∧
  (∀ (s s1 s2 s3 s4 : State) (o : Un) (h : Word) (d : Desc) (pa n : Nat) (r : Rule), s.fits false →
    o.read s = .ok h s1 → h.toNat < 4096 → s1.myPart.ftbase ≠ 0 → s1.myPart.dvbase ≠ 0 →
    s1.speculative s1.th = false → descDefined h s1 = .ok (d, pa) s2 → s2.ruleOf s2.th.part h.toNat = some r →
    refresh d r s2 = .ok n s3 → writeS o.d (BitVec.ofNat 64 n) s3 = .ok () s4 →
    exec (.dvref o) s = .next (s4.recomputeTime n r.depth 0).done) ∧
  (∀ (s s1 s2 s3 s4 : State) (o : Src1) (h : Word) (d : Desc) (dpa pa n : Nat) (r : Rule), s.fits false → s.Quiet →
    o.read s = .ok h s1 → h.toNat < 4096 → s1.myPart.ftbase ≠ 0 → s1.myPart.dvbase ≠ 0 → s1.Quiet →
    descDefined h (s1.modTh (fun t => { t with segNew := true })) = .ok (d, dpa) s2 →
    s2.ruleOf s2.th.part h.toNat = some r →
    (∀ x ∈ s2.rules, ¬(x.part = s2.th.part ∧ x.base = h.toNat)) → entryAt h s2 = .ok pa s3 →
    refresh d r s3 = .ok n s4 → Completes (.dvdrop o) s (fun t =>
      t.ruleOf s2.th.part h.toNat = none ∧ (∀ l ∈ linesIn r.segs, l ∉ t.current))) ∧
  (∀ (s s1 s2 s3 s4 s5 : State) (o : Src2) (h a : Word) (img dpa bpa pa : Nat) (d b : Desc), s.fits false →
    o.read s = .ok (h, a) s1 → s1.Quiet → h.toNat < 4096 → 
    loadN a 64 (s1.modTh (fun t => { t with segNew := true })) = .ok img s2 → s2.myPart.ftbase ≠ 0 →
    s2.myPart.dvbase ≠ 0 → descDefined h s2 = .ok (d, dpa) s3 →
    descSeen (BitVec.ofNat 64 (bitsN ((natWords 8 img).getD 0 0).toNat 11 0)) s3 = .ok (b, bpa) s4 →
    ruleValid (natWords 8 img) d b = true → entryAt h s4 = .ok pa s5 →
    (s5.chainOf s5.th.part (bitsN ((natWords 8 img).getD 0 0).toNat 11 0) 5).contains h.toNat = false →
    d.s = 0 → d.base.toNat % 256 = 0 →
    (∀ x ∈ s5.chainOf s5.th.part (bitsN ((natWords 8 img).getD 0 0).toNat 11 0) 5,
      overlaps (s5.storage s5.th.part d) (s5.storageOf s5.th.part x) = false) →
    (match s5.ruleOf s5.th.part (bitsN ((natWords 8 img).getD 0 0).toNat 11 0) with
      | some r => r.depth + 1
      | none => 1) + s5.below s5.th.part h.toNat 5 ≤ 4 →
    Completes (.dvreg o) s (fun t => (∃ r ∈ t.rules, r.part = s5.th.part ∧ r.h = h.toNat) ∧
      (t.thread s5.cur).paused = true ∧
      (∀ l ∈ linesIn (s5.storage s5.th.part d), t.isStale (l * 256) = true ∧ ∃ x ∈ t.notices, x.line = l ∧
        (s5.clk, Instr.staleNoticeArrival, ({ id := x.id } : Ev)) ∈ t.agenda))) ∧
  (∀ (s : State) (n : Notice), s.notices.find? (fun n => n.id == s.ev.id) = some n →
    Completes .staleNoticeArrival s (fun t => n.line ∉ t.current ∧ t.mem = s.mem)) ∧
  (∀ (s : State), s.fabric.acks = [] → exec .staleNoticeAck s =
    .next { s with notices := s.notices.filter (fun n => n.id != s.ev.id) }) ∧
  (∀ (s : State), Completes .staleNoticeAck s (fun t => t.mem = s.mem ∧
    t.notices = s.notices.filter (fun n => n.id != s.ev.id) ∧
    (∀ a ∈ s.fabric.acks, (∀ n ∈ t.notices, n.waiting ≠ some a.1) →
      (s.clk + 120, Instr.packetForward, ({ pkt := some a.2, port := 8 } : Ev)) ∈ t.agenda))) ∧
  (∀ (s : State) (r : Rule) (d b : Desc) (x : Nat × Nat × Bool) (v : Nat),
    s.recomputing.find? (fun y => y.1 == s.ev.pa) = some x → x.2.2 = false → x.2.1 < 16 → s.ruleAt s.ev.pa = some r →
    s.ruleDescs r = .ok (d, b) → (∀ f ∈ s.feedSet r d b s.ev.pa, s.isStale (f * 256) = false) →
    s.lineBytes r d b s.ev.pa = .ok v →
    exec .recomputeComplete s = .next (((s.feedLoads r d b s.ev.pa).install s.ev.pa v).endRecompute s.ev.pa)) ∧
  (∀ (s : State) (line v : Nat), line ∈ (s.install line v).current ∧
    (s.install line v).mem = writeCells s.mem (cellsOf (line * 256) 256 v))

/-- XPHASE enters a phase by arrival and release and leaves it; XSEND's word is on the core's lane in its clock; XSEL arms
a capture, which takes the word that the source's lane carried the distance before, or counts a miss; a phase that is
ended by force counts the captures not taken (R297 to R303). -/
def Obligations.PhaseResult : Prop :=
  (∀ (s : State) (ch : BitVec 6), s.fits false → s.myCore.fend = false → s.myCore.test = false → s.th.pendVec = none →
    s.th.pendMau = none → s.th.xarr = some ch.toNat → s.th.opDone = true →
    exec (.xphaseEnter ch) s = .next (s.modTh (fun t => { t with xarr := none, segNew := true })).done) ∧
  (∀ (s s1 : State) (ch : BitVec 6), s.fits false → s.myCore.fend = false → s.myCore.test = false → s.th.pendVec = none →
    s.th.pendMau = none → s.th.pendReduce = none → s.th.xarr ≠ some ch.toNat → s.myCore.inph = false →
    (∀ j < 4, 4 * s.cid + j ≠ s.cur → (s.thread (4 * s.cid + j)).entering = false) →
    barArrive ch.toNat (.phaseEntry ch.toNat) s = .ok () s1 →
    exec (.xphaseEnter ch) s = .next (s1.modTh (fun t =>
      { t with xarr := some ch.toNat, opDone := false, wait := none }))) ∧
  (∀ (s : State), s.fits false → s.myCore.fend = false → s.th.pendVec = none → s.th.pendMau = none →
    s.inPhase s.cur = true → s.myCore.armedSlots = [] →
    exec .xphaseLeave s = .next (s.modMyCore (fun c => { c with inph := false })).done) ∧
  (∀ (s : State), s.fits false → s.myCore.fend = false → s.th.pendVec = none → s.th.pendMau = none →
    s.myCore.inph = false → exec .xphaseLeave s = .next s.done) ∧
  (∀ (s s1 : State) (o : Mem) (v k : Word), s.fits false → s.myCore.fend = false → s.inPhase s.cur = true →
    s.speculative s.th = false → o.storeEa s = .ok (v, k) s1 → k.toNat ≤ 65535 → s1.phaseClock s1.cid ≤ k.toNat →
    Completes (.xsend o) s (fun t => t.mem = s1.mem ∧
      (let e : Ev := { tid := s1.cur, core := s1.cid, since := s1.myCore.phaseStart, v := v, n := k.toNat }
       (s1.clk + (k.toNat - s1.phaseClock s1.cid), Instr.xsendTransmit, e) ∈ t.agenda))) ∧
  (∀ (s s1 : State) (o : MemT) (d k t : Word), s.fits false → s.myCore.fend = false → s.inPhase s.cur = true →
    s.speculative s.th = false → s.th.xsel = none → o.storeEa s = .ok (d, k, t) s1 → bitsN t.toNat 63 10 = 0 →
    s1.clusterOk s1.th.part (t.toNat / 8) = true → k.toNat ≤ 65535 → s1.phaseClock s1.cid < k.toNat → d.toNat % 8 = 0 →
    d.toNat < s1.myCore.tcmMax * 0x10000 → (∀ x ∈ s1.myCore.armedSlots, x.1 ≠ k.toNat) →
    (s1.myCore.armedSlots.length < 32 →
      exec (.xsel o) s = .next ((((s1.modMyCore (fun c =>
        { c with armedSlots := c.armedSlots ++ [(k.toNat, t.toNat, d.toNat)] })).modTh (fun x =>
          { x with xsel := none })).post (k.toNat - s1.phaseClock s1.cid)
          .xselCapture { core := s1.cid, since := s1.myCore.phaseStart, n := k.toNat }).done)) ∧
    (32 ≤ s1.myCore.armedSlots.length →
      exec (.xsel o) s = .next ((s1.modTh (fun x => { x with xsel := some (MemT.waiting o d k t) })).park .armed))) ∧
  (∀ (s : State), (s.core s.ev.core).inph = true → (s.core s.ev.core).phaseStart = s.ev.since →
    Completes .xsendTransmit s (fun t => smGet none (t.core s.ev.core).lane s.clk = some s.ev.v ∧ t.mem = s.mem)) ∧
  (∀ (s : State) (src d : Nat), (s.core s.ev.core).inph = true → (s.core s.ev.core).phaseStart = s.ev.since →
    (s.core s.ev.core).armedSlots.find? (fun x => x.1 == s.ev.n) = some (s.ev.n, src, d) →
    (let delay := laneDelay (src / 8) (s.ev.core / 8)
     let u := s.modCore s.ev.core (fun c => { c with armedSlots := c.armedSlots.filter (fun x => x.1 != s.ev.n) })
     (∀ v, delay ≤ s.ev.n → smGet none (s.core src).lane (s.clk - delay) = some v →
       exec .xselCapture s = .next (u.tcmStore s.ev.core d 8 v.toNat)) ∧
     ((s.ev.n < delay ∨ smGet none (s.core src).lane (s.clk - delay) = none) →
       exec .xselCapture s = .next (u.modCore s.ev.core (fun c => c.missed 1))))) ∧
  (∀ (s : State), (s.core s.ev.core).inph = true → (s.core s.ev.core).phaseStart = s.ev.since →
    (∀ x, (s.thread (s.core s.ev.core).phaseTid).wait = some x → x.why ≠ .armed) →
    Completes .phaseForcedEnd s (fun t => (t.core s.ev.core).inph = false ∧ (t.core s.ev.core).armedSlots = [] ∧
      (t.core s.ev.core).fend = true ∧ t.mem = s.mem ∧ ((s.core s.ev.core).armedSlots ≠ [] →
        (t.core s.ev.core).mcnt = min 65535 ((s.core s.ev.core).mcnt + (s.core s.ev.core).armedSlots.length))))

/-- A pre-empt message to a pre-empted core is ignored, one to a core of which, or of whose gangs' cores, one is in an
exchange phase or enters one is held, another begins the drain of all of them; a drained core delivers its threads' pending vector faults,
saves its queues and puts its mailbox at the head of its spill queue; the resume message restores the queues, puts the
threads back into their slots and redelivers (R241, R272, R283 to R285, R305). -/
def Obligations.PreemptResult : Prop :=
  (∀ (s : State), s.ev.n ≠ 1 → (s.core s.ev.core).preempted = true → exec .preemptMessage s = .next s) ∧
  (∀ (s : State), s.ev.n ≠ 1 → (s.core s.ev.core).preempted = false → s.preemptSet s.ev.core = none →
    exec .preemptMessage s = .next (s.modCore s.ev.core (fun c => { c with preemptHeld := true }))) ∧
  (∀ (s : State) (all : List Nat), s.ev.n ≠ 1 → (s.core s.ev.core).preempted = false →
    s.preemptSet s.ev.core = some all → exec .preemptMessage s =
      .next (all.foldl (fun u c => if (u.core c).preempted then u else u.preemptBegin c) s) ∧
      s.ev.core ∈ all ∧ ∀ c ∈ all, (s.core c).inph = false ∧ ∀ k < 4, (s.thread (4 * c + k)).entering = false) ∧
  (∀ (s : State) (c : Nat), ((s.preemptBegin c).core c).preempted = true ∧
    ((s.preemptBegin c).core c).preemptHeld = false ∧ (s.clk + 1, Instr.preemptMessage, ({ core := c, n := 1 } : Ev)) ∈ (s.preemptBegin c).agenda) ∧
  (∀ (s : State), s.ev.n = 1 → (s.core s.ev.core).preempted = true → (s.core s.ev.core).saved = false →
    (∀ k < 4, s.quiet (4 * s.ev.core + k) = true) → Completes .preemptMessage s (fun t =>
      (t.core s.ev.core).saved = true ∧ (t.core s.ev.core).mailbox = [] ∧ (t.core s.ev.core).port = [] ∧
      (t.core s.ev.core).spillq = (s.core s.ev.core).mailbox.map (fun x => (x.1, x.2, 0)) ++ (s.core s.ev.core).port ++
        (s.core s.ev.core).spillq ∧
      (t.core s.ev.core).q4 = [] ∧ (∀ k < 4, (t.thread (4 * s.ev.core + k)).q0 = []))) ∧
  (∀ (s : State) (tid : Nat) (f : Flt) (pc : Word), (s.thread tid).occ = true → (s.thread tid).stopped = false →
    (s.thread tid).level ≠ .F → hact (s.thread tid) = false → s.speculative (s.thread tid) = false →
    (s.thread tid).pendVec = some (f, pc) → s.preemptFault tid = s.deliverPending tid .vec f) ∧
  (∀ (s : State), (s.core s.ev.core).preempted = false → exec .resumeMessage s =
    .next (s.modCore s.ev.core (fun c => { c with preemptHeld := false }))) ∧
  (∀ (s : State), (s.core s.ev.core).preempted = true → (s.core s.ev.core).saved = true →
    Completes .resumeMessage s (fun t => (t.core s.ev.core).preempted = false ∧
      (t.core s.ev.core).spillq = (s.core s.ev.core).spillq ∧
      t.agenda.head? = some (s.clk, Instr.mailboxPortDrain, ({ core := s.ev.core } : Ev)))) ∧
  (∀ (s : State), (s.core s.ev.core).preempted = true → (s.core s.ev.core).saved = true → exec .resumeMessage s = .next (
    let c := s.ev.core
    let w (k : Nat) : Nat := ((s.contextQueue c 0 3).getD k 0).toNat
    let q4 (j : Nat) := s.contextQueue c (0x40 + 64 * j) (bitsN (w 0) (4 * j + 3) (4 * j))
    let q0 (b : Nat) := s.contextQueue c (0x140 + 128 * b) (bitsN (w (1 + b / 8)) (8 * (b % 8) + 7) (8 * (b % 8)))
    let fault (k : Nat) : Option Flt :=
      if (w 0).testBit (16 + k) then some ⟨cMAU, (s.contextQueue c (0x18 + 8 * k) 1).headD 0⟩ else none
    let back := (List.range 4).foldl (fun u k => (u.modThread (4 * c + k) (fun t => { t with
      q0 := q0 (4 * k), q1 := q0 (4 * k + 1), q2 := q0 (4 * k + 2), q3 := q0 (4 * k + 3),
      pendMau := fault k <|> t.pendMau })).replace (4 * c + k)) s
    (back.modCore c (fun x => { x with
      q4 := q4 0, q5 := q4 1, q6 := q4 2, q7 := q4 3, preempted := false, saved := false })).reseat.postNow
      .mailboxPortDrain { core := c })) ∧
  (∀ (s : State) (tid : Nat), s.snaps = [] → (s.thread tid).st = 6 → (s.thread tid).vx = false →
    (let t := s.thread tid
     let words := (List.range 8).map (fun k => t.record + BitVec.ofNat 64 (8 * k))
     let u := words.foldl (fun u a => u.frameTouch t.part (tid / 4) a) s
     let rd (k : Nat) : Nat := (u.frameRead t.part (tid / 4) (t.record + BitVec.ofNat 64 k)).toNat
     (∀ a ∈ words, s.framePoison t.part (tid / 4) a = none) →
     (∃ p, u.framePlace t.part (tid / 4) .store (t.record + 0x28) = .ok p) →
     (let r := (s.replace tid).thread tid
      r.st = 2 ∧ r.pc = sextW (rd 0) 48 &&& ~~~1#64 ∧ r.level = (if (rd 0x28).testBit 56 then Level.S else .U) ∧
      r.loopst = loopOf (rd 0) (rd 0x28) (rd 0x30) ∧ r.queue = bitsN (rd 0x28) 60 57 ∧
      r.vctl = BitVec.ofNat 64 (bitsN (rd 0x28) 55 49 + bitsN (rd 0x28) 48 46 * 256) ∧
      r.wait = none ∧ r.ce = [])))

/-- A write of ENDL that names a launch ends it, one that names none does nothing; ENDL reads zero again when the end is
done. A digest request is stored; the digests of a held release go to the capture, and it proceeds (R409, R424). -/
def Obligations.EndResult : Prop :=
  (∀ (s : State), s.ev.n = 0 → (s.part s.ev.part).launches.find? (fun l => launchAddr l.addr == s.ev.v) = none →
    exec .endlWrite s = .next s) ∧
  (∀ (s : State) (l : Launch), s.ev.n = 0 → s.ev.v ≠ 0 → (s.part s.ev.part).endl = 0 →
    (s.part s.ev.part).launches.find? (fun l => launchAddr l.addr == s.ev.v) = some l →
    Completes .endlWrite s (fun t => (t.part s.ev.part).endl = s.ev.v ∧
      (s.clk + 1, Instr.endlWrite, ({ part := s.ev.part, v := l.addr, n := 1 } : Ev)) ∈ t.agenda)) ∧
  (∀ (s : State), s.ev.n ≠ 0 → (∀ k ∈ s.launchSlots s.ev.part s.ev.v,
      s.quiet k = true ∧ s.phaseHeld (k / 4) = false) →
    Completes .endlWrite s (fun t => (t.part s.ev.part).endl = 0 ∧
      (s.clk, Instr.launchComplete, ({ part := s.ev.part, v := s.ev.v } : Ev)) ∈ t.agenda)) ∧
  (∀ (s : State), s.ev.n < 16 → exec .digestRequestWrite s = .next (s.modPart s.ev.part (fun q =>
    { q with digest := smSet 0 q.digest s.ev.n s.ev.v }))) ∧
  (∀ (s : State), Completes .digestComplete s (fun t => t.mem = s.mem ∧
    t.host.captured = s.host.captured ++ (s.digestsOn s.ev.ch).map (fun x =>
      (x.1, [4, BitVec.ofNat 64 x.2, BitVec.ofNat 64 (b2n (s.channel s.ev.ch).phase)] ++
        natWords 8 (Config.sha512 (s.digestBytes x.1 x.2)).toNat)) ∧
    (s.clk + 24, Instr.barrierRelease, ({ ch := s.ev.ch, n := s.ev.n } : Ev)) ∈ t.agenda))

/-- A host request joins its channel; the head of an idle channel is performed, or answered with its cause and address;
what is over is completed in order; one that meets a poisoned word posts an event. Attestation signs a report with the nonce; the capture stream drains the rings
(R411 to R417, R419, R420, R422). -/
def Obligations.HostResult : Prop :=
  (∀ (s : State) (r : HostReq), s.ev.n = 0 → s.ev.req = some r → smGet [] s.host.queues (r.chan % 4) ≠ [] →
    ∀ x ∈ [(Instr.hostWrite, 0), (.hostRead, 1), (.hostLaunch, 2), (.hostSpawn, 3), (.hostMsg, 4), (.hostFence, 5)],
    exec x.1 s = .next (s.setQueue (r.chan % 4) (smGet [] s.host.queues (r.chan % 4) ++
      [(x.2, { r with chan := r.chan % 4 })]))) ∧
  (∀ (s u : State) (r q : HostReq) (ws : List Word) (core target : Nat), s.ev.n = 0 → s.ev.req = some r →
    smGet [] s.host.queues (r.chan % 4) = [] → s.ready5 = true → (s.part r.part).launches.length < 256 →
    bitsN (s.part r.part).trctl.toNat 2 0 = 0 → q = { r with chan := r.chan % 4 } →
    ∀ x ∈ [(Instr.hostWrite, 0), (.hostRead, 1), (.hostLaunch, 2), (.hostSpawn, 3), (.hostMsg, 4), (.hostFence, 5)],
    (s.setQueue q.chan [(x.2, q)]).hostPerform x.2 q = .ok (ws, core, target, u) →
    exec x.1 s = .next (
      let d : HostDone := { chan := q.chan, part := q.part, kind := x.2, status := 0, info := 0, data := ws }
      (u.setBusy q.chan (some (d, core, target))).post 0 x.1 { ch := q.chan, n := 1 })) ∧
  (∀ (s : State) (r q : HostReq) (f : HostFault), s.ev.n = 0 → s.ev.req = some r →
    smGet [] s.host.queues (r.chan % 4) = [] → s.ready5 = true → (s.part r.part).launches.length < 256 →
    bitsN (s.part r.part).trctl.toNat 2 0 = 0 → q = { r with chan := r.chan % 4 } →
    ∀ x ∈ [(Instr.hostWrite, 0), (.hostRead, 1), (.hostLaunch, 2), (.hostSpawn, 3), (.hostMsg, 4), (.hostFence, 5)],
    (s.setQueue q.chan [(x.2, q)]).hostPerform x.2 q = .error f →
    exec x.1 s = .next (
      let d : HostDone := { chan := q.chan, part := q.part, kind := x.2, status := f.1, info := f.2, data := [] }
      let w := s.setQueue q.chan [(x.2, q)]
      ((if f.1 = cMCHECK then w.event q.part 2 cMCHECK f.2 (w.poisonAt q.part f.2) else w).setBusy q.chan
        (some (d, 0, 0))).post 0 x.1 { ch := q.chan, n := 1 })) ∧
  (∀ (s : State) (d : HostDone) (core target : Nat) (y : Nat × HostReq), s.ev.n ≠ 0 →
    smGet none s.host.busy s.ev.ch = some (d, core, target) → s.hostOver s.ev.ch core target = true →
    smGet [] s.host.queues s.ev.ch = [y] →
    ∀ i ∈ [Instr.hostWrite, .hostRead, .hostLaunch, .hostSpawn, .hostMsg, .hostFence],
    exec i s = .next (((s.setBusy s.ev.ch none).answerHost d).setQueue s.ev.ch [])) ∧
  (∀ (s : State) (r : HostReq), s.ev.req = some r → s.devstat.toNat.testBit 0 = true →
    Completes .hostAttestation s (fun t => t.mem = s.mem ∧ ∃ body : List Byte,
      t.host.attest = s.host.attest ++ [(r.part, body ++ bytes512 (Config.sign body))] ∧
      (body.drop 8).take 32 = bytesOf ((List.range 4).map (fun k => r.data.getD k 0)))) ∧
  (∀ (s : State), bitsN (s.part s.ev.part).trctl.toNat 2 0 ≠ 0 → s.ev.n = 0 → Completes .captureStream s (fun t =>
    t.host.captured = s.host.captured ++ (s.ringEntries s.ev.part false).map (fun e => (s.ev.part, 1 :: e)) ++
      (s.ringEntries s.ev.part true).map (fun e => (s.ev.part, 2 :: e)) ∧
    (t.part s.ev.part).raceGone = (s.part s.ev.part).racen ∧ (t.part s.ev.part).fabGone = (s.part s.ev.part).fabn ∧
    t.mem = s.mem)) ∧
  (∀ (s : State), exec .eventQueueRegistration s =
    .next (s.modPart s.ev.part (fun q => { q with evq := some (s.ev.v, s.ev.n, 0) })))

/-- Creation gives a partition its allotments; suspension pre-empts its cores at once and, when they are drained, discards its
rules and ready queues; restoration reloads the rules; its end leaves it inactive; a cluster handed over is zero
(R406 to R408). -/
def Obligations.PartitionResult : Prop :=
  (∀ (s : State) (a : Allot), s.ev.allot = some a → exec .partitionCreate s = .next (s.modPart s.ev.part (fun q =>
    { q with active := true, wbmask := a.wbmask, pbmask := a.pbmask, rlmask := a.rlmask, stmask := a.stmask % 2 ^ 256,
             faba := a.faba, pamin := a.pamin, pamax := a.pamax, clmask := a.clmask % 2 ^ 128 }))) ∧
  (∀ (s : State), s.ev.n = 0 → ∀ i ∈ [Instr.partitionSuspend, .partitionEnd], Completes i s (fun t =>
    (t.part s.ev.part).suspended = true ∧ t.mem = s.mem ∧
    (∀ k ∈ s.slotsOf s.ev.part (fun _ => true), (s.clk, Instr.preemptMessage, ({ core := k / 4 } : Ev)) ∈ t.agenda) ∧
    (s.clk + 1, i, ({ part := s.ev.part, n := 1 } : Ev)) ∈ t.agenda)) ∧
  (∀ (s : State) (cores : List Nat), s.ev.n ≠ 0 →
    cores = ((s.slotsOf s.ev.part (fun _ => true)).map (fun t => t / 4)).eraseDups → s.drained s.ev.part cores = true →
    s.enginesDone s.ev.part (s.idleCores s.ev.part cores) = true →
    Completes .partitionSuspend s (fun t => ((∀ k ∈ s.slotsOf s.ev.part (fun _ => true), (s.thread k).st = 6 →
        (s.thread k).late = 0) → t.mem = s.mem) ∧ t.rules = s.rules.filter (fun r => r.part != s.ev.part) ∧
      (∀ x ∈ t.clusters, ∀ y ∈ x.2.ready, y.1 / 16 ≠ s.ev.part)) ∧
    Completes .partitionEnd s (fun t => (t.part s.ev.part).active = false ∧ (t.part s.ev.part).launches = [] ∧
      (t.part s.ev.part).conts = [] ∧ (t.part s.ev.part).clmask = 0 ∧ (t.part s.ev.part).wbmask = 0)) ∧
  (∀ (s : State), (s.part s.ev.part).dvbase ≠ 0 → Completes .partitionRestore s (fun t =>
    (t.part s.ev.part).suspended = false ∧
    (∀ r ∈ t.rules, r.part = s.ev.part → s.tableRule s.ev.part r.h = some r) ∧
    (∀ h r, h < 4096 → s.tableRule s.ev.part h = some r → r ∈ t.rules ∧ ∀ l ∈ linesIn r.segs, l ∉ t.current))) ∧
  (∀ (s : State), s.ev.n = 0 → (∀ k < 8, (s.core (8 * s.ev.cl + k)).mailbox = [] ∧
      (s.core (8 * s.ev.cl + k)).port = [] ∧ (s.core (8 * s.ev.cl + k)).spillq = []) →
    (s.cluster s.ev.cl).copyq = [] → s.inFlightTo (s.cluster s.ev.cl).part s.ev.cl = false →
    Completes .clusterHandover s (fun t => t.mem = s.mem ∧
      (s.clk + 1, Instr.clusterHandover, ({ s.ev with n := 1 } : Ev)) ∈ t.agenda ∧
      (∀ k < 8, (s.clk, Instr.preemptMessage, ({ core := 8 * s.ev.cl + k } : Ev)) ∈ t.agenda))) ∧
  (∀ (s : State), s.ev.n ≠ 0 → (∀ k < 8, (s.core (8 * s.ev.cl + k)).mailbox = [] ∧
      (s.core (8 * s.ev.cl + k)).port = [] ∧ (s.core (8 * s.ev.cl + k)).spillq = []) →
    s.drained (s.cluster s.ev.cl).part ((List.range 8).map (fun k => 8 * s.ev.cl + k)) = true →
    s.inFlightTo (s.cluster s.ev.cl).part s.ev.cl = false → exec .clusterHandover s = .next ((((s.slotsOf
      (s.cluster s.ev.cl).part (fun c => c / 8 == s.ev.cl)).foldl (fun u t => u.pullThread t) s).zeroCluster s.ev.cl
        s.ev.part).reseat)) ∧
  (∀ (s : State) (cl q : Nat), (let t := s.zeroCluster cl q
    (t.cluster cl).part = q ∧ (t.cluster cl).spad = [] ∧ (t.cluster cl).full = [] ∧ (t.cluster cl).feWait = [] ∧
    (∀ k < 8, (t.core (8 * cl + k)).part = q ∧ (t.core (8 * cl + k)).tcm = [] ∧
      (t.core (8 * cl + k)).preempted = false)))

/-- s0 reads zero and discards; s1 to s55 read what was written; q0 and q1 cannot be read and q2 and q3 cannot be written
by a scalar instruction; a port is popped oldest first, from the clk after the push on, and holds 16 or 8 entries; an empty or full one
makes the thread wait; a last-use mark frees a register after the read; test mode has s0 to s15 only (R11, R24, R25, R61,
R67, R227). -/
def Obligations.OperandRules : Prop :=
  (∀ (s : State) (r : Reg) (v : Word), s.myCore.test = false →
    (r = 0 → readS r s = .ok 0 s ∧ writeS r v s = .ok () s) ∧
    (0 < r.toNat → r.toNat < 56 → readS r s = .ok (s.th.getS r.toNat) s ∧
      writeS r v s = .ok () (s.modTh (fun t => t.setS r.toNat v)) ∧
      (s.modTh (fun t => t.setS r.toNat v)).th.getS r.toNat = v ∧
      killS r true s = .ok () (s.modTh (fun t => { t with sregs := smSet .dead t.sregs r.toNat .dead })) ∧
      (s.modTh (fun t => { t with sregs := smSet .dead t.sregs r.toNat .dead })).th.getS r.toNat = 0)) ∧
  (∀ (s : State) (r : Reg) (v : Word), s.myCore.test = false →
    (r.toNat = 56 ∨ r.toNat = 57 → readS r s = .error (.trap ⟨0x01, s.baseInfo⟩) s) ∧
    (r.toNat = 58 ∨ r.toNat = 59 → writeS r v s = .error (.trap ⟨0x01, s.baseInfo⟩) s)) ∧
  (∀ (s : State) (r : Reg) (v : Word), s.myCore.test = true → 16 ≤ r.toNat →
    readS r s = .error (.trap ⟨0x01, s.baseInfo⟩) s ∧ writeS r v s = .error (.trap ⟨0x01, s.baseInfo⟩) s) ∧
  (∀ (s : State) (x : Word) (xs : List Word), s.myCore.test = false → s.th.pendVec = none →
    (s.th.q2 = x :: xs → s.pushedNow 58 xs = false → readS 58 s = .ok x (s.modTh (fun t => { t with q2 := xs }))) ∧
    (s.th.q2 = x :: xs → s.pushedNow 58 xs = true → readS 58 s = .error (.block (.port 58)) s) ∧
    (s.th.q2 = [] → readS 58 s = .error (.block (.port 58)) s) ∧
    (s.myCore.q4 = x :: xs → readS 60 s = .ok x (s.modMyCore (fun c => { c with q4 := xs }))) ∧
    (s.myCore.q7 = [] → readS 63 s = .error (.block (.port 63)) s)) ∧
  (∀ (s : State) (v : Word), s.myCore.test = false →
    (s.th.q0.length < 16 → writeS 56 v s = .ok () (s.modTh (fun t => { t with q0 := t.q0 ++ [v] }))) ∧
    (s.th.q1.length = 16 → writeS 57 v s = .error (.block (.port 57)) s) ∧
    (s.myCore.q4.length < 8 → writeS 60 v s = .ok () (s.modMyCore (fun c => { c with q4 := c.q4 ++ [v] }))) ∧
    (s.myCore.q7.length = 8 → writeS 63 v s = .error (.block (.port 63)) s)) ∧
  (∀ (s : State) (r : Reg) (v : Word), s.myCore.test = false → readF r s = .ok (s.th.getF r.toNat) s ∧
    writeF r v s = .ok () (s.modTh (fun t => t.setF r.toNat v)) ∧
    (s.modTh (fun t => t.setF r.toNat v)).th.getF r.toNat = v)

/-- Frame of the integer, float, complex, conversion, packed and generator instructions: registers as in `RegFrame`; no
byte, no other special register, no other part of the machine changes, but the pause of a long body's back-edge; a float
one raises its flags, and only those (R25, R67, R93, R94, R165). -/
def Obligations.RegisterFrame : Prop :=
  (∀ (s s1 s2 t : State) (i : Instr) (m : Sem Word) (d : Reg) (v : Word),
    intValue s i = some (m, d) → s.fits false → m s = .ok v s1 → writeS d v s1 = .ok () s2 → exec i s = .next t →
    RegFrame i s t ∧ (t.thread s.cur).rest = s.th.rest ∧ (t.thread s.cur).fregs = s.th.fregs ∧
    (t.core s.cid).rest = s.myCore.rest ∧ t = { s with threads := t.threads, cores := t.cores, agenda := t.agenda }) ∧
  (∀ (s s1 s2 t : State) (i : Instr) (m : Sem (Word × Flags)) (toF : Bool) (d : Reg) (v : Word) (fl : Flags),
    floatForm i = some (m, toF, d) → s.fits false → m s = .ok (v, fl) s1 →
    (if toF then writeF else writeS) d v (s1.raiseFlags s1.cur fl) = .ok () s2 → exec i s = .next t →
    RegFrame i s t ∧ (t.thread s.cur).rest = { s.th.rest with fctl := s.th.fctl ||| fl.zeroExtend 64 } ∧
    (t.core s.cid).rest = s.myCore.rest ∧ (∀ c, c ≠ s.kid → t.cluster c = s.cluster c) ∧
    (fl = 0 → t.cluster s.kid = s.myCluster) ∧ (fl ≠ 0 → t.cluster s.kid = s.myCluster.stick s.clk fl) ∧
    (s.myCluster.stick s.clk fl).sticky = s.myCluster.sticky ||| fl ∧
    t = { s with threads := t.threads, cores := t.cores, clusters := t.clusters, agenda := t.agenda })

/-- Frame of a load: registers as in `RegFrame`; of all bytes only those of overflow lines that the L1 fetches or writes
back; no flag, no other special register; what the caches hold follows (R25, R70, R94, R101, R375). -/
def Obligations.LoadFrame : Prop :=
  ∀ (s s1 s2 s3 s4 t : State) (i : Instr) (o : Mem) (n v : Nat) (ext : Nat → Word) (f : Bool) (ea : Word) (p : Place),
    loadForm i = some (o, n, ext, f) → s.fits false → (f = true → s.myCore.test = false) →
    o.loadEa s = .ok ea s1 → check (.load n) ea s1 = .ok p s2 → loadPlace p ea n s2 = .ok v s3 →
    (if f then writeF else writeS) o.d (ext v) s3 = .ok () s4 → exec i s = .next t →
    RegFrame i s t ∧
    (t.thread s.cur).rest = { s.th.rest with meshVal := (t.thread s.cur).meshVal, sig := (t.thread s.cur).sig } ∧
    (t.core s.cid).apart = s.myCore.apart ∧ s.chipSame t ∧
    (match p with
      | .tcm off => s.tcmSame t off 0
      | _ => (t.core s.cid).tcm = s.myCore.tcm) ∧
    (∀ c, c ≠ s.kid → t.cluster c = s.cluster c) ∧ t.cluster s.kid = { s.myCluster with tlb := (t.cluster s.kid).tlb } ∧
    t = { s with threads := t.threads, cores := t.cores, clusters := t.clusters, mem := t.mem, behind := t.behind,
                 slices := t.slices, current := t.current, poison := t.poison, agenda := t.agenda }

/-- Frame of a store, at the place that the checks give for its address: the bytes there, and of others only those of
overflow lines that the L1 fetches or writes back. What is stored is what a load then reads: in TCM and in the own
scratchpad at once, in chip memory from the thread's own buffered bytes (R101, R104). -/
def Obligations.StoreFrame : Prop :=
  ∀ (s s1 s2 s3 t : State) (i : Instr) (m : Sem (Word × Word)) (n : Nat) (v ea : Word) (p : Place),
    storeForm i = some (m, n) → s.fits false → m s = .ok (v, ea) s1 → check (.store n) ea s1 = .ok p s2 →
    storePlace p n v.toNat s2 = .ok () s3 → (∀ a b, p ≠ .ctl a b ∧ p ≠ .block a b) → exec i s = .next t →
    RegFrame i s t ∧
    (t.thread s.cur).rest =
      { s.th.rest with entries := (t.thread s.cur).entries, meshOut := (t.thread s.cur).meshOut,
                       stored := (t.thread s.cur).stored } ∧
    (s.th.vuq = [] → s.th.capture.cmds = [] → (t.thread s.cur).stored = s.th.stored) ∧
    (t.core s.cid).apart = s.myCore.apart ∧ s.chipSame t ∧ (∀ c, c ≠ s.kid → t.cluster c = s.cluster c) ∧
    t.cluster s.kid = { s.myCluster with spad := (t.cluster s.kid).spad, tlb := (t.cluster s.kid).tlb } ∧
    (match p with
      | .tcm off => s.tcmSame t off n ∧ readB (t.core s.cid).tcm off n = v.toNat % 256 ^ n
      | _ => (t.core s.cid).tcm = s.myCore.tcm) ∧
    (match p with
      | .spad cl off => if cl = s.kid then
          (t.cluster cl).read off n = v.toNat % 256 ^ n ∧
          ∀ k, (∀ j < n, k ≠ s.myCluster.key (off + j)) → smGet 0 (t.cluster cl).spad k = smGet 0 s.myCluster.spad k
        else (t.cluster s.kid).spad = s.myCluster.spad ∧ (t.thread s.cur).meshOut = s.th.meshOut + 1
      | .bank k => ∀ x, ¬(k ≤ x ∧ x < k + n) → smGet 0 (t.cluster s.kid).spad x = smGet 0 s.myCluster.spad x
      | _ => (t.cluster s.kid).spad = s.myCluster.spad) ∧
    (match p with
      | .chip pa => ∀ x < 256 ^ n, seeOwn (t.thread s.cur).entries pa n x = v.toNat % 256 ^ n
      | _ => (t.thread s.cur).entries = s.th.entries) ∧
    t = { s with threads := t.threads, cores := t.cores, clusters := t.clusters, mem := t.mem, behind := t.behind,
                 slices := t.slices, current := t.current, poison := t.poison, agenda := t.agenda }

/-- A load or a store whose address is not a multiple of its size raises MISALIGN, one of no region PROT, each with the
address in EINFO and with nothing else done; a load from TCM or from the own scratchpad reads the bytes there, low byte
first (R3, R103, R104, R114). -/
def Obligations.AccessChecks : Prop :=
  (∀ (s s1 : State) (i : Instr) (o : Mem) (n : Nat) (ext : Nat → Word) (f : Bool) (ea : Word),
    loadForm i = some (o, n, ext, f) → s.fits false → (f = true → s.myCore.test = false) → o.loadEa s = .ok ea s1 →
    (ea.toNat % n ≠ 0 → exec i s = .next (s.raise s.cur ⟨0x04, ea⟩)) ∧
    (ea.toNat % n = 0 → regionOf ea = .bad → exec i s = .next (s.raise s.cur ⟨0x08, ea⟩))) ∧
  (∀ (s s1 : State) (i : Instr) (m : Sem (Word × Word)) (n : Nat) (v ea : Word),
    storeForm i = some (m, n) → s.fits false → m s = .ok (v, ea) s1 →
    (ea.toNat % n ≠ 0 → exec i s = .next (s.raise s.cur ⟨0x04, ea⟩)) ∧
    (ea.toNat % n = 0 → regionOf ea = .bad → exec i s = .next (s.raise s.cur ⟨0x08, ea⟩))) ∧
  (∀ (s : State) (ea : Word) (n off : Nat), n ∈ [1, 2, 4, 8] → ea.toNat % n = 0 →
    (regionOf ea = .tcm off → off < s.myCore.tcmMax * 0x10000 → off < s.myCore.tcmUnits * 0x10000 →
      s.myCore.test = false → s.myCore.moving = none → s.tcmPoison s.cid off n = none →
      loadN ea n s = .ok (readB s.myCore.tcm off n) s) ∧
    (regionOf ea = .own off → s.myCore.bankdir.toNat.testBit 31 = false → s.spadPoison s.kid off n = none →
      loadN ea n s = .ok (s.myCluster.read off n) s))

/-- The machine after reset: no memory byte is listed, no thread runs, and the special registers hold the reset values of
their maps (R95, R165, R225, R276, R402, R425, R427, R431). -/
def Obligations.ResetValues : Prop :=
  Memory.wf State.reset.mem ∧ State.reset.memWf = true ∧ State.reset.pcEven = true ∧ State.reset.mem = [] ∧
  State.reset.threads = [] ∧ State.reset.clk = 0 ∧
  (∀ t, let u : State := { State.reset with cur := t }
    u.th.occ = false ∧ u.th.vctl = 64 ∧ u.sysRead 0x010 = 0 ∧ u.sysRead 0x014 = 0 ∧ u.sysRead 0x101 = 0 ∧
    u.sysRead 0x10A = 0 ∧ u.sysRead 0x004 = 0 ∧ u.sysRead 0x008 = 0 ∧ u.sysRead 0x00A = 0 ∧
    u.sysRead 0x105 = 1 ∧ u.sysRead 0x106 = 0 ∧ u.sysRead 0x107 = 0 ∧ u.sysRead 0x108 = 0 ∧
    u.sysRead 0x020 = 0x0E0206 ∧ u.sysRead 0x206 = 0x81900190 ∧ u.sysRead 0x207 = 0x1000 ∧ u.sysRead 0x208 = 0 ∧
    u.sysRead 0x001 = BitVec.ofNat 64 (t % 4) ∧ (∀ r : Reg, u.th.getS r.toNat = 0 ∧ u.th.getF r.toNat = 0))

/-- Every step keeps chip memory in its canonical form, and every TCM and scratchpad with it, from every state. -/
def Obligations.StepKeepsMemory : Prop :=
  (∀ (s t : State), Memory.wf s.mem → step s = .next t → Memory.wf t.mem) ∧
  (∀ (s t : State), s.memWf = true → step s = .next t → t.memWf = true)

/-- Decoding the parcels that `encode` writes for a well-formed instruction of Acpe gives the instruction back. -/
def Obligations.RoundTrip : Prop :=
  ∀ (i : Instr) (p : Parts), partsOf i = some p → wellFormed i = true → decodeParcels (encode i) = some (.ok i)

/-- A step runs what is due first; else it runs, as `exec` does, the instruction that the parcels at the pc of the first
candidate thread decode to, and the issue order moves on; parcels that decode to none, or that cannot be fetched, raise
their cause; a register that waits for a response holds the instruction, a framed register is filled first (R35, R55, R56,
R59, R63, R111, R348). -/
def Obligations.StepRuns : Prop :=
  (∀ (s : State) (due : Nat) (i : Instr) (e : Ev) (rest : List (Nat × Instr × Ev)),
    s.agenda = (due, i, e) :: rest → due ≤ s.clk → step s = exec i { s with agenda := rest, ev := e }) ∧
  (∀ (s : State) (k tid : Nat), (∀ x ∈ s.agenda.head?, s.clk < x.1) →
    s.nextThread s.turn = some (k, tid) → (s.thread tid).segNew = false → (s.thread tid).held = none →
    (let v := { s with turn := k + 1 }
     (∀ c u i, v.fetch tid 5 Chain.empty (s.thread tid).pc = .ok (c, u) → decodeChain c = .ok i →
       (let t := u.thread tid
        let w := t.uses i t.pc (pcAfter t.pc c.n)
        let d := u.displaced tid w
        (u.poisonedUse tid (usesOf i) = none → t.firstOwed w = none → t.firstFramed w = none →
          u.spillWait (tid / 4) (d.1 ++ d.2) = none → u.displacedShort tid w = false →
          step s = finish k tid w d (hact t) (exec i (u.ready tid c))) ∧
        (∀ n isF, u.poisonedUse tid (usesOf i) = some (n, isF) → n < 56 ∨ 60 ≤ n →
          step s = .next (u.raise tid ⟨0x18, entryInfo tid n isF⟩)) ∧
        (u.poisonedUse tid (usesOf i) = none →
          (∀ n, t.firstOwed w = some n → step s = .next ({ u with cur := tid }.park (.owed n))) ∧
          (∀ n isF, t.firstOwed w = none → t.firstFramed w = some (n, isF) → step s = exec .registerFill
            { u with ev := { tid := tid, n := n, ok := isF, nums := w.codes (tid % 4) } }) ∧
          (t.firstOwed w = none → t.firstFramed w = none → u.spillWait (tid / 4) (d.1 ++ d.2) = none →
            u.displacedShort tid w = true → step s = .next ({ u with cur := tid }.park .room))))) ∧
     (∀ c u e, v.fetch tid 5 Chain.empty (s.thread tid).pc = .ok (c, u) → decodeChain c = .error e →
       step s = .next (u.raise tid ⟨e.cause, DecErr.info e⟩)) ∧
     (∀ e, v.fetch tid 5 Chain.empty (s.thread tid).pc = .error (.inl e) →
       step s = .next (v.raise tid ⟨e.cause, DecErr.info e⟩)) ∧
     (∀ a, v.fetch tid 5 Chain.empty (s.thread tid).pc = .error (.inr (a, .page)) →
       step s = .next (v.raise tid ⟨0x05, a⟩)))) ∧
  (∀ (t : State) (k tid : Nat) (u : Uses) (d : List Nat × List Nat) (h : Bool),
    (∀ w, (t.thread tid).wait = some w → finish k tid u d h (.next t) = .next { t with turn := k + 1 }) ∧
    ((t.thread tid).wait = none → (let x := (if (t.thread tid).held = none ∧ (t.thread tid).ecause.toNat.testBit 15 = h then t.clearRegs tid u else t)
      let r := x.rename tid u d
      (r.thread tid).wait = none → (r.thread tid).segNew = false → finish k tid u d h (.next t) =
        .next { r.modCore (tid / 4) (fun c => { c with ptr := (tid % 4 + 1) % 4 }) with turn := 4 * (tid / 4 + 1) }))) ∧
  (∀ (s : State), s.agenda = [] → s.nextThread s.turn = none →
    (s.powered = true → step s = .next s.tick) ∧
    (s.powered = false → s.threads = [] → step s = exec .powerUp s))

/-- Words of several families, from the encoding tables of R47 to R53 and the spec's own lines, decode to the instruction
they stand for. -/
def Obligations.DecodeWords : Prop :=
  decoded [0xF405, 0x00C3] = some (.add ⟨12, 3, 5, false, false⟩) ∧
  decoded [0xF405, 0xFA00, 0x00C3] = some (.add ⟨12, 3, 5, true, false⟩) ∧
  decoded [0xF404, 0xF00C, 0x1020] = some (.addi ⟨2, 4, 0xC0, false⟩) ∧
  decoded [0xFC47, 0x0E56] = some (.sext ⟨5, 6, false⟩ 7) ∧
  decoded [0xF3C9, 0x55A8] = some (.bgeu ⟨10, 8, false, false⟩ (-55)) ∧
  decoded [0x4305] = some (.beqz ⟨12, false⟩ 5) ∧
  decoded [0xF040, 0x278C] = some (.ldf ⟨8, 12, 64, false, false⟩) ∧
  decoded [0x331C] = some (.sd ⟨1, 12, 0, false, false⟩) ∧
  decoded [0xF020, 0xE312] = some (.sysr 1 0x202) ∧
  decoded [0xF40A, 0xF820, 0x7989] = some (.fma ⟨8, 9, 10, false, false⟩ 1) ∧
  decoded [0xFC03, 0x8367] = some (.fcvt ⟨6, 7, false⟩ 0 3) ∧
  decoded [0xF100, 0xA04C] = some (.vld ⟨4, 12, 256, 0, false⟩) ∧
  decoded [0xFC40, 0xF40A, 0xB369] = some (.flxch ⟨6, 9, 10, false, false, false⟩) ∧
  decoded [0xFC03, 0xF400, 0xF001, 0xF003, 0xB10C] = some (.mma 0 ⟨12, false⟩ 0 3 (.wired 3)) ∧
  decoded [0xF041, 0xC004] = some (.barr 20) ∧
  decoded [0xDA97] = some (.copyLaunch 9) ∧
  decoded [0xFC40, 0xF40B, 0xC19A] = some (.ticket ⟨9, 10, 11, false, false⟩) ∧
  decoded [0xF407, 0xF004, 0xDDC9] = some (.xsel ⟨12, 9, 7, 4, false, false, false⟩) ∧
  decoded [0xF40D, 0xF813, 0xD59C] = some (.amo ⟨9, 12, 13, 0, false, false, false⟩ ⟨0, false⟩ ⟨4, 3⟩) ∧
  decoded [0xF80A, 0xCA00] = some (.fence ⟨2, 2⟩) ∧
  decoded [0xF40B, 0xF840, 0xF008, 0xD0AC] = some (.rwr ⟨10, 12, 11, 8, false, false, false⟩ 2) ∧
  decoded [0xFC40, 0xB996] = some (.dvstat ⟨9, 6, false⟩)

/-- No state stops the machine: every instruction and every step answers a next state. -/
def Obligations.StepGoesOn : Prop :=
  (∀ (i : Instr) (s : State), ∃ t, exec i s = .next t) ∧ (∀ (s : State), ∃ t, step s = .next t)

/-- Instructions complete: where the registers they name can be read and written, and the mode, the level, the room and
the address are as the rules ask, each of the forms named here has its own effect and goes on (R11, R55, R67, R103, R113,
R161, R185, R226). -/
def Obligations.Completion : Prop :=
  (∀ (s : State) (o : Bin), s.fits false → s.Ready [o.a, o.b] [o.d] →
    ∀ i ∈ [Instr.add o, .sub o, .and o, .or o, .xor o, .sll o, .srl o, .sra o, .slt o, .sltu o, .mul o, .mulh o,
      .mulhu o, .min o, .max o, .minu o, .maxu o, .div o, .divu o, .rem o, .remu o, .bext o, .bdep o], s.Computes i) ∧
  (∀ (s : State) (o : Un) (w : BitVec 6), s.fits false → s.Ready [o.a] [o.d] →
    ∀ i ∈ [Instr.mov o, .clz o, .ctz o, .popc o, .brev o, .sext o w, .zext o w], s.Computes i) ∧
  (∀ (s : State) (o : Imm), s.fits false → s.Ready [o.a] [o.d] →
    ∀ i ∈ [Instr.addi o, .andi o, .ori o, .xori o, .slli o, .srli o, .srai o, .slti o, .sltiu o, .muli o, .mini o,
      .maxi o, .cmpeqi o], s.Computes i) ∧
  (∀ (s : State) (d : Reg) (x : Word), s.fits false → s.Ready [] [d] →
    ∀ i ∈ [Instr.li d x, .addpc d x], s.Computes i) ∧
  (∀ (s : State) (o : Src1) (off : Word), s.fits true → s.Ready [o.a] [] →
    ∀ i ∈ [Instr.beqz o off, .bnez o off, .bltz o off, .bgez o off, .j off], s.Branches i) ∧
  (∀ (s : State) (o : Src2) (off : Word), s.fits true → s.Ready [o.a, o.b] [] →
    ∀ i ∈ [Instr.beq o off, .bne o off, .blt o off, .bge o off, .bltu o off, .bgeu o off], s.Branches i) ∧
  (∀ (s : State) (o : Mem), s.fits false → s.Ready [o.base] [o.d] → ∃ ea s1, o.loadEa s = .ok ea s1 ∧
    ∀ x ∈ [(Instr.lb o, 1, fun v => sextW v 8), (.lbu o, 1, BitVec.ofNat 64), (.lh o, 2, fun v => sextW v 16),
      (.lhu o, 2, BitVec.ofNat 64), (.lw o, 4, fun v => sextW v 32), (.lwu o, 4, BitVec.ofNat 64),
      (.ld o, 8, BitVec.ofNat 64)],
    ∀ off, s.Local ea x.2.1 off → s.tcmPoison s.cid off x.2.1 = none →
      ∃ s2, writeS o.d (x.2.2 (readB s.myCore.tcm off x.2.1)) s1 = .ok () s2 ∧ exec x.1 s = .next s2.done) ∧
  (∀ (s : State) (o : Mem), s.fits false → s.myCore.test = false → s.Ready [o.base] [] → ∃ ea s1, o.loadEa s = .ok ea s1 ∧
    ∀ x ∈ [(Instr.ldf o, 8), (.lwf o, 4)], ∀ off, s.Local ea x.2 off → s.tcmPoison s.cid off x.2 = none →
      exec x.1 s = .next (s1.modTh (fun t => t.setF o.d.toNat (BitVec.ofNat 64 (readB s.myCore.tcm off x.2)))).done) ∧
  (∀ (s : State) (o : Mem), s.fits false → s.speculative s.th = false → s.Ready [o.d, o.base] [] →
    ∃ v ea s1, o.storeEa s = .ok (v, ea) s1 ∧
    ∀ x ∈ [(Instr.sb o, 1), (.sh o, 2), (.sw o, 4), (.sd o, 8)], ∀ off, s.Local ea x.2 off →
      ∃ s2, noteStored (.tcm off) x.2 0xFF s1 = .ok () s2 ∧
        exec x.1 s = .next (s2.tcmWrite s.cid off x.2 v.toNat).done) ∧
  (∀ (s : State) (o : Mem), s.fits false → s.myCore.test = false → s.speculative s.th = false → s.Ready [o.base] [] →
    ∃ v ea s1, o.storeEaF s = .ok (v, ea) s1 ∧
    ∀ x ∈ [(Instr.sdf o, 8), (.swf o, 4)], ∀ off, s.Local ea x.2 off →
      ∃ s2, noteStored (.tcm off) x.2 0xFF s1 = .ok () s2 ∧
        exec x.1 s = .next (s2.tcmWrite s.cid off x.2 v.toNat).done) ∧
  (∀ (s : State) (d : Reg) (num : Word), s.fits false → s.Ready [] [d] →
    (sysReadLevel num.toNat).toNat ≤ s.th.level.toNat →
    ∃ s1, writeS d (s.sysRead num.toNat) s = .ok () s1 ∧ exec (.sysr d num) s = .next s1.done) ∧
  (∀ (s : State) (d : Reg), s.fits false → s.Ready [] [d] → s.th.capture.left = 0 → s.th.vuq = [] →
    s.th.pendVec = none → s.mauBusy s.cur = false →
    ∃ s1, writeS d s.th.fctl s = .ok () s1 ∧ exec (.fctlRead d) s = .next s1.done) ∧
  (∀ (s : State) (o : Src1) (num : Word), s.fits false → s.Ready [o.a] [] → s.speculative s.th = false →
    ∀ x ∈ [(Instr.sysw o num, num.toNat), (.repdatWrite o, 0x204), (.prfdatWrite o, 0x202), (.vctlWrite o, 0x011),
      (.flagorWrite o, 0x104), (.xstatWrite o, 0x018), (.lotseedWrite o, 0x105), (.ecauseWrite o, 0x101),
      (.pinqWrite o, 0x021), (.trctlWrite o, 0x108), (.devidWrite o, 0x004), (.slewWrite o, 0x206),
      (.devstatWrite o, 0x208)], (sysWriteLevel x.2).toNat ≤ s.th.level.toNat → s.Sets x.1) ∧
  (∀ (s : State) (o : Bin) (u : Un) (v : BitVec 2), s.fits false → s.myCore.test = false → s.th.rm < 5 →
    ∀ i ∈ [Instr.fadd o v, .fsub o v, .fmul o v, .fdiv o v, .fmin o v, .fmax o v, .fma o v, .fms o v, .fnma o v, .cmac o,
      .fsqrt u v, .fabs u v, .fneg u v, .conj u, .cswap u, .frnd u v], s.Floats i) ∧
  (∀ (s : State) (o : Un), s.fits false → s.myCore.test = false → s.th.rm < 5 → 
    (s.Ready [] [o.d] → s.Floats (.fmvfs o) ∧ s.Floats (.fcvti o)) ∧
    (s.Ready [o.a] [] → s.Floats (.fmvsf o) ∧ s.Floats (.fcvtf o))) ∧
  (∀ (s : State) (o : Bin) (v : BitVec 2), s.fits false → s.Ready [o.a, o.b] [o.d] →
    ∀ i ∈ [Instr.padd o v, .psub o v, .pmin o v, .pmax o v, .pshuf o], s.Floats i) ∧
  (∀ (s : State) (o : Un) (v : BitVec 2), s.fits false → s.Ready [o.a] [o.d] → s.Floats (.psat o v)) ∧
  (∀ (s : State) (o : Bin), s.fits false → s.Ready [o.a, o.b, o.d] [o.d] → s.Floats (.pdot o)) ∧
  (∀ (s : State) (o : VBin) (u : VUn) (a : VMem) (b : VMemT) (f : BitVec 3) (c : BitVec 2) (k w : Bool),
    s.fits false → s.th.rm < 5 → s.th.vx = true → s.th.stopped = false → s.vuRoom →
    ∀ i ∈ [Instr.vadd o, .vsub o, .vmul o, .vfma o, .vmax o, .vmin o, .vdiv o, .vsel o, .vperm o, .vcmp o c, .vabs u,
      .vsf u f, .vcvt u f, .vred u c, .vscan u c, .vbcst u k, .vmsk u k, .vld a, .vst a, .vlds b, .vldx b, .vsts b,
      .vstx b, .vext o k, .vins o k w],
    s.vecFine i → (∀ rs, vecScalars i = some rs → ∀ r ∈ rs, r.1.toNat < 58) → s.Enters i) ∧
  (∀ (s : State), s.fits false → s.myCore.test = false → s.th.rm < 5 → s.speculative s.th = false →
    s.myCore.mauWaiting.length < 8 → s.th.capture.left = 0 →
    (∀ (t : Reg), s.Queues (.tclr t)) ∧
    (∀ (o : Mem) (k : BitVec 3) (z : Bool), s.Ready [o.base] [] → ∀ i ∈ [Instr.tldb o, .tst o, .axld o k z], s.Queues i) ∧
    (∀ (t b : Reg) (o : Src1) (n : BitVec 6) (g : Desig), s.Ready [o.a] [] →
      ∀ i ∈ [Instr.mma t o b n g, .mmaz t o b n g], s.Queues i) ∧
    (∀ (o : Src2) (r : Reg) (g : Desig), s.Ready [o.a, o.b] [] →
      ∀ i ∈ [Instr.axcopy o, .flswap o, .axapply o.a r o.b o.ua o.ub g], s.Queues i) ∧
    (∀ (o : Src3) (g : Desig), s.Ready [o.a, o.b] [] → ∀ i ∈ [Instr.axphase o g, .axscale o], s.Queues i) ∧
    (∀ (o : Src3) (z : Bool), s.Ready [o.a, o.b, o.c] [] → ∀ i ∈ [Instr.axsum o z, .flxch o], s.Queues i))
end

