-- ==== Sys2Proof/Laws/Maps.lean ====
section
/-! SUPPORT. The laws of the sparse maps and of byte stores: what is read after a write, and that every write
keeps the canonical form. -/

namespace Sys2Proof

variable {α : Type} [DecidableEq α]

/-- A write is read back. -/
@[simp] theorem smGet_smSet_self (z : α) (m : SMap α) (k : Nat) (v : α) : smGet z (smSet z m k v) k = v := by
  induction m with
  | nil => simp only [smSet]; split <;> simp_all [smGet]
  | cons x m ih =>
    obtain ⟨j, w⟩ := x
    simp only [smSet]
    split
    · split
      · exact ih
      · simp [smGet]
    · split
      · simp [smGet]
      · rename_i h _
        simp only [smGet]
        rw [if_neg (fun e => h e.symm)]
        exact ih

/-- A write leaves every other key alone. -/
theorem smGet_smSet_other (z : α) (m : SMap α) (k j : Nat) (v : α) (h : j ≠ k) :
    smGet z (smSet z m k v) j = smGet z m j := by
  induction m with
  | nil =>
    simp only [smSet]
    split
    · rfl
    · simp [smGet, Ne.symm h]
  | cons x m ih =>
    obtain ⟨i, w⟩ := x
    simp only [smSet]
    split
    · rename_i e
      subst e
      have hm : smGet z ((k, w) :: m) j = smGet z m j := by simp [smGet, Ne.symm h]
      split
      · rw [ih, hm]
      · rw [hm]; simp [smGet, Ne.symm h]
    · split
      · simp [smGet, Ne.symm h]
      · simp only [smGet]
        split
        · rfl
        · exact ih

theorem smGet_smSet (z : α) (m : SMap α) (k j : Nat) (v : α) :
    smGet z (smSet z m k v) j = if j = k then v else smGet z m j := by
  split
  · subst j; exact smGet_smSet_self z m k v
  · exact smGet_smSet_other z m k j v ‹_›

theorem smWfFrom_mono (z : α) (m : SMap α) (a b : Nat) (hab : a ≤ b) (h : smWfFrom z b m = true) :
    smWfFrom z a m = true := by
  cases m with
  | nil => rfl
  | cons x m =>
    simp only [smWfFrom, Bool.and_eq_true, decide_eq_true_eq] at h ⊢
    exact ⟨⟨by omega, h.1.2⟩, h.2⟩

/-- A write of what an unlisted key reads as, below every key. -/
theorem smSet_below (z : α) (m : SMap α) (b k : Nat) (hk : k < b) (h : smWfFrom z b m = true) : smSet z m k z = m := by
  induction m generalizing b with
  | nil => simp [smSet]
  | cons x m ih =>
    obtain ⟨j, w⟩ := x
    simp only [smWfFrom, Bool.and_eq_true, decide_eq_true_eq] at h
    simp only [smSet]
    rw [if_neg (by omega), if_neg (by simp), ih (j + 1) (by omega) h.2]

theorem smSet_wfFrom (z : α) (m : SMap α) (b k : Nat) (v : α) (hb : b ≤ k) (h : smWfFrom z b m = true) :
    smWfFrom z b (smSet z m k v) = true := by
  induction m generalizing b with
  | nil =>
    simp only [smSet]
    split
    · rfl
    · simp [smWfFrom, *]
  | cons x m ih =>
    obtain ⟨j, w⟩ := x
    have h0 := h
    simp only [smWfFrom, Bool.and_eq_true, decide_eq_true_eq] at h
    obtain ⟨⟨h1, h2⟩, h3⟩ := h
    simp only [smSet]
    split
    · subst k
      split
      · subst v
        rw [smSet_below z m (j + 1) j (by omega) h3]
        exact smWfFrom_mono z m b (j + 1) (by omega) h3
      · simp only [smWfFrom, Bool.and_eq_true, decide_eq_true_eq]
        exact ⟨⟨hb, by assumption⟩, h3⟩
    · split
      · rename_i hk
        simp only [smWfFrom, Bool.and_eq_true, decide_eq_true_eq]
        exact ⟨⟨hb, hk.2⟩, ⟨⟨by omega, h2⟩, h3⟩⟩
      · rename_i hne hk
        by_cases hkj : k < j
        · have hv : v = z := Decidable.byContradiction (fun hv => hk ⟨hkj, hv⟩)
          subst v
          simp only [smWfFrom, Bool.and_eq_true, decide_eq_true_eq]
          rw [smSet_below z m (j + 1) k (by omega) h3]
          exact ⟨⟨h1, h2⟩, h3⟩
        · simp only [smWfFrom, Bool.and_eq_true, decide_eq_true_eq]
          exact ⟨⟨h1, h2⟩, ih (j + 1) (by omega) h3⟩

/-- A write keeps the canonical form. -/
theorem smSet_wf (z : α) (m : SMap α) (k : Nat) (v : α) (h : smWf z m = true) : smWf z (smSet z m k v) = true :=
  smSet_wfFrom z m 0 k v (Nat.zero_le k) h

namespace Machine

theorem writeB_wf (m : List Host.Cell) (a n v : Nat) (h : smWf (0 : Byte) m = true) :
    smWf (0 : Byte) (writeB m a n v) = true := by
  induction n generalizing m a v with
  | zero => exact h
  | succ n ih => exact ih _ _ _ (smSet_wf 0 m a _ h)

theorem writeCells_wf (m cs : List Host.Cell) (h : smWf (0 : Byte) m = true) :
    smWf (0 : Byte) (writeCells m cs) = true := by
  induction cs generalizing m with
  | nil => exact h
  | cons c cs ih => exact ih _ (smSet_wf 0 m c.1 c.2 h)

/-- A write of `n` bytes leaves every byte outside them alone. -/
theorem smGet_writeB_outside (m : List Host.Cell) (a n v x : Nat) (h : x < a ∨ a + n ≤ x) :
    smGet (0 : Byte) (writeB m a n v) x = smGet 0 m x := by
  induction n generalizing m a v with
  | zero => rfl
  | succ n ih =>
    simp only [writeB]
    rw [ih _ _ _ (by omega), smGet_smSet_other _ _ _ _ _ (by omega)]

theorem readB_congr (m m' : List Host.Cell) (a n : Nat)
    (h : ∀ x, a ≤ x → x < a + n → smGet (0 : Byte) m x = smGet 0 m' x) : readB m a n = readB m' a n := by
  induction n generalizing a with
  | zero => rfl
  | succ n ih =>
    simp only [readB]
    rw [h a (by omega) (by omega), ih (a + 1) (fun x h1 h2 => h x (by omega) (by omega))]

/-- The bytes written are read back, little-endian (R3). -/
theorem readB_writeB (m : List Host.Cell) (a n v : Nat) : readB (writeB m a n v) a n = v % 256 ^ n := by
  induction n generalizing m a v with
  | zero => simp [readB, Nat.mod_one]
  | succ n ih =>
    simp only [readB, writeB]
    rw [smGet_writeB_outside _ _ _ _ _ (by omega), smGet_smSet_self, ih]
    have h : (BitVec.ofNat 8 v).toNat = v % 256 := rfl
    rw [h, Nat.pow_succ', Nat.mod_mul]

theorem readB_writeB_outside (m : List Host.Cell) (a b n k v : Nat) (h : a + n ≤ b ∨ b + k ≤ a) :
    readB (writeB m b k v) a n = readB m a n :=
  readB_congr _ _ _ _ (fun x _ _ => smGet_writeB_outside _ _ _ _ _ (by omega))

end Machine
end Sys2Proof
end

