-- ==== Sys2Proof/Laws/State.lean ====
section
/-! SUPPORT. One lemma per field per update: an update changes its own field only, and the parts it writes are
read back. -/

namespace Sys2Proof.Machine.State

variable (s : State)

/-! ### setThread -/

@[simp] theorem setThread_clk (t : Nat) (x : Thread) : (s.setThread t x).clk = s.clk := rfl
@[simp] theorem setThread_cur (t : Nat) (x : Thread) : (s.setThread t x).cur = s.cur := rfl
@[simp] theorem setThread_pc (t : Nat) (x : Thread) : (s.setThread t x).pc = s.pc := rfl
@[simp] theorem setThread_base (t : Nat) (x : Thread) : (s.setThread t x).base = s.base := rfl
@[simp] theorem setThread_npre (t : Nat) (x : Thread) : (s.setThread t x).npre = s.npre := rfl
@[simp] theorem setThread_hasR (t : Nat) (x : Thread) : (s.setThread t x).hasR = s.hasR := rfl
@[simp] theorem setThread_ev (t : Nat) (x : Thread) : (s.setThread t x).ev = s.ev := rfl
@[simp] theorem setThread_cores (t : Nat) (x : Thread) : (s.setThread t x).cores = s.cores := rfl
@[simp] theorem setThread_clusters (t : Nat) (x : Thread) : (s.setThread t x).clusters = s.clusters := rfl
@[simp] theorem setThread_parts (t : Nat) (x : Thread) : (s.setThread t x).parts = s.parts := rfl
@[simp] theorem setThread_snaps (t : Nat) (x : Thread) : (s.setThread t x).snaps = s.snaps := rfl
@[simp] theorem setThread_channels (t : Nat) (x : Thread) : (s.setThread t x).channels = s.channels := rfl
@[simp] theorem setThread_members (t : Nat) (x : Thread) : (s.setThread t x).members = s.members := rfl
@[simp] theorem setThread_mem (t : Nat) (x : Thread) : (s.setThread t x).mem = s.mem := rfl
@[simp] theorem setThread_poison (t : Nat) (x : Thread) : (s.setThread t x).poison = s.poison := rfl
@[simp] theorem setThread_current (t : Nat) (x : Thread) : (s.setThread t x).current = s.current := rfl
@[simp] theorem setThread_recomputing (t : Nat) (x : Thread) : (s.setThread t x).recomputing = s.recomputing := rfl
@[simp] theorem setThread_recWait (t : Nat) (x : Thread) : (s.setThread t x).recWait = s.recWait := rfl
@[simp] theorem setThread_rules (t : Nat) (x : Thread) : (s.setThread t x).rules = s.rules := rfl
@[simp] theorem setThread_notices (t : Nat) (x : Thread) : (s.setThread t x).notices = s.notices := rfl
@[simp] theorem setThread_slots (t : Nat) (x : Thread) : (s.setThread t x).slots = s.slots := rfl
@[simp] theorem setThread_behind (t : Nat) (x : Thread) : (s.setThread t x).behind = s.behind := rfl
@[simp] theorem setThread_slices (t : Nat) (x : Thread) : (s.setThread t x).slices = s.slices := rfl
@[simp] theorem setThread_orders (t : Nat) (x : Thread) : (s.setThread t x).orders = s.orders := rfl
@[simp] theorem setThread_fabric (t : Nat) (x : Thread) : (s.setThread t x).fabric = s.fabric := rfl
@[simp] theorem setThread_bufs (t : Nat) (x : Thread) : (s.setThread t x).bufs = s.bufs := rfl
@[simp] theorem setThread_spill (t : Nat) (x : Thread) : (s.setThread t x).spill = s.spill := rfl
@[simp] theorem setThread_discards (t : Nat) (x : Thread) : (s.setThread t x).discards = s.discards := rfl
@[simp] theorem setThread_host (t : Nat) (x : Thread) : (s.setThread t x).host = s.host := rfl
@[simp] theorem setThread_devid (t : Nat) (x : Thread) : (s.setThread t x).devid = s.devid := rfl
@[simp] theorem setThread_slew (t : Nat) (x : Thread) : (s.setThread t x).slew = s.slew := rfl
@[simp] theorem setThread_shape (t : Nat) (x : Thread) : (s.setThread t x).shape = s.shape := rfl
@[simp] theorem setThread_devstat (t : Nat) (x : Thread) : (s.setThread t x).devstat = s.devstat := rfl
@[simp] theorem setThread_governor (t : Nat) (x : Thread) : (s.setThread t x).governor = s.governor := rfl
@[simp] theorem setThread_demand (t : Nat) (x : Thread) : (s.setThread t x).demand = s.demand := rfl
@[simp] theorem setThread_powered (t : Nat) (x : Thread) : (s.setThread t x).powered = s.powered := rfl
@[simp] theorem setThread_agenda (t : Nat) (x : Thread) : (s.setThread t x).agenda = s.agenda := rfl
@[simp] theorem setThread_turn (t : Nat) (x : Thread) : (s.setThread t x).turn = s.turn := rfl
@[simp] theorem setThread_seed (t : Nat) (x : Thread) : (s.setThread t x).seed = s.seed := rfl
@[simp] theorem setThread_errors (t : Nat) (x : Thread) : (s.setThread t x).errors = s.errors := rfl

/-! ### modThread -/

@[simp] theorem modThread_clk (t : Nat) (f : Thread → Thread) : (s.modThread t f).clk = s.clk := rfl
@[simp] theorem modThread_cur (t : Nat) (f : Thread → Thread) : (s.modThread t f).cur = s.cur := rfl
@[simp] theorem modThread_pc (t : Nat) (f : Thread → Thread) : (s.modThread t f).pc = s.pc := rfl
@[simp] theorem modThread_base (t : Nat) (f : Thread → Thread) : (s.modThread t f).base = s.base := rfl
@[simp] theorem modThread_npre (t : Nat) (f : Thread → Thread) : (s.modThread t f).npre = s.npre := rfl
@[simp] theorem modThread_hasR (t : Nat) (f : Thread → Thread) : (s.modThread t f).hasR = s.hasR := rfl
@[simp] theorem modThread_ev (t : Nat) (f : Thread → Thread) : (s.modThread t f).ev = s.ev := rfl
@[simp] theorem modThread_cores (t : Nat) (f : Thread → Thread) : (s.modThread t f).cores = s.cores := rfl
@[simp] theorem modThread_clusters (t : Nat) (f : Thread → Thread) : (s.modThread t f).clusters = s.clusters := rfl
@[simp] theorem modThread_parts (t : Nat) (f : Thread → Thread) : (s.modThread t f).parts = s.parts := rfl
@[simp] theorem modThread_snaps (t : Nat) (f : Thread → Thread) : (s.modThread t f).snaps = s.snaps := rfl
@[simp] theorem modThread_channels (t : Nat) (f : Thread → Thread) : (s.modThread t f).channels = s.channels := rfl
@[simp] theorem modThread_members (t : Nat) (f : Thread → Thread) : (s.modThread t f).members = s.members := rfl
@[simp] theorem modThread_mem (t : Nat) (f : Thread → Thread) : (s.modThread t f).mem = s.mem := rfl
@[simp] theorem modThread_poison (t : Nat) (f : Thread → Thread) : (s.modThread t f).poison = s.poison := rfl
@[simp] theorem modThread_current (t : Nat) (f : Thread → Thread) : (s.modThread t f).current = s.current := rfl
@[simp] theorem modThread_recomputing (t : Nat) (f : Thread → Thread) : (s.modThread t f).recomputing = s.recomputing := rfl
@[simp] theorem modThread_recWait (t : Nat) (f : Thread → Thread) : (s.modThread t f).recWait = s.recWait := rfl
@[simp] theorem modThread_rules (t : Nat) (f : Thread → Thread) : (s.modThread t f).rules = s.rules := rfl
@[simp] theorem modThread_notices (t : Nat) (f : Thread → Thread) : (s.modThread t f).notices = s.notices := rfl
@[simp] theorem modThread_slots (t : Nat) (f : Thread → Thread) : (s.modThread t f).slots = s.slots := rfl
@[simp] theorem modThread_behind (t : Nat) (f : Thread → Thread) : (s.modThread t f).behind = s.behind := rfl
@[simp] theorem modThread_slices (t : Nat) (f : Thread → Thread) : (s.modThread t f).slices = s.slices := rfl
@[simp] theorem modThread_orders (t : Nat) (f : Thread → Thread) : (s.modThread t f).orders = s.orders := rfl
@[simp] theorem modThread_fabric (t : Nat) (f : Thread → Thread) : (s.modThread t f).fabric = s.fabric := rfl
@[simp] theorem modThread_bufs (t : Nat) (f : Thread → Thread) : (s.modThread t f).bufs = s.bufs := rfl
@[simp] theorem modThread_spill (t : Nat) (f : Thread → Thread) : (s.modThread t f).spill = s.spill := rfl
@[simp] theorem modThread_discards (t : Nat) (f : Thread → Thread) : (s.modThread t f).discards = s.discards := rfl
@[simp] theorem modThread_host (t : Nat) (f : Thread → Thread) : (s.modThread t f).host = s.host := rfl
@[simp] theorem modThread_devid (t : Nat) (f : Thread → Thread) : (s.modThread t f).devid = s.devid := rfl
@[simp] theorem modThread_slew (t : Nat) (f : Thread → Thread) : (s.modThread t f).slew = s.slew := rfl
@[simp] theorem modThread_shape (t : Nat) (f : Thread → Thread) : (s.modThread t f).shape = s.shape := rfl
@[simp] theorem modThread_devstat (t : Nat) (f : Thread → Thread) : (s.modThread t f).devstat = s.devstat := rfl
@[simp] theorem modThread_governor (t : Nat) (f : Thread → Thread) : (s.modThread t f).governor = s.governor := rfl
@[simp] theorem modThread_demand (t : Nat) (f : Thread → Thread) : (s.modThread t f).demand = s.demand := rfl
@[simp] theorem modThread_powered (t : Nat) (f : Thread → Thread) : (s.modThread t f).powered = s.powered := rfl
@[simp] theorem modThread_agenda (t : Nat) (f : Thread → Thread) : (s.modThread t f).agenda = s.agenda := rfl
@[simp] theorem modThread_turn (t : Nat) (f : Thread → Thread) : (s.modThread t f).turn = s.turn := rfl
@[simp] theorem modThread_seed (t : Nat) (f : Thread → Thread) : (s.modThread t f).seed = s.seed := rfl
@[simp] theorem modThread_errors (t : Nat) (f : Thread → Thread) : (s.modThread t f).errors = s.errors := rfl

/-! ### modTh -/

@[simp] theorem modTh_clk (f : Thread → Thread) : (s.modTh f).clk = s.clk := rfl
@[simp] theorem modTh_cur (f : Thread → Thread) : (s.modTh f).cur = s.cur := rfl
@[simp] theorem modTh_pc (f : Thread → Thread) : (s.modTh f).pc = s.pc := rfl
@[simp] theorem modTh_base (f : Thread → Thread) : (s.modTh f).base = s.base := rfl
@[simp] theorem modTh_npre (f : Thread → Thread) : (s.modTh f).npre = s.npre := rfl
@[simp] theorem modTh_hasR (f : Thread → Thread) : (s.modTh f).hasR = s.hasR := rfl
@[simp] theorem modTh_ev (f : Thread → Thread) : (s.modTh f).ev = s.ev := rfl
@[simp] theorem modTh_cores (f : Thread → Thread) : (s.modTh f).cores = s.cores := rfl
@[simp] theorem modTh_clusters (f : Thread → Thread) : (s.modTh f).clusters = s.clusters := rfl
@[simp] theorem modTh_parts (f : Thread → Thread) : (s.modTh f).parts = s.parts := rfl
@[simp] theorem modTh_snaps (f : Thread → Thread) : (s.modTh f).snaps = s.snaps := rfl
@[simp] theorem modTh_channels (f : Thread → Thread) : (s.modTh f).channels = s.channels := rfl
@[simp] theorem modTh_members (f : Thread → Thread) : (s.modTh f).members = s.members := rfl
@[simp] theorem modTh_mem (f : Thread → Thread) : (s.modTh f).mem = s.mem := rfl
@[simp] theorem modTh_poison (f : Thread → Thread) : (s.modTh f).poison = s.poison := rfl
@[simp] theorem modTh_current (f : Thread → Thread) : (s.modTh f).current = s.current := rfl
@[simp] theorem modTh_recomputing (f : Thread → Thread) : (s.modTh f).recomputing = s.recomputing := rfl
@[simp] theorem modTh_recWait (f : Thread → Thread) : (s.modTh f).recWait = s.recWait := rfl
@[simp] theorem modTh_rules (f : Thread → Thread) : (s.modTh f).rules = s.rules := rfl
@[simp] theorem modTh_notices (f : Thread → Thread) : (s.modTh f).notices = s.notices := rfl
@[simp] theorem modTh_slots (f : Thread → Thread) : (s.modTh f).slots = s.slots := rfl
@[simp] theorem modTh_behind (f : Thread → Thread) : (s.modTh f).behind = s.behind := rfl
@[simp] theorem modTh_slices (f : Thread → Thread) : (s.modTh f).slices = s.slices := rfl
@[simp] theorem modTh_orders (f : Thread → Thread) : (s.modTh f).orders = s.orders := rfl
@[simp] theorem modTh_fabric (f : Thread → Thread) : (s.modTh f).fabric = s.fabric := rfl
@[simp] theorem modTh_bufs (f : Thread → Thread) : (s.modTh f).bufs = s.bufs := rfl
@[simp] theorem modTh_spill (f : Thread → Thread) : (s.modTh f).spill = s.spill := rfl
@[simp] theorem modTh_discards (f : Thread → Thread) : (s.modTh f).discards = s.discards := rfl
@[simp] theorem modTh_host (f : Thread → Thread) : (s.modTh f).host = s.host := rfl
@[simp] theorem modTh_devid (f : Thread → Thread) : (s.modTh f).devid = s.devid := rfl
@[simp] theorem modTh_slew (f : Thread → Thread) : (s.modTh f).slew = s.slew := rfl
@[simp] theorem modTh_shape (f : Thread → Thread) : (s.modTh f).shape = s.shape := rfl
@[simp] theorem modTh_devstat (f : Thread → Thread) : (s.modTh f).devstat = s.devstat := rfl
@[simp] theorem modTh_governor (f : Thread → Thread) : (s.modTh f).governor = s.governor := rfl
@[simp] theorem modTh_demand (f : Thread → Thread) : (s.modTh f).demand = s.demand := rfl
@[simp] theorem modTh_powered (f : Thread → Thread) : (s.modTh f).powered = s.powered := rfl
@[simp] theorem modTh_agenda (f : Thread → Thread) : (s.modTh f).agenda = s.agenda := rfl
@[simp] theorem modTh_turn (f : Thread → Thread) : (s.modTh f).turn = s.turn := rfl
@[simp] theorem modTh_seed (f : Thread → Thread) : (s.modTh f).seed = s.seed := rfl
@[simp] theorem modTh_errors (f : Thread → Thread) : (s.modTh f).errors = s.errors := rfl

/-! ### setCore -/

@[simp] theorem setCore_clk (c : Nat) (x : Core) : (s.setCore c x).clk = s.clk := rfl
@[simp] theorem setCore_cur (c : Nat) (x : Core) : (s.setCore c x).cur = s.cur := rfl
@[simp] theorem setCore_pc (c : Nat) (x : Core) : (s.setCore c x).pc = s.pc := rfl
@[simp] theorem setCore_base (c : Nat) (x : Core) : (s.setCore c x).base = s.base := rfl
@[simp] theorem setCore_npre (c : Nat) (x : Core) : (s.setCore c x).npre = s.npre := rfl
@[simp] theorem setCore_hasR (c : Nat) (x : Core) : (s.setCore c x).hasR = s.hasR := rfl
@[simp] theorem setCore_ev (c : Nat) (x : Core) : (s.setCore c x).ev = s.ev := rfl
@[simp] theorem setCore_threads (c : Nat) (x : Core) : (s.setCore c x).threads = s.threads := rfl
@[simp] theorem setCore_clusters (c : Nat) (x : Core) : (s.setCore c x).clusters = s.clusters := rfl
@[simp] theorem setCore_parts (c : Nat) (x : Core) : (s.setCore c x).parts = s.parts := rfl
@[simp] theorem setCore_snaps (c : Nat) (x : Core) : (s.setCore c x).snaps = s.snaps := rfl
@[simp] theorem setCore_channels (c : Nat) (x : Core) : (s.setCore c x).channels = s.channels := rfl
@[simp] theorem setCore_members (c : Nat) (x : Core) : (s.setCore c x).members = s.members := rfl
@[simp] theorem setCore_mem (c : Nat) (x : Core) : (s.setCore c x).mem = s.mem := rfl
@[simp] theorem setCore_poison (c : Nat) (x : Core) : (s.setCore c x).poison = s.poison := rfl
@[simp] theorem setCore_current (c : Nat) (x : Core) : (s.setCore c x).current = s.current := rfl
@[simp] theorem setCore_recomputing (c : Nat) (x : Core) : (s.setCore c x).recomputing = s.recomputing := rfl
@[simp] theorem setCore_recWait (c : Nat) (x : Core) : (s.setCore c x).recWait = s.recWait := rfl
@[simp] theorem setCore_rules (c : Nat) (x : Core) : (s.setCore c x).rules = s.rules := rfl
@[simp] theorem setCore_notices (c : Nat) (x : Core) : (s.setCore c x).notices = s.notices := rfl
@[simp] theorem setCore_slots (c : Nat) (x : Core) : (s.setCore c x).slots = s.slots := rfl
@[simp] theorem setCore_behind (c : Nat) (x : Core) : (s.setCore c x).behind = s.behind := rfl
@[simp] theorem setCore_slices (c : Nat) (x : Core) : (s.setCore c x).slices = s.slices := rfl
@[simp] theorem setCore_orders (c : Nat) (x : Core) : (s.setCore c x).orders = s.orders := rfl
@[simp] theorem setCore_fabric (c : Nat) (x : Core) : (s.setCore c x).fabric = s.fabric := rfl
@[simp] theorem setCore_bufs (c : Nat) (x : Core) : (s.setCore c x).bufs = s.bufs := rfl
@[simp] theorem setCore_spill (c : Nat) (x : Core) : (s.setCore c x).spill = s.spill := rfl
@[simp] theorem setCore_discards (c : Nat) (x : Core) : (s.setCore c x).discards = s.discards := rfl
@[simp] theorem setCore_host (c : Nat) (x : Core) : (s.setCore c x).host = s.host := rfl
@[simp] theorem setCore_devid (c : Nat) (x : Core) : (s.setCore c x).devid = s.devid := rfl
@[simp] theorem setCore_slew (c : Nat) (x : Core) : (s.setCore c x).slew = s.slew := rfl
@[simp] theorem setCore_shape (c : Nat) (x : Core) : (s.setCore c x).shape = s.shape := rfl
@[simp] theorem setCore_devstat (c : Nat) (x : Core) : (s.setCore c x).devstat = s.devstat := rfl
@[simp] theorem setCore_governor (c : Nat) (x : Core) : (s.setCore c x).governor = s.governor := rfl
@[simp] theorem setCore_demand (c : Nat) (x : Core) : (s.setCore c x).demand = s.demand := rfl
@[simp] theorem setCore_powered (c : Nat) (x : Core) : (s.setCore c x).powered = s.powered := rfl
@[simp] theorem setCore_agenda (c : Nat) (x : Core) : (s.setCore c x).agenda = s.agenda := rfl
@[simp] theorem setCore_turn (c : Nat) (x : Core) : (s.setCore c x).turn = s.turn := rfl
@[simp] theorem setCore_seed (c : Nat) (x : Core) : (s.setCore c x).seed = s.seed := rfl
@[simp] theorem setCore_errors (c : Nat) (x : Core) : (s.setCore c x).errors = s.errors := rfl

/-! ### modCore -/

@[simp] theorem modCore_clk (c : Nat) (f : Core → Core) : (s.modCore c f).clk = s.clk := rfl
@[simp] theorem modCore_cur (c : Nat) (f : Core → Core) : (s.modCore c f).cur = s.cur := rfl
@[simp] theorem modCore_pc (c : Nat) (f : Core → Core) : (s.modCore c f).pc = s.pc := rfl
@[simp] theorem modCore_base (c : Nat) (f : Core → Core) : (s.modCore c f).base = s.base := rfl
@[simp] theorem modCore_npre (c : Nat) (f : Core → Core) : (s.modCore c f).npre = s.npre := rfl
@[simp] theorem modCore_hasR (c : Nat) (f : Core → Core) : (s.modCore c f).hasR = s.hasR := rfl
@[simp] theorem modCore_ev (c : Nat) (f : Core → Core) : (s.modCore c f).ev = s.ev := rfl
@[simp] theorem modCore_threads (c : Nat) (f : Core → Core) : (s.modCore c f).threads = s.threads := rfl
@[simp] theorem modCore_clusters (c : Nat) (f : Core → Core) : (s.modCore c f).clusters = s.clusters := rfl
@[simp] theorem modCore_parts (c : Nat) (f : Core → Core) : (s.modCore c f).parts = s.parts := rfl
@[simp] theorem modCore_snaps (c : Nat) (f : Core → Core) : (s.modCore c f).snaps = s.snaps := rfl
@[simp] theorem modCore_channels (c : Nat) (f : Core → Core) : (s.modCore c f).channels = s.channels := rfl
@[simp] theorem modCore_members (c : Nat) (f : Core → Core) : (s.modCore c f).members = s.members := rfl
@[simp] theorem modCore_mem (c : Nat) (f : Core → Core) : (s.modCore c f).mem = s.mem := rfl
@[simp] theorem modCore_poison (c : Nat) (f : Core → Core) : (s.modCore c f).poison = s.poison := rfl
@[simp] theorem modCore_current (c : Nat) (f : Core → Core) : (s.modCore c f).current = s.current := rfl
@[simp] theorem modCore_recomputing (c : Nat) (f : Core → Core) : (s.modCore c f).recomputing = s.recomputing := rfl
@[simp] theorem modCore_recWait (c : Nat) (f : Core → Core) : (s.modCore c f).recWait = s.recWait := rfl
@[simp] theorem modCore_rules (c : Nat) (f : Core → Core) : (s.modCore c f).rules = s.rules := rfl
@[simp] theorem modCore_notices (c : Nat) (f : Core → Core) : (s.modCore c f).notices = s.notices := rfl
@[simp] theorem modCore_slots (c : Nat) (f : Core → Core) : (s.modCore c f).slots = s.slots := rfl
@[simp] theorem modCore_behind (c : Nat) (f : Core → Core) : (s.modCore c f).behind = s.behind := rfl
@[simp] theorem modCore_slices (c : Nat) (f : Core → Core) : (s.modCore c f).slices = s.slices := rfl
@[simp] theorem modCore_orders (c : Nat) (f : Core → Core) : (s.modCore c f).orders = s.orders := rfl
@[simp] theorem modCore_fabric (c : Nat) (f : Core → Core) : (s.modCore c f).fabric = s.fabric := rfl
@[simp] theorem modCore_bufs (c : Nat) (f : Core → Core) : (s.modCore c f).bufs = s.bufs := rfl
@[simp] theorem modCore_spill (c : Nat) (f : Core → Core) : (s.modCore c f).spill = s.spill := rfl
@[simp] theorem modCore_discards (c : Nat) (f : Core → Core) : (s.modCore c f).discards = s.discards := rfl
@[simp] theorem modCore_host (c : Nat) (f : Core → Core) : (s.modCore c f).host = s.host := rfl
@[simp] theorem modCore_devid (c : Nat) (f : Core → Core) : (s.modCore c f).devid = s.devid := rfl
@[simp] theorem modCore_slew (c : Nat) (f : Core → Core) : (s.modCore c f).slew = s.slew := rfl
@[simp] theorem modCore_shape (c : Nat) (f : Core → Core) : (s.modCore c f).shape = s.shape := rfl
@[simp] theorem modCore_devstat (c : Nat) (f : Core → Core) : (s.modCore c f).devstat = s.devstat := rfl
@[simp] theorem modCore_governor (c : Nat) (f : Core → Core) : (s.modCore c f).governor = s.governor := rfl
@[simp] theorem modCore_demand (c : Nat) (f : Core → Core) : (s.modCore c f).demand = s.demand := rfl
@[simp] theorem modCore_powered (c : Nat) (f : Core → Core) : (s.modCore c f).powered = s.powered := rfl
@[simp] theorem modCore_agenda (c : Nat) (f : Core → Core) : (s.modCore c f).agenda = s.agenda := rfl
@[simp] theorem modCore_turn (c : Nat) (f : Core → Core) : (s.modCore c f).turn = s.turn := rfl
@[simp] theorem modCore_seed (c : Nat) (f : Core → Core) : (s.modCore c f).seed = s.seed := rfl
@[simp] theorem modCore_errors (c : Nat) (f : Core → Core) : (s.modCore c f).errors = s.errors := rfl

/-! ### modMyCore -/

@[simp] theorem modMyCore_clk (f : Core → Core) : (s.modMyCore f).clk = s.clk := rfl
@[simp] theorem modMyCore_cur (f : Core → Core) : (s.modMyCore f).cur = s.cur := rfl
@[simp] theorem modMyCore_pc (f : Core → Core) : (s.modMyCore f).pc = s.pc := rfl
@[simp] theorem modMyCore_base (f : Core → Core) : (s.modMyCore f).base = s.base := rfl
@[simp] theorem modMyCore_npre (f : Core → Core) : (s.modMyCore f).npre = s.npre := rfl
@[simp] theorem modMyCore_hasR (f : Core → Core) : (s.modMyCore f).hasR = s.hasR := rfl
@[simp] theorem modMyCore_ev (f : Core → Core) : (s.modMyCore f).ev = s.ev := rfl
@[simp] theorem modMyCore_threads (f : Core → Core) : (s.modMyCore f).threads = s.threads := rfl
@[simp] theorem modMyCore_clusters (f : Core → Core) : (s.modMyCore f).clusters = s.clusters := rfl
@[simp] theorem modMyCore_parts (f : Core → Core) : (s.modMyCore f).parts = s.parts := rfl
@[simp] theorem modMyCore_snaps (f : Core → Core) : (s.modMyCore f).snaps = s.snaps := rfl
@[simp] theorem modMyCore_channels (f : Core → Core) : (s.modMyCore f).channels = s.channels := rfl
@[simp] theorem modMyCore_members (f : Core → Core) : (s.modMyCore f).members = s.members := rfl
@[simp] theorem modMyCore_mem (f : Core → Core) : (s.modMyCore f).mem = s.mem := rfl
@[simp] theorem modMyCore_poison (f : Core → Core) : (s.modMyCore f).poison = s.poison := rfl
@[simp] theorem modMyCore_current (f : Core → Core) : (s.modMyCore f).current = s.current := rfl
@[simp] theorem modMyCore_recomputing (f : Core → Core) : (s.modMyCore f).recomputing = s.recomputing := rfl
@[simp] theorem modMyCore_recWait (f : Core → Core) : (s.modMyCore f).recWait = s.recWait := rfl
@[simp] theorem modMyCore_rules (f : Core → Core) : (s.modMyCore f).rules = s.rules := rfl
@[simp] theorem modMyCore_notices (f : Core → Core) : (s.modMyCore f).notices = s.notices := rfl
@[simp] theorem modMyCore_slots (f : Core → Core) : (s.modMyCore f).slots = s.slots := rfl
@[simp] theorem modMyCore_behind (f : Core → Core) : (s.modMyCore f).behind = s.behind := rfl
@[simp] theorem modMyCore_slices (f : Core → Core) : (s.modMyCore f).slices = s.slices := rfl
@[simp] theorem modMyCore_orders (f : Core → Core) : (s.modMyCore f).orders = s.orders := rfl
@[simp] theorem modMyCore_fabric (f : Core → Core) : (s.modMyCore f).fabric = s.fabric := rfl
@[simp] theorem modMyCore_bufs (f : Core → Core) : (s.modMyCore f).bufs = s.bufs := rfl
@[simp] theorem modMyCore_spill (f : Core → Core) : (s.modMyCore f).spill = s.spill := rfl
@[simp] theorem modMyCore_discards (f : Core → Core) : (s.modMyCore f).discards = s.discards := rfl
@[simp] theorem modMyCore_host (f : Core → Core) : (s.modMyCore f).host = s.host := rfl
@[simp] theorem modMyCore_devid (f : Core → Core) : (s.modMyCore f).devid = s.devid := rfl
@[simp] theorem modMyCore_slew (f : Core → Core) : (s.modMyCore f).slew = s.slew := rfl
@[simp] theorem modMyCore_shape (f : Core → Core) : (s.modMyCore f).shape = s.shape := rfl
@[simp] theorem modMyCore_devstat (f : Core → Core) : (s.modMyCore f).devstat = s.devstat := rfl
@[simp] theorem modMyCore_governor (f : Core → Core) : (s.modMyCore f).governor = s.governor := rfl
@[simp] theorem modMyCore_demand (f : Core → Core) : (s.modMyCore f).demand = s.demand := rfl
@[simp] theorem modMyCore_powered (f : Core → Core) : (s.modMyCore f).powered = s.powered := rfl
@[simp] theorem modMyCore_agenda (f : Core → Core) : (s.modMyCore f).agenda = s.agenda := rfl
@[simp] theorem modMyCore_turn (f : Core → Core) : (s.modMyCore f).turn = s.turn := rfl
@[simp] theorem modMyCore_seed (f : Core → Core) : (s.modMyCore f).seed = s.seed := rfl
@[simp] theorem modMyCore_errors (f : Core → Core) : (s.modMyCore f).errors = s.errors := rfl

/-! ### setCluster -/

@[simp] theorem setCluster_clk (c : Nat) (x : Cluster) : (s.setCluster c x).clk = s.clk := rfl
@[simp] theorem setCluster_cur (c : Nat) (x : Cluster) : (s.setCluster c x).cur = s.cur := rfl
@[simp] theorem setCluster_pc (c : Nat) (x : Cluster) : (s.setCluster c x).pc = s.pc := rfl
@[simp] theorem setCluster_base (c : Nat) (x : Cluster) : (s.setCluster c x).base = s.base := rfl
@[simp] theorem setCluster_npre (c : Nat) (x : Cluster) : (s.setCluster c x).npre = s.npre := rfl
@[simp] theorem setCluster_hasR (c : Nat) (x : Cluster) : (s.setCluster c x).hasR = s.hasR := rfl
@[simp] theorem setCluster_ev (c : Nat) (x : Cluster) : (s.setCluster c x).ev = s.ev := rfl
@[simp] theorem setCluster_threads (c : Nat) (x : Cluster) : (s.setCluster c x).threads = s.threads := rfl
@[simp] theorem setCluster_cores (c : Nat) (x : Cluster) : (s.setCluster c x).cores = s.cores := rfl
@[simp] theorem setCluster_parts (c : Nat) (x : Cluster) : (s.setCluster c x).parts = s.parts := rfl
@[simp] theorem setCluster_snaps (c : Nat) (x : Cluster) : (s.setCluster c x).snaps = s.snaps := rfl
@[simp] theorem setCluster_channels (c : Nat) (x : Cluster) : (s.setCluster c x).channels = s.channels := rfl
@[simp] theorem setCluster_members (c : Nat) (x : Cluster) : (s.setCluster c x).members = s.members := rfl
@[simp] theorem setCluster_mem (c : Nat) (x : Cluster) : (s.setCluster c x).mem = s.mem := rfl
@[simp] theorem setCluster_poison (c : Nat) (x : Cluster) : (s.setCluster c x).poison = s.poison := rfl
@[simp] theorem setCluster_current (c : Nat) (x : Cluster) : (s.setCluster c x).current = s.current := rfl
@[simp] theorem setCluster_recomputing (c : Nat) (x : Cluster) : (s.setCluster c x).recomputing = s.recomputing := rfl
@[simp] theorem setCluster_recWait (c : Nat) (x : Cluster) : (s.setCluster c x).recWait = s.recWait := rfl
@[simp] theorem setCluster_rules (c : Nat) (x : Cluster) : (s.setCluster c x).rules = s.rules := rfl
@[simp] theorem setCluster_notices (c : Nat) (x : Cluster) : (s.setCluster c x).notices = s.notices := rfl
@[simp] theorem setCluster_slots (c : Nat) (x : Cluster) : (s.setCluster c x).slots = s.slots := rfl
@[simp] theorem setCluster_behind (c : Nat) (x : Cluster) : (s.setCluster c x).behind = s.behind := rfl
@[simp] theorem setCluster_slices (c : Nat) (x : Cluster) : (s.setCluster c x).slices = s.slices := rfl
@[simp] theorem setCluster_orders (c : Nat) (x : Cluster) : (s.setCluster c x).orders = s.orders := rfl
@[simp] theorem setCluster_fabric (c : Nat) (x : Cluster) : (s.setCluster c x).fabric = s.fabric := rfl
@[simp] theorem setCluster_bufs (c : Nat) (x : Cluster) : (s.setCluster c x).bufs = s.bufs := rfl
@[simp] theorem setCluster_spill (c : Nat) (x : Cluster) : (s.setCluster c x).spill = s.spill := rfl
@[simp] theorem setCluster_discards (c : Nat) (x : Cluster) : (s.setCluster c x).discards = s.discards := rfl
@[simp] theorem setCluster_host (c : Nat) (x : Cluster) : (s.setCluster c x).host = s.host := rfl
@[simp] theorem setCluster_devid (c : Nat) (x : Cluster) : (s.setCluster c x).devid = s.devid := rfl
@[simp] theorem setCluster_slew (c : Nat) (x : Cluster) : (s.setCluster c x).slew = s.slew := rfl
@[simp] theorem setCluster_shape (c : Nat) (x : Cluster) : (s.setCluster c x).shape = s.shape := rfl
@[simp] theorem setCluster_devstat (c : Nat) (x : Cluster) : (s.setCluster c x).devstat = s.devstat := rfl
@[simp] theorem setCluster_governor (c : Nat) (x : Cluster) : (s.setCluster c x).governor = s.governor := rfl
@[simp] theorem setCluster_demand (c : Nat) (x : Cluster) : (s.setCluster c x).demand = s.demand := rfl
@[simp] theorem setCluster_powered (c : Nat) (x : Cluster) : (s.setCluster c x).powered = s.powered := rfl
@[simp] theorem setCluster_agenda (c : Nat) (x : Cluster) : (s.setCluster c x).agenda = s.agenda := rfl
@[simp] theorem setCluster_turn (c : Nat) (x : Cluster) : (s.setCluster c x).turn = s.turn := rfl
@[simp] theorem setCluster_seed (c : Nat) (x : Cluster) : (s.setCluster c x).seed = s.seed := rfl
@[simp] theorem setCluster_errors (c : Nat) (x : Cluster) : (s.setCluster c x).errors = s.errors := rfl

/-! ### modCluster -/

@[simp] theorem modCluster_clk (c : Nat) (f : Cluster → Cluster) : (s.modCluster c f).clk = s.clk := rfl
@[simp] theorem modCluster_cur (c : Nat) (f : Cluster → Cluster) : (s.modCluster c f).cur = s.cur := rfl
@[simp] theorem modCluster_pc (c : Nat) (f : Cluster → Cluster) : (s.modCluster c f).pc = s.pc := rfl
@[simp] theorem modCluster_base (c : Nat) (f : Cluster → Cluster) : (s.modCluster c f).base = s.base := rfl
@[simp] theorem modCluster_npre (c : Nat) (f : Cluster → Cluster) : (s.modCluster c f).npre = s.npre := rfl
@[simp] theorem modCluster_hasR (c : Nat) (f : Cluster → Cluster) : (s.modCluster c f).hasR = s.hasR := rfl
@[simp] theorem modCluster_ev (c : Nat) (f : Cluster → Cluster) : (s.modCluster c f).ev = s.ev := rfl
@[simp] theorem modCluster_threads (c : Nat) (f : Cluster → Cluster) : (s.modCluster c f).threads = s.threads := rfl
@[simp] theorem modCluster_cores (c : Nat) (f : Cluster → Cluster) : (s.modCluster c f).cores = s.cores := rfl
@[simp] theorem modCluster_parts (c : Nat) (f : Cluster → Cluster) : (s.modCluster c f).parts = s.parts := rfl
@[simp] theorem modCluster_snaps (c : Nat) (f : Cluster → Cluster) : (s.modCluster c f).snaps = s.snaps := rfl
@[simp] theorem modCluster_channels (c : Nat) (f : Cluster → Cluster) : (s.modCluster c f).channels = s.channels := rfl
@[simp] theorem modCluster_members (c : Nat) (f : Cluster → Cluster) : (s.modCluster c f).members = s.members := rfl
@[simp] theorem modCluster_mem (c : Nat) (f : Cluster → Cluster) : (s.modCluster c f).mem = s.mem := rfl
@[simp] theorem modCluster_poison (c : Nat) (f : Cluster → Cluster) : (s.modCluster c f).poison = s.poison := rfl
@[simp] theorem modCluster_current (c : Nat) (f : Cluster → Cluster) : (s.modCluster c f).current = s.current := rfl
@[simp] theorem modCluster_recomputing (c : Nat) (f : Cluster → Cluster) : (s.modCluster c f).recomputing = s.recomputing := rfl
@[simp] theorem modCluster_recWait (c : Nat) (f : Cluster → Cluster) : (s.modCluster c f).recWait = s.recWait := rfl
@[simp] theorem modCluster_rules (c : Nat) (f : Cluster → Cluster) : (s.modCluster c f).rules = s.rules := rfl
@[simp] theorem modCluster_notices (c : Nat) (f : Cluster → Cluster) : (s.modCluster c f).notices = s.notices := rfl
@[simp] theorem modCluster_slots (c : Nat) (f : Cluster → Cluster) : (s.modCluster c f).slots = s.slots := rfl
@[simp] theorem modCluster_behind (c : Nat) (f : Cluster → Cluster) : (s.modCluster c f).behind = s.behind := rfl
@[simp] theorem modCluster_slices (c : Nat) (f : Cluster → Cluster) : (s.modCluster c f).slices = s.slices := rfl
@[simp] theorem modCluster_orders (c : Nat) (f : Cluster → Cluster) : (s.modCluster c f).orders = s.orders := rfl
@[simp] theorem modCluster_fabric (c : Nat) (f : Cluster → Cluster) : (s.modCluster c f).fabric = s.fabric := rfl
@[simp] theorem modCluster_bufs (c : Nat) (f : Cluster → Cluster) : (s.modCluster c f).bufs = s.bufs := rfl
@[simp] theorem modCluster_spill (c : Nat) (f : Cluster → Cluster) : (s.modCluster c f).spill = s.spill := rfl
@[simp] theorem modCluster_discards (c : Nat) (f : Cluster → Cluster) : (s.modCluster c f).discards = s.discards := rfl
@[simp] theorem modCluster_host (c : Nat) (f : Cluster → Cluster) : (s.modCluster c f).host = s.host := rfl
@[simp] theorem modCluster_devid (c : Nat) (f : Cluster → Cluster) : (s.modCluster c f).devid = s.devid := rfl
@[simp] theorem modCluster_slew (c : Nat) (f : Cluster → Cluster) : (s.modCluster c f).slew = s.slew := rfl
@[simp] theorem modCluster_shape (c : Nat) (f : Cluster → Cluster) : (s.modCluster c f).shape = s.shape := rfl
@[simp] theorem modCluster_devstat (c : Nat) (f : Cluster → Cluster) : (s.modCluster c f).devstat = s.devstat := rfl
@[simp] theorem modCluster_governor (c : Nat) (f : Cluster → Cluster) : (s.modCluster c f).governor = s.governor := rfl
@[simp] theorem modCluster_demand (c : Nat) (f : Cluster → Cluster) : (s.modCluster c f).demand = s.demand := rfl
@[simp] theorem modCluster_powered (c : Nat) (f : Cluster → Cluster) : (s.modCluster c f).powered = s.powered := rfl
@[simp] theorem modCluster_agenda (c : Nat) (f : Cluster → Cluster) : (s.modCluster c f).agenda = s.agenda := rfl
@[simp] theorem modCluster_turn (c : Nat) (f : Cluster → Cluster) : (s.modCluster c f).turn = s.turn := rfl
@[simp] theorem modCluster_seed (c : Nat) (f : Cluster → Cluster) : (s.modCluster c f).seed = s.seed := rfl
@[simp] theorem modCluster_errors (c : Nat) (f : Cluster → Cluster) : (s.modCluster c f).errors = s.errors := rfl

/-! ### modMyCluster -/

@[simp] theorem modMyCluster_clk (f : Cluster → Cluster) : (s.modMyCluster f).clk = s.clk := rfl
@[simp] theorem modMyCluster_cur (f : Cluster → Cluster) : (s.modMyCluster f).cur = s.cur := rfl
@[simp] theorem modMyCluster_pc (f : Cluster → Cluster) : (s.modMyCluster f).pc = s.pc := rfl
@[simp] theorem modMyCluster_base (f : Cluster → Cluster) : (s.modMyCluster f).base = s.base := rfl
@[simp] theorem modMyCluster_npre (f : Cluster → Cluster) : (s.modMyCluster f).npre = s.npre := rfl
@[simp] theorem modMyCluster_hasR (f : Cluster → Cluster) : (s.modMyCluster f).hasR = s.hasR := rfl
@[simp] theorem modMyCluster_ev (f : Cluster → Cluster) : (s.modMyCluster f).ev = s.ev := rfl
@[simp] theorem modMyCluster_threads (f : Cluster → Cluster) : (s.modMyCluster f).threads = s.threads := rfl
@[simp] theorem modMyCluster_cores (f : Cluster → Cluster) : (s.modMyCluster f).cores = s.cores := rfl
@[simp] theorem modMyCluster_parts (f : Cluster → Cluster) : (s.modMyCluster f).parts = s.parts := rfl
@[simp] theorem modMyCluster_snaps (f : Cluster → Cluster) : (s.modMyCluster f).snaps = s.snaps := rfl
@[simp] theorem modMyCluster_channels (f : Cluster → Cluster) : (s.modMyCluster f).channels = s.channels := rfl
@[simp] theorem modMyCluster_members (f : Cluster → Cluster) : (s.modMyCluster f).members = s.members := rfl
@[simp] theorem modMyCluster_mem (f : Cluster → Cluster) : (s.modMyCluster f).mem = s.mem := rfl
@[simp] theorem modMyCluster_poison (f : Cluster → Cluster) : (s.modMyCluster f).poison = s.poison := rfl
@[simp] theorem modMyCluster_current (f : Cluster → Cluster) : (s.modMyCluster f).current = s.current := rfl
@[simp] theorem modMyCluster_recomputing (f : Cluster → Cluster) : (s.modMyCluster f).recomputing = s.recomputing := rfl
@[simp] theorem modMyCluster_recWait (f : Cluster → Cluster) : (s.modMyCluster f).recWait = s.recWait := rfl
@[simp] theorem modMyCluster_rules (f : Cluster → Cluster) : (s.modMyCluster f).rules = s.rules := rfl
@[simp] theorem modMyCluster_notices (f : Cluster → Cluster) : (s.modMyCluster f).notices = s.notices := rfl
@[simp] theorem modMyCluster_slots (f : Cluster → Cluster) : (s.modMyCluster f).slots = s.slots := rfl
@[simp] theorem modMyCluster_behind (f : Cluster → Cluster) : (s.modMyCluster f).behind = s.behind := rfl
@[simp] theorem modMyCluster_slices (f : Cluster → Cluster) : (s.modMyCluster f).slices = s.slices := rfl
@[simp] theorem modMyCluster_orders (f : Cluster → Cluster) : (s.modMyCluster f).orders = s.orders := rfl
@[simp] theorem modMyCluster_fabric (f : Cluster → Cluster) : (s.modMyCluster f).fabric = s.fabric := rfl
@[simp] theorem modMyCluster_bufs (f : Cluster → Cluster) : (s.modMyCluster f).bufs = s.bufs := rfl
@[simp] theorem modMyCluster_spill (f : Cluster → Cluster) : (s.modMyCluster f).spill = s.spill := rfl
@[simp] theorem modMyCluster_discards (f : Cluster → Cluster) : (s.modMyCluster f).discards = s.discards := rfl
@[simp] theorem modMyCluster_host (f : Cluster → Cluster) : (s.modMyCluster f).host = s.host := rfl
@[simp] theorem modMyCluster_devid (f : Cluster → Cluster) : (s.modMyCluster f).devid = s.devid := rfl
@[simp] theorem modMyCluster_slew (f : Cluster → Cluster) : (s.modMyCluster f).slew = s.slew := rfl
@[simp] theorem modMyCluster_shape (f : Cluster → Cluster) : (s.modMyCluster f).shape = s.shape := rfl
@[simp] theorem modMyCluster_devstat (f : Cluster → Cluster) : (s.modMyCluster f).devstat = s.devstat := rfl
@[simp] theorem modMyCluster_governor (f : Cluster → Cluster) : (s.modMyCluster f).governor = s.governor := rfl
@[simp] theorem modMyCluster_demand (f : Cluster → Cluster) : (s.modMyCluster f).demand = s.demand := rfl
@[simp] theorem modMyCluster_powered (f : Cluster → Cluster) : (s.modMyCluster f).powered = s.powered := rfl
@[simp] theorem modMyCluster_agenda (f : Cluster → Cluster) : (s.modMyCluster f).agenda = s.agenda := rfl
@[simp] theorem modMyCluster_turn (f : Cluster → Cluster) : (s.modMyCluster f).turn = s.turn := rfl
@[simp] theorem modMyCluster_seed (f : Cluster → Cluster) : (s.modMyCluster f).seed = s.seed := rfl
@[simp] theorem modMyCluster_errors (f : Cluster → Cluster) : (s.modMyCluster f).errors = s.errors := rfl

/-! ### setPart -/

@[simp] theorem setPart_clk (p : Nat) (x : Part) : (s.setPart p x).clk = s.clk := rfl
@[simp] theorem setPart_cur (p : Nat) (x : Part) : (s.setPart p x).cur = s.cur := rfl
@[simp] theorem setPart_pc (p : Nat) (x : Part) : (s.setPart p x).pc = s.pc := rfl
@[simp] theorem setPart_base (p : Nat) (x : Part) : (s.setPart p x).base = s.base := rfl
@[simp] theorem setPart_npre (p : Nat) (x : Part) : (s.setPart p x).npre = s.npre := rfl
@[simp] theorem setPart_hasR (p : Nat) (x : Part) : (s.setPart p x).hasR = s.hasR := rfl
@[simp] theorem setPart_ev (p : Nat) (x : Part) : (s.setPart p x).ev = s.ev := rfl
@[simp] theorem setPart_threads (p : Nat) (x : Part) : (s.setPart p x).threads = s.threads := rfl
@[simp] theorem setPart_cores (p : Nat) (x : Part) : (s.setPart p x).cores = s.cores := rfl
@[simp] theorem setPart_clusters (p : Nat) (x : Part) : (s.setPart p x).clusters = s.clusters := rfl
@[simp] theorem setPart_snaps (p : Nat) (x : Part) : (s.setPart p x).snaps = s.snaps := rfl
@[simp] theorem setPart_channels (p : Nat) (x : Part) : (s.setPart p x).channels = s.channels := rfl
@[simp] theorem setPart_members (p : Nat) (x : Part) : (s.setPart p x).members = s.members := rfl
@[simp] theorem setPart_mem (p : Nat) (x : Part) : (s.setPart p x).mem = s.mem := rfl
@[simp] theorem setPart_poison (p : Nat) (x : Part) : (s.setPart p x).poison = s.poison := rfl
@[simp] theorem setPart_current (p : Nat) (x : Part) : (s.setPart p x).current = s.current := rfl
@[simp] theorem setPart_recomputing (p : Nat) (x : Part) : (s.setPart p x).recomputing = s.recomputing := rfl
@[simp] theorem setPart_recWait (p : Nat) (x : Part) : (s.setPart p x).recWait = s.recWait := rfl
@[simp] theorem setPart_rules (p : Nat) (x : Part) : (s.setPart p x).rules = s.rules := rfl
@[simp] theorem setPart_notices (p : Nat) (x : Part) : (s.setPart p x).notices = s.notices := rfl
@[simp] theorem setPart_slots (p : Nat) (x : Part) : (s.setPart p x).slots = s.slots := rfl
@[simp] theorem setPart_behind (p : Nat) (x : Part) : (s.setPart p x).behind = s.behind := rfl
@[simp] theorem setPart_slices (p : Nat) (x : Part) : (s.setPart p x).slices = s.slices := rfl
@[simp] theorem setPart_orders (p : Nat) (x : Part) : (s.setPart p x).orders = s.orders := rfl
@[simp] theorem setPart_fabric (p : Nat) (x : Part) : (s.setPart p x).fabric = s.fabric := rfl
@[simp] theorem setPart_bufs (p : Nat) (x : Part) : (s.setPart p x).bufs = s.bufs := rfl
@[simp] theorem setPart_spill (p : Nat) (x : Part) : (s.setPart p x).spill = s.spill := rfl
@[simp] theorem setPart_discards (p : Nat) (x : Part) : (s.setPart p x).discards = s.discards := rfl
@[simp] theorem setPart_host (p : Nat) (x : Part) : (s.setPart p x).host = s.host := rfl
@[simp] theorem setPart_devid (p : Nat) (x : Part) : (s.setPart p x).devid = s.devid := rfl
@[simp] theorem setPart_slew (p : Nat) (x : Part) : (s.setPart p x).slew = s.slew := rfl
@[simp] theorem setPart_shape (p : Nat) (x : Part) : (s.setPart p x).shape = s.shape := rfl
@[simp] theorem setPart_devstat (p : Nat) (x : Part) : (s.setPart p x).devstat = s.devstat := rfl
@[simp] theorem setPart_governor (p : Nat) (x : Part) : (s.setPart p x).governor = s.governor := rfl
@[simp] theorem setPart_demand (p : Nat) (x : Part) : (s.setPart p x).demand = s.demand := rfl
@[simp] theorem setPart_powered (p : Nat) (x : Part) : (s.setPart p x).powered = s.powered := rfl
@[simp] theorem setPart_agenda (p : Nat) (x : Part) : (s.setPart p x).agenda = s.agenda := rfl
@[simp] theorem setPart_turn (p : Nat) (x : Part) : (s.setPart p x).turn = s.turn := rfl
@[simp] theorem setPart_seed (p : Nat) (x : Part) : (s.setPart p x).seed = s.seed := rfl
@[simp] theorem setPart_errors (p : Nat) (x : Part) : (s.setPart p x).errors = s.errors := rfl

/-! ### modPart -/

@[simp] theorem modPart_clk (p : Nat) (f : Part → Part) : (s.modPart p f).clk = s.clk := rfl
@[simp] theorem modPart_cur (p : Nat) (f : Part → Part) : (s.modPart p f).cur = s.cur := rfl
@[simp] theorem modPart_pc (p : Nat) (f : Part → Part) : (s.modPart p f).pc = s.pc := rfl
@[simp] theorem modPart_base (p : Nat) (f : Part → Part) : (s.modPart p f).base = s.base := rfl
@[simp] theorem modPart_npre (p : Nat) (f : Part → Part) : (s.modPart p f).npre = s.npre := rfl
@[simp] theorem modPart_hasR (p : Nat) (f : Part → Part) : (s.modPart p f).hasR = s.hasR := rfl
@[simp] theorem modPart_ev (p : Nat) (f : Part → Part) : (s.modPart p f).ev = s.ev := rfl
@[simp] theorem modPart_threads (p : Nat) (f : Part → Part) : (s.modPart p f).threads = s.threads := rfl
@[simp] theorem modPart_cores (p : Nat) (f : Part → Part) : (s.modPart p f).cores = s.cores := rfl
@[simp] theorem modPart_clusters (p : Nat) (f : Part → Part) : (s.modPart p f).clusters = s.clusters := rfl
@[simp] theorem modPart_snaps (p : Nat) (f : Part → Part) : (s.modPart p f).snaps = s.snaps := rfl
@[simp] theorem modPart_channels (p : Nat) (f : Part → Part) : (s.modPart p f).channels = s.channels := rfl
@[simp] theorem modPart_members (p : Nat) (f : Part → Part) : (s.modPart p f).members = s.members := rfl
@[simp] theorem modPart_mem (p : Nat) (f : Part → Part) : (s.modPart p f).mem = s.mem := rfl
@[simp] theorem modPart_poison (p : Nat) (f : Part → Part) : (s.modPart p f).poison = s.poison := rfl
@[simp] theorem modPart_current (p : Nat) (f : Part → Part) : (s.modPart p f).current = s.current := rfl
@[simp] theorem modPart_recomputing (p : Nat) (f : Part → Part) : (s.modPart p f).recomputing = s.recomputing := rfl
@[simp] theorem modPart_recWait (p : Nat) (f : Part → Part) : (s.modPart p f).recWait = s.recWait := rfl
@[simp] theorem modPart_rules (p : Nat) (f : Part → Part) : (s.modPart p f).rules = s.rules := rfl
@[simp] theorem modPart_notices (p : Nat) (f : Part → Part) : (s.modPart p f).notices = s.notices := rfl
@[simp] theorem modPart_slots (p : Nat) (f : Part → Part) : (s.modPart p f).slots = s.slots := rfl
@[simp] theorem modPart_behind (p : Nat) (f : Part → Part) : (s.modPart p f).behind = s.behind := rfl
@[simp] theorem modPart_slices (p : Nat) (f : Part → Part) : (s.modPart p f).slices = s.slices := rfl
@[simp] theorem modPart_orders (p : Nat) (f : Part → Part) : (s.modPart p f).orders = s.orders := rfl
@[simp] theorem modPart_fabric (p : Nat) (f : Part → Part) : (s.modPart p f).fabric = s.fabric := rfl
@[simp] theorem modPart_bufs (p : Nat) (f : Part → Part) : (s.modPart p f).bufs = s.bufs := rfl
@[simp] theorem modPart_spill (p : Nat) (f : Part → Part) : (s.modPart p f).spill = s.spill := rfl
@[simp] theorem modPart_discards (p : Nat) (f : Part → Part) : (s.modPart p f).discards = s.discards := rfl
@[simp] theorem modPart_host (p : Nat) (f : Part → Part) : (s.modPart p f).host = s.host := rfl
@[simp] theorem modPart_devid (p : Nat) (f : Part → Part) : (s.modPart p f).devid = s.devid := rfl
@[simp] theorem modPart_slew (p : Nat) (f : Part → Part) : (s.modPart p f).slew = s.slew := rfl
@[simp] theorem modPart_shape (p : Nat) (f : Part → Part) : (s.modPart p f).shape = s.shape := rfl
@[simp] theorem modPart_devstat (p : Nat) (f : Part → Part) : (s.modPart p f).devstat = s.devstat := rfl
@[simp] theorem modPart_governor (p : Nat) (f : Part → Part) : (s.modPart p f).governor = s.governor := rfl
@[simp] theorem modPart_demand (p : Nat) (f : Part → Part) : (s.modPart p f).demand = s.demand := rfl
@[simp] theorem modPart_powered (p : Nat) (f : Part → Part) : (s.modPart p f).powered = s.powered := rfl
@[simp] theorem modPart_agenda (p : Nat) (f : Part → Part) : (s.modPart p f).agenda = s.agenda := rfl
@[simp] theorem modPart_turn (p : Nat) (f : Part → Part) : (s.modPart p f).turn = s.turn := rfl
@[simp] theorem modPart_seed (p : Nat) (f : Part → Part) : (s.modPart p f).seed = s.seed := rfl
@[simp] theorem modPart_errors (p : Nat) (f : Part → Part) : (s.modPart p f).errors = s.errors := rfl

/-! ### setChannel -/

@[simp] theorem setChannel_clk (c : Nat) (x : Channel) : (s.setChannel c x).clk = s.clk := rfl
@[simp] theorem setChannel_cur (c : Nat) (x : Channel) : (s.setChannel c x).cur = s.cur := rfl
@[simp] theorem setChannel_pc (c : Nat) (x : Channel) : (s.setChannel c x).pc = s.pc := rfl
@[simp] theorem setChannel_base (c : Nat) (x : Channel) : (s.setChannel c x).base = s.base := rfl
@[simp] theorem setChannel_npre (c : Nat) (x : Channel) : (s.setChannel c x).npre = s.npre := rfl
@[simp] theorem setChannel_hasR (c : Nat) (x : Channel) : (s.setChannel c x).hasR = s.hasR := rfl
@[simp] theorem setChannel_ev (c : Nat) (x : Channel) : (s.setChannel c x).ev = s.ev := rfl
@[simp] theorem setChannel_threads (c : Nat) (x : Channel) : (s.setChannel c x).threads = s.threads := rfl
@[simp] theorem setChannel_cores (c : Nat) (x : Channel) : (s.setChannel c x).cores = s.cores := rfl
@[simp] theorem setChannel_clusters (c : Nat) (x : Channel) : (s.setChannel c x).clusters = s.clusters := rfl
@[simp] theorem setChannel_parts (c : Nat) (x : Channel) : (s.setChannel c x).parts = s.parts := rfl
@[simp] theorem setChannel_snaps (c : Nat) (x : Channel) : (s.setChannel c x).snaps = s.snaps := rfl
@[simp] theorem setChannel_members (c : Nat) (x : Channel) : (s.setChannel c x).members = s.members := rfl
@[simp] theorem setChannel_mem (c : Nat) (x : Channel) : (s.setChannel c x).mem = s.mem := rfl
@[simp] theorem setChannel_poison (c : Nat) (x : Channel) : (s.setChannel c x).poison = s.poison := rfl
@[simp] theorem setChannel_current (c : Nat) (x : Channel) : (s.setChannel c x).current = s.current := rfl
@[simp] theorem setChannel_recomputing (c : Nat) (x : Channel) : (s.setChannel c x).recomputing = s.recomputing := rfl
@[simp] theorem setChannel_recWait (c : Nat) (x : Channel) : (s.setChannel c x).recWait = s.recWait := rfl
@[simp] theorem setChannel_rules (c : Nat) (x : Channel) : (s.setChannel c x).rules = s.rules := rfl
@[simp] theorem setChannel_notices (c : Nat) (x : Channel) : (s.setChannel c x).notices = s.notices := rfl
@[simp] theorem setChannel_slots (c : Nat) (x : Channel) : (s.setChannel c x).slots = s.slots := rfl
@[simp] theorem setChannel_behind (c : Nat) (x : Channel) : (s.setChannel c x).behind = s.behind := rfl
@[simp] theorem setChannel_slices (c : Nat) (x : Channel) : (s.setChannel c x).slices = s.slices := rfl
@[simp] theorem setChannel_orders (c : Nat) (x : Channel) : (s.setChannel c x).orders = s.orders := rfl
@[simp] theorem setChannel_fabric (c : Nat) (x : Channel) : (s.setChannel c x).fabric = s.fabric := rfl
@[simp] theorem setChannel_bufs (c : Nat) (x : Channel) : (s.setChannel c x).bufs = s.bufs := rfl
@[simp] theorem setChannel_spill (c : Nat) (x : Channel) : (s.setChannel c x).spill = s.spill := rfl
@[simp] theorem setChannel_discards (c : Nat) (x : Channel) : (s.setChannel c x).discards = s.discards := rfl
@[simp] theorem setChannel_host (c : Nat) (x : Channel) : (s.setChannel c x).host = s.host := rfl
@[simp] theorem setChannel_devid (c : Nat) (x : Channel) : (s.setChannel c x).devid = s.devid := rfl
@[simp] theorem setChannel_slew (c : Nat) (x : Channel) : (s.setChannel c x).slew = s.slew := rfl
@[simp] theorem setChannel_shape (c : Nat) (x : Channel) : (s.setChannel c x).shape = s.shape := rfl
@[simp] theorem setChannel_devstat (c : Nat) (x : Channel) : (s.setChannel c x).devstat = s.devstat := rfl
@[simp] theorem setChannel_governor (c : Nat) (x : Channel) : (s.setChannel c x).governor = s.governor := rfl
@[simp] theorem setChannel_demand (c : Nat) (x : Channel) : (s.setChannel c x).demand = s.demand := rfl
@[simp] theorem setChannel_powered (c : Nat) (x : Channel) : (s.setChannel c x).powered = s.powered := rfl
@[simp] theorem setChannel_agenda (c : Nat) (x : Channel) : (s.setChannel c x).agenda = s.agenda := rfl
@[simp] theorem setChannel_turn (c : Nat) (x : Channel) : (s.setChannel c x).turn = s.turn := rfl
@[simp] theorem setChannel_seed (c : Nat) (x : Channel) : (s.setChannel c x).seed = s.seed := rfl
@[simp] theorem setChannel_errors (c : Nat) (x : Channel) : (s.setChannel c x).errors = s.errors := rfl

/-! ### post -/

@[simp] theorem post_clk (d : Nat) (i : Instr) (e : Ev) : (s.post d i e).clk = s.clk := rfl
@[simp] theorem post_cur (d : Nat) (i : Instr) (e : Ev) : (s.post d i e).cur = s.cur := rfl
@[simp] theorem post_pc (d : Nat) (i : Instr) (e : Ev) : (s.post d i e).pc = s.pc := rfl
@[simp] theorem post_base (d : Nat) (i : Instr) (e : Ev) : (s.post d i e).base = s.base := rfl
@[simp] theorem post_npre (d : Nat) (i : Instr) (e : Ev) : (s.post d i e).npre = s.npre := rfl
@[simp] theorem post_hasR (d : Nat) (i : Instr) (e : Ev) : (s.post d i e).hasR = s.hasR := rfl
@[simp] theorem post_ev (d : Nat) (i : Instr) (e : Ev) : (s.post d i e).ev = s.ev := rfl
@[simp] theorem post_threads (d : Nat) (i : Instr) (e : Ev) : (s.post d i e).threads = s.threads := rfl
@[simp] theorem post_cores (d : Nat) (i : Instr) (e : Ev) : (s.post d i e).cores = s.cores := rfl
@[simp] theorem post_clusters (d : Nat) (i : Instr) (e : Ev) : (s.post d i e).clusters = s.clusters := rfl
@[simp] theorem post_parts (d : Nat) (i : Instr) (e : Ev) : (s.post d i e).parts = s.parts := rfl
@[simp] theorem post_snaps (d : Nat) (i : Instr) (e : Ev) : (s.post d i e).snaps = s.snaps := rfl
@[simp] theorem post_channels (d : Nat) (i : Instr) (e : Ev) : (s.post d i e).channels = s.channels := rfl
@[simp] theorem post_members (d : Nat) (i : Instr) (e : Ev) : (s.post d i e).members = s.members := rfl
@[simp] theorem post_mem (d : Nat) (i : Instr) (e : Ev) : (s.post d i e).mem = s.mem := rfl
@[simp] theorem post_poison (d : Nat) (i : Instr) (e : Ev) : (s.post d i e).poison = s.poison := rfl
@[simp] theorem post_current (d : Nat) (i : Instr) (e : Ev) : (s.post d i e).current = s.current := rfl
@[simp] theorem post_recomputing (d : Nat) (i : Instr) (e : Ev) : (s.post d i e).recomputing = s.recomputing := rfl
@[simp] theorem post_recWait (d : Nat) (i : Instr) (e : Ev) : (s.post d i e).recWait = s.recWait := rfl
@[simp] theorem post_rules (d : Nat) (i : Instr) (e : Ev) : (s.post d i e).rules = s.rules := rfl
@[simp] theorem post_notices (d : Nat) (i : Instr) (e : Ev) : (s.post d i e).notices = s.notices := rfl
@[simp] theorem post_slots (d : Nat) (i : Instr) (e : Ev) : (s.post d i e).slots = s.slots := rfl
@[simp] theorem post_behind (d : Nat) (i : Instr) (e : Ev) : (s.post d i e).behind = s.behind := rfl
@[simp] theorem post_slices (d : Nat) (i : Instr) (e : Ev) : (s.post d i e).slices = s.slices := rfl
@[simp] theorem post_orders (d : Nat) (i : Instr) (e : Ev) : (s.post d i e).orders = s.orders := rfl
@[simp] theorem post_fabric (d : Nat) (i : Instr) (e : Ev) : (s.post d i e).fabric = s.fabric := rfl
@[simp] theorem post_bufs (d : Nat) (i : Instr) (e : Ev) : (s.post d i e).bufs = s.bufs := rfl
@[simp] theorem post_spill (d : Nat) (i : Instr) (e : Ev) : (s.post d i e).spill = s.spill := rfl
@[simp] theorem post_discards (d : Nat) (i : Instr) (e : Ev) : (s.post d i e).discards = s.discards := rfl
@[simp] theorem post_host (d : Nat) (i : Instr) (e : Ev) : (s.post d i e).host = s.host := rfl
@[simp] theorem post_devid (d : Nat) (i : Instr) (e : Ev) : (s.post d i e).devid = s.devid := rfl
@[simp] theorem post_slew (d : Nat) (i : Instr) (e : Ev) : (s.post d i e).slew = s.slew := rfl
@[simp] theorem post_shape (d : Nat) (i : Instr) (e : Ev) : (s.post d i e).shape = s.shape := rfl
@[simp] theorem post_devstat (d : Nat) (i : Instr) (e : Ev) : (s.post d i e).devstat = s.devstat := rfl
@[simp] theorem post_governor (d : Nat) (i : Instr) (e : Ev) : (s.post d i e).governor = s.governor := rfl
@[simp] theorem post_demand (d : Nat) (i : Instr) (e : Ev) : (s.post d i e).demand = s.demand := rfl
@[simp] theorem post_powered (d : Nat) (i : Instr) (e : Ev) : (s.post d i e).powered = s.powered := rfl
@[simp] theorem post_turn (d : Nat) (i : Instr) (e : Ev) : (s.post d i e).turn = s.turn := rfl
@[simp] theorem post_seed (d : Nat) (i : Instr) (e : Ev) : (s.post d i e).seed = s.seed := rfl
@[simp] theorem post_errors (d : Nat) (i : Instr) (e : Ev) : (s.post d i e).errors = s.errors := rfl

/-! ### postNow -/

@[simp] theorem postNow_clk (i : Instr) (e : Ev) : (s.postNow i e).clk = s.clk := rfl
@[simp] theorem postNow_cur (i : Instr) (e : Ev) : (s.postNow i e).cur = s.cur := rfl
@[simp] theorem postNow_pc (i : Instr) (e : Ev) : (s.postNow i e).pc = s.pc := rfl
@[simp] theorem postNow_base (i : Instr) (e : Ev) : (s.postNow i e).base = s.base := rfl
@[simp] theorem postNow_npre (i : Instr) (e : Ev) : (s.postNow i e).npre = s.npre := rfl
@[simp] theorem postNow_hasR (i : Instr) (e : Ev) : (s.postNow i e).hasR = s.hasR := rfl
@[simp] theorem postNow_ev (i : Instr) (e : Ev) : (s.postNow i e).ev = s.ev := rfl
@[simp] theorem postNow_threads (i : Instr) (e : Ev) : (s.postNow i e).threads = s.threads := rfl
@[simp] theorem postNow_cores (i : Instr) (e : Ev) : (s.postNow i e).cores = s.cores := rfl
@[simp] theorem postNow_clusters (i : Instr) (e : Ev) : (s.postNow i e).clusters = s.clusters := rfl
@[simp] theorem postNow_parts (i : Instr) (e : Ev) : (s.postNow i e).parts = s.parts := rfl
@[simp] theorem postNow_snaps (i : Instr) (e : Ev) : (s.postNow i e).snaps = s.snaps := rfl
@[simp] theorem postNow_channels (i : Instr) (e : Ev) : (s.postNow i e).channels = s.channels := rfl
@[simp] theorem postNow_members (i : Instr) (e : Ev) : (s.postNow i e).members = s.members := rfl
@[simp] theorem postNow_mem (i : Instr) (e : Ev) : (s.postNow i e).mem = s.mem := rfl
@[simp] theorem postNow_poison (i : Instr) (e : Ev) : (s.postNow i e).poison = s.poison := rfl
@[simp] theorem postNow_current (i : Instr) (e : Ev) : (s.postNow i e).current = s.current := rfl
@[simp] theorem postNow_recomputing (i : Instr) (e : Ev) : (s.postNow i e).recomputing = s.recomputing := rfl
@[simp] theorem postNow_recWait (i : Instr) (e : Ev) : (s.postNow i e).recWait = s.recWait := rfl
@[simp] theorem postNow_rules (i : Instr) (e : Ev) : (s.postNow i e).rules = s.rules := rfl
@[simp] theorem postNow_notices (i : Instr) (e : Ev) : (s.postNow i e).notices = s.notices := rfl
@[simp] theorem postNow_slots (i : Instr) (e : Ev) : (s.postNow i e).slots = s.slots := rfl
@[simp] theorem postNow_behind (i : Instr) (e : Ev) : (s.postNow i e).behind = s.behind := rfl
@[simp] theorem postNow_slices (i : Instr) (e : Ev) : (s.postNow i e).slices = s.slices := rfl
@[simp] theorem postNow_orders (i : Instr) (e : Ev) : (s.postNow i e).orders = s.orders := rfl
@[simp] theorem postNow_fabric (i : Instr) (e : Ev) : (s.postNow i e).fabric = s.fabric := rfl
@[simp] theorem postNow_bufs (i : Instr) (e : Ev) : (s.postNow i e).bufs = s.bufs := rfl
@[simp] theorem postNow_spill (i : Instr) (e : Ev) : (s.postNow i e).spill = s.spill := rfl
@[simp] theorem postNow_discards (i : Instr) (e : Ev) : (s.postNow i e).discards = s.discards := rfl
@[simp] theorem postNow_host (i : Instr) (e : Ev) : (s.postNow i e).host = s.host := rfl
@[simp] theorem postNow_devid (i : Instr) (e : Ev) : (s.postNow i e).devid = s.devid := rfl
@[simp] theorem postNow_slew (i : Instr) (e : Ev) : (s.postNow i e).slew = s.slew := rfl
@[simp] theorem postNow_shape (i : Instr) (e : Ev) : (s.postNow i e).shape = s.shape := rfl
@[simp] theorem postNow_devstat (i : Instr) (e : Ev) : (s.postNow i e).devstat = s.devstat := rfl
@[simp] theorem postNow_governor (i : Instr) (e : Ev) : (s.postNow i e).governor = s.governor := rfl
@[simp] theorem postNow_demand (i : Instr) (e : Ev) : (s.postNow i e).demand = s.demand := rfl
@[simp] theorem postNow_powered (i : Instr) (e : Ev) : (s.postNow i e).powered = s.powered := rfl
@[simp] theorem postNow_turn (i : Instr) (e : Ev) : (s.postNow i e).turn = s.turn := rfl
@[simp] theorem postNow_seed (i : Instr) (e : Ev) : (s.postNow i e).seed = s.seed := rfl
@[simp] theorem postNow_errors (i : Instr) (e : Ev) : (s.postNow i e).errors = s.errors := rfl

/-! ### The parts written are read back -/

@[simp] theorem thread_setThread_self (t : Nat) (x : Thread) : (s.setThread t x).thread t = x :=
  smGet_smSet_self _ _ _ _
theorem thread_setThread_other (t u : Nat) (x : Thread) (h : u ≠ t) : (s.setThread t x).thread u = s.thread u :=
  smGet_smSet_other _ _ _ _ _ h
@[simp] theorem thread_modThread_self (t : Nat) (f : Thread → Thread) : (s.modThread t f).thread t = f (s.thread t) :=
  smGet_smSet_self _ _ _ _
theorem thread_modThread_other (t u : Nat) (f : Thread → Thread) (h : u ≠ t) :
    (s.modThread t f).thread u = s.thread u := smGet_smSet_other _ _ _ _ _ h
@[simp] theorem thread_modTh_self (f : Thread → Thread) : (s.modTh f).thread s.cur = f s.th := smGet_smSet_self _ _ _ _
theorem thread_modTh_other (u : Nat) (f : Thread → Thread) (h : u ≠ s.cur) : (s.modTh f).thread u = s.thread u :=
  smGet_smSet_other _ _ _ _ _ h
@[simp] theorem th_modTh (f : Thread → Thread) : (s.modTh f).th = f s.th := smGet_smSet_self _ _ _ _
@[simp] theorem core_setCore_self (c : Nat) (x : Core) : (s.setCore c x).core c = x := smGet_smSet_self _ _ _ _
theorem core_setCore_other (c d : Nat) (x : Core) (h : d ≠ c) : (s.setCore c x).core d = s.core d :=
  smGet_smSet_other _ _ _ _ _ h
@[simp] theorem core_modCore_self (c : Nat) (f : Core → Core) : (s.modCore c f).core c = f (s.core c) :=
  smGet_smSet_self _ _ _ _
theorem core_modCore_other (c d : Nat) (f : Core → Core) (h : d ≠ c) : (s.modCore c f).core d = s.core d :=
  smGet_smSet_other _ _ _ _ _ h
@[simp] theorem cluster_setCluster_self (c : Nat) (x : Cluster) : (s.setCluster c x).cluster c = x :=
  smGet_smSet_self _ _ _ _
theorem cluster_setCluster_other (c d : Nat) (x : Cluster) (h : d ≠ c) : (s.setCluster c x).cluster d = s.cluster d :=
  smGet_smSet_other _ _ _ _ _ h
@[simp] theorem cluster_modCluster_self (c : Nat) (f : Cluster → Cluster) :
    (s.modCluster c f).cluster c = f (s.cluster c) := smGet_smSet_self _ _ _ _
theorem cluster_modCluster_other (c d : Nat) (f : Cluster → Cluster) (h : d ≠ c) :
    (s.modCluster c f).cluster d = s.cluster d := smGet_smSet_other _ _ _ _ _ h
@[simp] theorem part_setPart_self (p : Nat) (x : Part) : (s.setPart p x).part p = x := smGet_smSet_self _ _ _ _
theorem part_setPart_other (p q : Nat) (x : Part) (h : q ≠ p) : (s.setPart p x).part q = s.part q :=
  smGet_smSet_other _ _ _ _ _ h
@[simp] theorem part_modPart_self (p : Nat) (f : Part → Part) : (s.modPart p f).part p = f (s.part p) :=
  smGet_smSet_self _ _ _ _
theorem part_modPart_other (p q : Nat) (f : Part → Part) (h : q ≠ p) : (s.modPart p f).part q = s.part q :=
  smGet_smSet_other _ _ _ _ _ h
@[simp] theorem channel_setChannel_self (c : Nat) (x : Channel) : (s.setChannel c x).channel c = x :=
  smGet_smSet_self _ _ _ _
theorem channel_setChannel_other (c d : Nat) (x : Channel) (h : d ≠ c) : (s.setChannel c x).channel d = s.channel d :=
  smGet_smSet_other _ _ _ _ _ h

/-! ### Parts of other kinds -/

@[simp] theorem core_setThread (t : Nat) (x : Thread) (k : Nat) : (s.setThread t x).core k = s.core k := rfl
@[simp] theorem cluster_setThread (t : Nat) (x : Thread) (k : Nat) : (s.setThread t x).cluster k = s.cluster k := rfl
@[simp] theorem part_setThread (t : Nat) (x : Thread) (k : Nat) : (s.setThread t x).part k = s.part k := rfl
@[simp] theorem channel_setThread (t : Nat) (x : Thread) (k : Nat) : (s.setThread t x).channel k = s.channel k := rfl
@[simp] theorem core_modThread (t : Nat) (f : Thread → Thread) (k : Nat) : (s.modThread t f).core k = s.core k := rfl
@[simp] theorem cluster_modThread (t : Nat) (f : Thread → Thread) (k : Nat) : (s.modThread t f).cluster k = s.cluster k := rfl
@[simp] theorem part_modThread (t : Nat) (f : Thread → Thread) (k : Nat) : (s.modThread t f).part k = s.part k := rfl
@[simp] theorem channel_modThread (t : Nat) (f : Thread → Thread) (k : Nat) : (s.modThread t f).channel k = s.channel k := rfl
@[simp] theorem core_modTh (f : Thread → Thread) (k : Nat) : (s.modTh f).core k = s.core k := rfl
@[simp] theorem cluster_modTh (f : Thread → Thread) (k : Nat) : (s.modTh f).cluster k = s.cluster k := rfl
@[simp] theorem part_modTh (f : Thread → Thread) (k : Nat) : (s.modTh f).part k = s.part k := rfl
@[simp] theorem channel_modTh (f : Thread → Thread) (k : Nat) : (s.modTh f).channel k = s.channel k := rfl
@[simp] theorem thread_setCore (c : Nat) (x : Core) (k : Nat) : (s.setCore c x).thread k = s.thread k := rfl
@[simp] theorem cluster_setCore (c : Nat) (x : Core) (k : Nat) : (s.setCore c x).cluster k = s.cluster k := rfl
@[simp] theorem part_setCore (c : Nat) (x : Core) (k : Nat) : (s.setCore c x).part k = s.part k := rfl
@[simp] theorem channel_setCore (c : Nat) (x : Core) (k : Nat) : (s.setCore c x).channel k = s.channel k := rfl
@[simp] theorem thread_modCore (c : Nat) (f : Core → Core) (k : Nat) : (s.modCore c f).thread k = s.thread k := rfl
@[simp] theorem cluster_modCore (c : Nat) (f : Core → Core) (k : Nat) : (s.modCore c f).cluster k = s.cluster k := rfl
@[simp] theorem part_modCore (c : Nat) (f : Core → Core) (k : Nat) : (s.modCore c f).part k = s.part k := rfl
@[simp] theorem channel_modCore (c : Nat) (f : Core → Core) (k : Nat) : (s.modCore c f).channel k = s.channel k := rfl
@[simp] theorem thread_modMyCore (f : Core → Core) (k : Nat) : (s.modMyCore f).thread k = s.thread k := rfl
@[simp] theorem cluster_modMyCore (f : Core → Core) (k : Nat) : (s.modMyCore f).cluster k = s.cluster k := rfl
@[simp] theorem part_modMyCore (f : Core → Core) (k : Nat) : (s.modMyCore f).part k = s.part k := rfl
@[simp] theorem channel_modMyCore (f : Core → Core) (k : Nat) : (s.modMyCore f).channel k = s.channel k := rfl
@[simp] theorem thread_setCluster (c : Nat) (x : Cluster) (k : Nat) : (s.setCluster c x).thread k = s.thread k := rfl
@[simp] theorem core_setCluster (c : Nat) (x : Cluster) (k : Nat) : (s.setCluster c x).core k = s.core k := rfl
@[simp] theorem part_setCluster (c : Nat) (x : Cluster) (k : Nat) : (s.setCluster c x).part k = s.part k := rfl
@[simp] theorem channel_setCluster (c : Nat) (x : Cluster) (k : Nat) : (s.setCluster c x).channel k = s.channel k := rfl
@[simp] theorem thread_modCluster (c : Nat) (f : Cluster → Cluster) (k : Nat) : (s.modCluster c f).thread k = s.thread k := rfl
@[simp] theorem core_modCluster (c : Nat) (f : Cluster → Cluster) (k : Nat) : (s.modCluster c f).core k = s.core k := rfl
@[simp] theorem part_modCluster (c : Nat) (f : Cluster → Cluster) (k : Nat) : (s.modCluster c f).part k = s.part k := rfl
@[simp] theorem channel_modCluster (c : Nat) (f : Cluster → Cluster) (k : Nat) : (s.modCluster c f).channel k = s.channel k := rfl
@[simp] theorem thread_modMyCluster (f : Cluster → Cluster) (k : Nat) : (s.modMyCluster f).thread k = s.thread k := rfl
@[simp] theorem core_modMyCluster (f : Cluster → Cluster) (k : Nat) : (s.modMyCluster f).core k = s.core k := rfl
@[simp] theorem part_modMyCluster (f : Cluster → Cluster) (k : Nat) : (s.modMyCluster f).part k = s.part k := rfl
@[simp] theorem channel_modMyCluster (f : Cluster → Cluster) (k : Nat) : (s.modMyCluster f).channel k = s.channel k := rfl
@[simp] theorem thread_setPart (p : Nat) (x : Part) (k : Nat) : (s.setPart p x).thread k = s.thread k := rfl
@[simp] theorem core_setPart (p : Nat) (x : Part) (k : Nat) : (s.setPart p x).core k = s.core k := rfl
@[simp] theorem cluster_setPart (p : Nat) (x : Part) (k : Nat) : (s.setPart p x).cluster k = s.cluster k := rfl
@[simp] theorem channel_setPart (p : Nat) (x : Part) (k : Nat) : (s.setPart p x).channel k = s.channel k := rfl
@[simp] theorem thread_modPart (p : Nat) (f : Part → Part) (k : Nat) : (s.modPart p f).thread k = s.thread k := rfl
@[simp] theorem core_modPart (p : Nat) (f : Part → Part) (k : Nat) : (s.modPart p f).core k = s.core k := rfl
@[simp] theorem cluster_modPart (p : Nat) (f : Part → Part) (k : Nat) : (s.modPart p f).cluster k = s.cluster k := rfl
@[simp] theorem channel_modPart (p : Nat) (f : Part → Part) (k : Nat) : (s.modPart p f).channel k = s.channel k := rfl
@[simp] theorem thread_setChannel (c : Nat) (x : Channel) (k : Nat) : (s.setChannel c x).thread k = s.thread k := rfl
@[simp] theorem core_setChannel (c : Nat) (x : Channel) (k : Nat) : (s.setChannel c x).core k = s.core k := rfl
@[simp] theorem cluster_setChannel (c : Nat) (x : Channel) (k : Nat) : (s.setChannel c x).cluster k = s.cluster k := rfl
@[simp] theorem part_setChannel (c : Nat) (x : Channel) (k : Nat) : (s.setChannel c x).part k = s.part k := rfl
@[simp] theorem thread_post (d : Nat) (i : Instr) (e : Ev) (k : Nat) : (s.post d i e).thread k = s.thread k := rfl
@[simp] theorem core_post (d : Nat) (i : Instr) (e : Ev) (k : Nat) : (s.post d i e).core k = s.core k := rfl
@[simp] theorem cluster_post (d : Nat) (i : Instr) (e : Ev) (k : Nat) : (s.post d i e).cluster k = s.cluster k := rfl
@[simp] theorem part_post (d : Nat) (i : Instr) (e : Ev) (k : Nat) : (s.post d i e).part k = s.part k := rfl
@[simp] theorem channel_post (d : Nat) (i : Instr) (e : Ev) (k : Nat) : (s.post d i e).channel k = s.channel k := rfl
@[simp] theorem thread_postNow (i : Instr) (e : Ev) (k : Nat) : (s.postNow i e).thread k = s.thread k := rfl
@[simp] theorem core_postNow (i : Instr) (e : Ev) (k : Nat) : (s.postNow i e).core k = s.core k := rfl
@[simp] theorem cluster_postNow (i : Instr) (e : Ev) (k : Nat) : (s.postNow i e).cluster k = s.cluster k := rfl
@[simp] theorem part_postNow (i : Instr) (e : Ev) (k : Nat) : (s.postNow i e).part k = s.part k := rfl
@[simp] theorem channel_postNow (i : Instr) (e : Ev) (k : Nat) : (s.postNow i e).channel k = s.channel k := rfl

end Sys2Proof.Machine.State
end

