-- ==== Sys2Proof/Laws/Memory.lean ====
section
/-! SUPPORT. What the memory operations do to chip memory: which of them leave it alone, and that those that write it
keep its canonical form. -/

namespace Sys2Proof.Machine

variable {s s' : State}

/-- A fold whose steps keep a property keeps it. -/
theorem foldl_keeps {α σ : Type} {P : σ → Prop} (f : σ → α → σ) (h : ∀ s x, P s → P (f s x)) (xs : List α) (s : σ)
    (hs : P s) : P (xs.foldl f s) := by
  induction xs generalizing s with
  | nil => exact hs
  | cons x xs ih => exact ih _ (h s x hs)

/-- A fold whose steps leave a part alone leaves it alone. -/
theorem foldl_same {α σ β : Type} (g : σ → β) (f : σ → α → σ) (h : ∀ s x, g (f s x) = g s) (xs : List α) (s : σ) :
    g (xs.foldl f s) = g s :=
  foldl_keeps (P := fun t => g t = g s) f (fun t x ht => (h t x).trans ht) xs s rfl

/-! ### Operations that leave chip memory alone -/

@[simp] theorem post_mem (s : State) (d : Nat) (i : Instr) (e : Ev) : (s.post d i e).mem = s.mem := rfl
@[simp] theorem postNow_mem (s : State) (i : Instr) (e : Ev) : (s.postNow i e).mem = s.mem := rfl
@[simp] theorem soil_mem (s : State) (cs : List Host.Cell) : (s.soil cs).mem = s.mem := rfl

@[simp] theorem clearChip_mem (s : State) (cs : List Host.Cell) : (s.clearChip cs).mem = s.mem := by
  unfold State.clearChip; split <;> rfl

@[simp] theorem clearSpad_mem (s : State) (cl off n : Nat) : (s.clearSpad cl off n).mem = s.mem := by
  unfold State.clearSpad; split <;> rfl

@[simp] theorem clearTcm_mem (s : State) (c off n : Nat) : (s.clearTcm c off n).mem = s.mem := by
  unfold State.clearTcm; split <;> rfl

/-- Scratchpad and local TCM writes leave chip memory alone. -/
@[simp] theorem spadWrite_mem (s : State) (cl off n v : Nat) : (s.spadWrite cl off n v).mem = s.mem := by
  simp [State.spadWrite]

@[simp] theorem tcmWrite_mem (s : State) (c off n v : Nat) : (s.tcmWrite c off n v).mem = s.mem := by
  simp [State.tcmWrite]

@[simp] theorem bankWrite_mem (s : State) (cl key v : Nat) : (s.bankWrite cl key v).mem = s.mem := by
  unfold State.bankWrite; dsimp only; split <;> rfl

/-- What the home slices hold says nothing about the bytes of chip memory. -/
@[simp] theorem sliceDrop_mem (s : State) (l : Nat) : (s.sliceDrop l).mem = s.mem := rfl

@[simp] theorem sliceUse_mem (s : State) (l : Nat) (f : SliceLine → SliceLine) : (s.sliceUse l f).mem = s.mem := by
  unfold State.sliceUse
  split
  · rfl
  · dsimp only
    split
    · rfl
    · split
      · rfl
      · split <;> rfl

@[simp] theorem sliceLoad_mem (s : State) (pa n : Nat) : (s.sliceLoad pa n).mem = s.mem := sliceUse_mem _ _ _
@[simp] theorem sliceStore_mem (s : State) (l : Nat) (cs : List Host.Cell) : (s.sliceStore l cs).mem = s.mem :=
  sliceUse_mem _ _ _

@[simp] theorem sliceClean_mem (s : State) (l : Nat) : (s.sliceClean l).mem = s.mem := by
  unfold State.sliceClean; split <;> rfl

@[simp] theorem leaveBank_mem (s : State) (t : Nat) : (s.leaveBank t).mem = s.mem := by
  unfold State.leaveBank; split <;> rfl

@[simp] theorem clearArea_mem (s : State) (t : Nat) : (s.clearArea t).mem = s.mem := by
  unfold State.clearArea; split <;> rfl

@[simp] theorem abort_mem (s : State) (t : Nat) : (s.abort t).mem = s.mem := by
  unfold State.abort
  split
  · dsimp only; simp
  · rfl

@[simp] theorem minChanged_mem (s : State) (t : Nat) : (s.minChanged t).mem = s.mem := by
  unfold State.minChanged; dsimp only; split <;> rfl

@[simp] theorem undoXsel_mem (s : State) (t : Nat) : (s.undoXsel t).mem = s.mem := by
  unfold State.undoXsel; split <;> rfl

@[simp] theorem poisonAlong_mem (s : State) (c l : Nat) (out : Bool) : (s.poisonAlong c l out).mem = s.mem := by
  unfold State.poisonAlong; split <;> rfl

@[simp] theorem abortReaders_mem (s : State) (w : Writer) (pa : Nat) : (s.abortReaders w pa).mem = s.mem := by
  unfold State.abortReaders
  apply foldl_same (fun t : State => t.mem)
  intro t x
  dsimp only
  split
  · exact abort_mem _ _
  · rfl

@[simp] theorem event_mem (s : State) (p k c : Nat) (a i : Word) : (s.event p k c a i).mem = s.mem := by
  unfold State.event; dsimp only; split <;> rfl

@[simp] theorem withdrawCluster_mem (s : State) (cl : Nat) : (s.withdrawCluster cl).mem = s.mem := by
  unfold State.withdrawCluster
  split
  · rfl
  · dsimp only
    rw [foldl_same (fun t : State => t.mem) _ (fun _ _ => by simp)]
    simp

@[simp] theorem recordRead_mem (s : State) (t pa : Nat) : (s.recordRead t pa).mem = s.mem := by
  unfold State.recordRead
  dsimp only
  split
  · split <;> rfl
  · rfl

@[simp] theorem newSegment_mem (s : State) (t : Nat) : (s.newSegment t).mem = s.mem := by
  unfold State.newSegment
  dsimp only
  split
  · split <;> simp
  · simp

@[simp] theorem startRecompute_mem (s : State) (l : Nat) : (s.startRecompute l).mem = s.mem := by
  unfold State.startRecompute
  split
  · rfl
  · split
    · rfl
    · simp only [post_mem, sliceUse_mem]

@[simp] theorem clearPending_mem (s : State) (k : Pend) : (s.clearPending k).mem = s.mem := rfl

/-- A register write, a last-use mark and the end of an instruction leave chip memory alone. -/
@[simp] theorem eretTo_mem (s : State) (l : Level) : (s.eretTo l).mem = s.mem := rfl

theorem popPort_mem {n : Nat} {v : Word} (h : s.popPort n = some (v, s')) : s'.mem = s.mem := by
  unfold State.popPort at h
  split at h <;> split at h <;> try split at h
  all_goals first | (cases h; done) | (simp only [Option.some.injEq, Prod.mk.injEq] at h; rw [← h.2]; rfl)

theorem pushPort_mem {n : Nat} {v : Word} (h : s.pushPort n v = some s') : s'.mem = s.mem := by
  unfold State.pushPort at h
  split at h <;> split at h <;> first | (cases h; done) | (cases h; rfl)

@[simp] theorem complete_mem (s : State) : s.complete.mem = s.mem := by
  unfold State.complete; dsimp only; split <;> rfl

@[simp] theorem taken_mem (s : State) (a : Word) : (s.taken a).mem = s.mem := rfl

/-! ### Operations that write chip memory -/

/-- The bytes of chip memory after some have arrived at the home slices. -/
@[simp] theorem chipPut_mem (s : State) (cs : List Host.Cell) : (s.chipPut cs).mem = writeCells s.mem cs := by
  unfold State.chipPut
  dsimp only
  rw [foldl_same (fun t : State => t.mem) _ (fun t l => by simp)]
  simp

/-- The bytes of chip memory after a write at the home slices. -/
@[simp] theorem chipWrite_mem (s : State) (w : Writer) (cs : List Host.Cell) :
    (s.chipWrite w cs).mem = writeCells s.mem cs := by
  unfold State.chipWrite
  dsimp only
  rw [foldl_same (fun t : State => t.mem) _ (fun t l => by simp)]
  simp

theorem chipWrite_wf (w : Writer) (cs : List Host.Cell) (h : smWf (0 : Byte) s.mem = true) :
    smWf (0 : Byte) (s.chipWrite w cs).mem = true := by
  rw [chipWrite_mem]; exact writeCells_wf _ _ h

/-- An overflow line of the TCM goes to its place in the backing window. -/
theorem writeBack_wf (c l : Nat) (h : smWf (0 : Byte) s.mem = true) : smWf (0 : Byte) (s.writeBack c l).mem = true := by
  unfold State.writeBack
  dsimp only
  rw [poisonAlong_mem]
  dsimp only
  rw [chipPut_mem]; exact writeCells_wf _ _ h

@[simp] theorem fillLine_mem (s : State) (c l : Nat) : (s.fillLine c l).mem = s.mem := by simp [State.fillLine]

theorem l1Install_wf (c l : Nat) (tcm dirty : Bool) (h : smWf (0 : Byte) s.mem = true) :
    smWf (0 : Byte) (s.l1Install c l tcm dirty).mem = true := by
  have h1 (s : State) (hs : smWf (0 : Byte) s.mem = true) :
      smWf (0 : Byte) (if tcm = true then s.fillLine c l else s.sliceLoad (l * 64) 64).mem = true := by
    split <;> simpa using hs
  unfold State.l1Install
  dsimp only
  split
  · exact h
  · apply h1
    split
    · split
      · exact writeBack_wf _ _ h
      · exact h
    · exact h

theorem l1Touch_wf (c l : Nat) (tcm dirty : Bool) (h : smWf (0 : Byte) s.mem = true) :
    smWf (0 : Byte) (s.l1Touch c l tcm dirty).mem = true := l1Install_wf _ _ _ _ h

theorem tcmTouch_wf (c off : Nat) (dirty : Bool) (h : smWf (0 : Byte) s.mem = true) :
    smWf (0 : Byte) (s.tcmTouch c off dirty).mem = true := by
  unfold State.tcmTouch
  split
  · exact h
  · exact l1Touch_wf _ _ _ _ h

/-- A moving unit is settled in canonical form. -/
theorem boundaryTo_wf (c m : Nat) (h : smWf (0 : Byte) s.mem = true) : smWf (0 : Byte) (s.boundaryTo c m).mem = true := by
  have back (xs : List L1Line) (s : State) (h : smWf (0 : Byte) s.mem = true) : smWf (0 : Byte) (xs.foldl
      (fun (s : State) x => if x.dirty && x.tcm then s.writeBack c x.line else s) s).mem = true := by
    refine foldl_keeps (P := fun t : State => smWf (0 : Byte) t.mem = true) _ (fun t x ht => ?_) xs s h
    split
    · exact writeBack_wf _ _ ht
    · exact ht
  unfold State.boundaryTo
  dsimp only
  split
  · rw [State.modCore_mem]
    apply back
    rw [foldl_same (fun t : State => t.mem) _ (fun t l => by split <;> simp)]
    exact h
  · rw [State.modCore_mem]
    exact foldl_keeps (P := fun t : State => smWf (0 : Byte) t.mem = true) _ (fun t l ht => writeBack_wf _ _ ht) _ s h

theorem unitSettle_wf (c off : Nat) (h : smWf (0 : Byte) s.mem = true) :
    smWf (0 : Byte) (s.unitSettle c off).mem = true := by
  unfold State.unitSettle
  split
  · split
    · exact boundaryTo_wf _ _ h
    · exact h
  · exact h

theorem tcmStore_wf (c off n v : Nat) (h : smWf (0 : Byte) s.mem = true) :
    smWf (0 : Byte) (s.tcmStore c off n v).mem = true := by
  unfold State.tcmStore
  rw [tcmWrite_mem]
  exact tcmTouch_wf _ _ _ (unitSettle_wf _ _ h)

/-- A frame or record write: chip memory is unchanged, it takes what the L1 writes back for a TCM place, or the eight bytes
at its physical address are written. -/
theorem frameWrite_mem {p c : Nat} {a v : Word} (h : s.frameWrite p c a v = .ok s') :
    s'.mem = s.mem ∨ (∃ off, s.framePlace p c .store a = .ok (.tcm off) ∧ s'.mem = (s.tcmStore c off 8 v.toNat).mem) ∨
    ∃ pa, s.framePlace p c .store a = .ok (.chip pa) ∧ s'.mem = writeCells s.mem (cellsOf pa 8 v.toNat) := by
  unfold State.frameWrite at h
  split at h <;> simp only [Except.ok.injEq, reduceCtorEq] at h <;> subst h
  · exact .inr (.inl ⟨_, by assumption, rfl⟩)
  · exact .inl (spadWrite_mem ..)
  · exact .inr (.inr ⟨_, by assumption, by rw [chipWrite_mem]; rfl⟩)

theorem frameWrite_wf {p c : Nat} {a v : Word} (hs : smWf (0 : Byte) s.mem = true) (h : s.frameWrite p c a v = .ok s') :
    smWf (0 : Byte) s'.mem = true := by
  obtain e | ⟨off, -, e⟩ | ⟨pa, -, e⟩ := frameWrite_mem h <;> rw [e]
  · exact hs
  · exact tcmStore_wf _ _ _ _ hs
  · exact writeCells_wf _ _ hs

theorem markFaulted_wf (t : Nat) (f : Flt) (h : smWf (0 : Byte) s.mem = true) :
    smWf (0 : Byte) (s.markFaulted t f).mem = true := by
  have h1 : smWf (0 : Byte) (s.leaveBank t).mem = true := by simpa using h
  unfold State.markFaulted
  dsimp only
  rw [event_mem, minChanged_mem, State.modPart_mem, State.modThread_mem]
  split
  · exact frameWrite_wf h1 (by assumption)
  · exact h1

/-- A nested fault stops its continuation in canonical form. -/
theorem nestedFault_wf (t : Nat) (f : Flt) (h : smWf (0 : Byte) s.mem = true) :
    smWf (0 : Byte) (s.nestedFault t f).mem = true := by
  have h1 : smWf (0 : Byte) (s.modThread t Thread.emptied).mem = true := h
  unfold State.nestedFault
  apply markFaulted_wf
  split
  · exact frameWrite_wf h1 (by assumption)
  · exact h1

theorem frameFault_wf (t : Nat) (f : Flt) (h : smWf (0 : Byte) s.mem = true) :
    smWf (0 : Byte) (s.frameFault t f).mem = true := by
  unfold State.frameFault
  dsimp only
  split
  · split <;> exact h
  · exact nestedFault_wf _ _ h

/-- ST and WAIT of a record are written in canonical form. -/
theorem putWait_wf (t st k : Nat) (o : Word) (h : smWf (0 : Byte) s.mem = true) :
    smWf (0 : Byte) (s.putWait t st k o).mem = true := by
  have h0 : smWf (0 : Byte) (s.modThread t (fun x => { x with st := st })).mem = true := h
  unfold State.putWait
  dsimp only
  split
  · exact h
  · split
    · exact frameFault_wf _ _ h0
    · rename_i h1
      have h1 := frameWrite_wf h0 h1
      split
      · exact frameFault_wf _ _ h1
      · exact frameWrite_wf h1 (by assumption)

/-- What a wait sets going keeps the canonical form. -/
theorem arm_wf (w : Why) (h : smWf (0 : Byte) s.mem = true) : smWf (0 : Byte) (s.arm w).mem = true := by
  have held (k : Nat) (o : Word) : smWf (0 : Byte) (s.armHeld k o).mem = true := by
    unfold State.armHeld
    dsimp only
    rw [post_mem, minChanged_mem]
    exact putWait_wf (s := s.modTh (fun t => { t with between := true, sig := [] })) s.cur 4 k o h
  induction w
  case entering ch w ih => exact ih
  case channel => exact held _ _
  case phaseEntry => exact held _ _
  case word => exact held _ _
  case pod => exact held _ _
  case stale => simpa [State.arm] using h
  case tlb =>
    simp only [State.arm]
    rw [foldl_same (fun t : State => t.mem) _ (fun _ _ => by simp)]
    exact h
  all_goals exact h

theorem park_wf (w : Why) (h : smWf (0 : Byte) s.mem = true) : smWf (0 : Byte) (s.park w).mem = true := by
  have h1 : smWf (0 : Byte) ((s.modTh (fun t => { t with wait := some ⟨w, s.clk⟩ })).arm w).mem = true := arm_wf w h
  unfold State.park
  split
  · split
    · exact h
    · exact h1
  · exact h1

/-- The handler of a fault is entered in canonical form. -/
theorem enterHandler_wf (t : Nat) (f : Flt) (h : smWf (0 : Byte) s.mem = true) :
    smWf (0 : Byte) (s.enterHandler t f).mem = true := by
  have h0 : smWf (0 : Byte) (s.leaveBank t).mem = true := by simpa using h
  have h1 : smWf (0 : Byte) (if ((s.leaveBank t).thread t).st = 4 then ((s.leaveBank t).putWait t 2 0 0).minChanged t
      else s.leaveBank t).mem = true := by
    split
    · rw [minChanged_mem]; exact putWait_wf _ _ _ _ h0
    · exact h0
  unfold State.enterHandler
  dsimp only
  generalize (if ((s.leaveBank t).thread t).st = 4 then ((s.leaveBank t).putWait t 2 0 0).minChanged t
      else s.leaveBank t) = u at h1 ⊢
  split
  · exact h1
  · exact h1

/-- Taking a fault keeps the canonical form. -/
theorem deliver_wf (t : Nat) (f : Flt) (h : smWf (0 : Byte) s.mem = true) :
    smWf (0 : Byte) (s.deliver t f).mem = true := by
  unfold State.deliver
  dsimp only
  split
  · simpa using h
  split
  · simpa using h
  split
  · exact nestedFault_wf _ _ h
  split
  · exact nestedFault_wf _ _ h
  · exact enterHandler_wf _ _ (frameWrite_wf h (by assumption))

theorem raise_wf (t : Nat) (f : Flt) (h : smWf (0 : Byte) s.mem = true) :
    smWf (0 : Byte) (s.raise t f).mem = true := by
  have h0 : smWf (0 : Byte) ((s.undoXsel t).modThread t (fun t => { t with lineFault := none }.closeCapture)).mem = true := by
    simpa using h
  have h1 (c : Prop) [Decidable c] (a b : State) (ha : smWf (0 : Byte) a.mem = true) (hb : smWf (0 : Byte) b.mem = true) :
      smWf (0 : Byte) (if c then a else b).mem = true := by split <;> assumption
  have h2 (c : Prop) [Decidable c] (u : State) (a i : Word) (p k x : Nat) (y : Thread)
      (hu : smWf (0 : Byte) u.mem = true) :
      smWf (0 : Byte) (if c then (u.event p k x a i).setThread t y else u).mem = true :=
    h1 _ _ _ (by simpa using hu) hu
  unfold State.raise
  dsimp only
  apply h1
  · simpa using h0
  apply h1
  · exact deliver_wf _ _ (h2 _ _ _ _ _ _ _ _ h0)
  apply h1
  · rw [State.setThread_mem]; exact h2 _ _ _ _ _ _ _ _ h0
  apply h1
  · rw [post_mem, State.setThread_mem]; exact h2 _ _ _ _ _ _ _ _ h0
  · exact deliver_wf _ _ (h2 _ _ _ _ _ _ _ _ h0)

theorem ringWrite_wf (p : Nat) (fab : Bool) (ws : List Word) (h : smWf (0 : Byte) s.mem = true) :
    smWf (0 : Byte) (s.ringWrite p fab ws).mem = true := by
  have h1 (c : Prop) [Decidable c] (a : State) (p x y : Nat) (u v : Word) :
      (if c then a.event p x y u v else a).mem = a.mem := by split <;> simp
  unfold State.ringWrite
  dsimp only
  rw [h1]
  rw [State.modPart_mem]
  split
  · split
    · exact chipWrite_wf _ _ h
    · exact h
  · exact h

theorem raceLog_wf (w : Writer) (l : Nat) (h : smWf (0 : Byte) s.mem = true) :
    smWf (0 : Byte) (s.raceLog w l).mem = true := by
  unfold State.raceLog
  split
  · split
    · exact h
    · split
      · exact ringWrite_wf _ _ _ h
      · exact h
  · exact h

/-- A recomputed line is installed in canonical form. -/
theorem install_wf (l v : Nat) (h : smWf (0 : Byte) s.mem = true) : smWf (0 : Byte) (s.install l v).mem = true := by
  simpa [State.install] using writeCells_wf s.mem (cellsOf (l * 256) 256 v) h

theorem filter_wfFrom (p : Host.Cell → Bool) (m : List Host.Cell) (b : Nat) (h : smWfFrom (0 : Byte) b m = true) :
    smWfFrom (0 : Byte) b (m.filter p) = true := by
  induction m generalizing b with
  | nil => rfl
  | cons x m ih =>
    obtain ⟨j, w⟩ := x
    simp only [smWfFrom, Bool.and_eq_true, decide_eq_true_eq] at h
    obtain ⟨⟨h1, h2⟩, h3⟩ := h
    simp only [List.filter]
    split
    · simp only [smWfFrom, Bool.and_eq_true, decide_eq_true_eq]
      exact ⟨⟨h1, h2⟩, ih _ h3⟩
    · exact smWfFrom_mono _ _ b (j + 1) (by omega) (ih _ h3)

/-- Removing bytes keeps the canonical form. -/
theorem filter_wf (p : Host.Cell → Bool) (m : List Host.Cell) (h : smWf (0 : Byte) m = true) :
    smWf (0 : Byte) (m.filter p) = true := filter_wfFrom p m 0 h

/-- A scratchpad write keeps the canonical form of the banks. -/
theorem cluster_write_wf (k : Cluster) (off n v : Nat) (h : smWf (0 : Byte) k.spad = true) :
    smWf (0 : Byte) (k.write off n v).spad = true := by
  induction n generalizing k off v with
  | zero => exact h
  | succ n ih => exact ih _ _ _ (smSet_wf 0 _ _ _ h)

/-- The memory of the machine at reset is canonical. -/
theorem reset_wf : smWf (0 : Byte) State.reset.mem = true := rfl

end Sys2Proof.Machine
end

