-- ==== Sys2Proof/Laws/Sem.lean ====
section
/-! SUPPORT. The laws of `Sem`: sequences, guards, how an instruction ends, and one lemma per shared operation over
registers, which says what it answers. -/

namespace Sys2Proof.Machine

variable {α β : Type} {s s1 s2 : State}

/-! ### Sequences -/

theorem bind_ok {m : Sem α} {f : α → Sem β} {a : α} (h : m s = .ok a s1) : (m >>= f) s = f a s1 := by
  simp only [bind, EStateM.bind, h]

theorem bind_error {m : Sem α} {f : α → Sem β} {e : Stop} (h : m s = .error e s1) : (m >>= f) s = .error e s1 := by
  simp only [bind, EStateM.bind, h]

/-- A sequence that completes: both of its parts do. -/
theorem bind_inv {m : Sem α} {f : α → Sem β} {b : β} (h : (m >>= f) s = .ok b s2) :
    ∃ a s1, m s = .ok a s1 ∧ f a s1 = .ok b s2 := by
  simp only [bind, EStateM.bind] at h
  split at h
  · exact ⟨_, _, by assumption, h⟩
  · exact nomatch h

/-- A sequence that stops: its first part does, or its second part after it. -/
theorem bind_error_inv {m : Sem α} {f : α → Sem β} {e : Stop} (h : (m >>= f) s = .error e s2) :
    m s = .error e s2 ∨ ∃ a s1, m s = .ok a s1 ∧ f a s1 = .error e s2 := by
  simp only [bind, EStateM.bind] at h
  split at h
  · exact .inr ⟨_, _, by assumption, h⟩
  · rename_i e' s' h1
    cases h
    exact .inl h1

@[simp] theorem pure_apply (a : α) : (pure a : Sem α) s = .ok a s := rfl
@[simp] theorem get_apply : (get : Sem State) s = .ok s s := rfl
@[simp] theorem set_apply : (set s1 : Sem Unit) s = .ok () s1 := rfl
@[simp] theorem modify_apply (f : State → State) : (modify f : Sem Unit) s = .ok () (f s) := rfl
@[simp] theorem trap_apply (c : Nat) (w : Word) : (trap c w : Sem α) s = .error (.trap ⟨c, w⟩) s := rfl
@[simp] theorem block_apply (w : Why) : (block w : Sem α) s = .error (.block w) s := rfl
@[simp] theorem illegalOp_apply : (illegalOp : Sem α) s = .error (.trap ⟨cILLEGAL, s.baseInfo⟩) s := rfl
@[simp] theorem priv_apply : (priv : Sem α) s = .error (.trap ⟨cPRIV, s.baseInfo⟩) s := rfl

/-- A conditional of two computations. -/
theorem ite_sem (c : Prop) [Decidable c] (m n : Sem α) : (if c then m else n) s = if c then m s else n s := by
  split <;> rfl

theorem get_bind (f : State → Sem β) : ((get : Sem State) >>= f) s = f s s := rfl

/-! ### Guards -/

theorem loopGuard_ok (tr : Bool) (h : s.fits tr) : loopGuard tr s = .ok () s := by
  unfold State.fits at h
  rw [loopGuard, get_bind]
  dsimp only
  by_cases hb : inBody s.th.loopst s.pc
  · obtain ⟨h1, h2⟩ := h hb
    rw [if_pos hb, if_neg]
    · rfl
    · simp only [Bool.or_eq_true, decide_eq_true_eq, Bool.and_eq_true, beq_iff_eq, not_or, not_and]
      exact ⟨Nat.not_lt.2 h1, h2⟩
  · rw [if_neg hb]; rfl

/-- The loop guard lets the instruction go on, or answers ILLEGAL_OP; it changes nothing. -/
theorem loopGuard_cases (tr : Bool) :
    loopGuard tr s = .ok () s ∨ loopGuard tr s = .error (.trap ⟨cILLEGAL, s.baseInfo⟩) s := by
  rw [loopGuard, get_bind]
  dsimp only
  split
  · split
    · exact .inr rfl
    · exact .inl rfl
  · exact .inl rfl

theorem needLevel_ok (l : Level) (h : l.toNat ≤ s.th.level.toNat) : needLevel l s = .ok () s := by
  rw [needLevel, get_bind, if_neg (Nat.not_lt.2 h)]; rfl

theorem needLevel_priv (l : Level) (h : s.th.level.toNat < l.toNat) :
    needLevel l s = .error (.trap ⟨cPRIV, s.baseInfo⟩) s := by
  rw [needLevel, get_bind, if_pos h]; rfl

theorem irrevocable_ok (h : s.speculative s.th = false) : irrevocable s = .ok () s := by
  simp [irrevocable, get_bind, h]

theorem irrevocable_cases : irrevocable s = .ok () s ∨ irrevocable s = .error (.block .spec) s := by
  cases h : s.speculative s.th
  · exact .inl (irrevocable_ok h)
  · exact .inr (by simp [irrevocable, get_bind, h])

theorem noTest_ok (h : s.myCore.test = false) : noTest s = .ok () s := by
  simp [noTest, get_bind, h]

/-! ### How an instruction ends -/

theorem plain_ok {b : Sem Unit} (h : s.fits false) (hb : b s = .ok () s1) : plain b s = .next s1.done := by
  unfold plain Sem.run
  rw [bind_ok (loopGuard_ok false h), bind_ok hb]
  rfl

theorem plain_trap {b : Sem Unit} {f : Flt} (h : s.fits false) (hb : b s = .error (.trap f) s1) :
    plain b s = .next (s1.raise s1.cur f) ∨ plain b s = .next (s.raise s.cur f) := by
  unfold plain Sem.run
  rw [bind_ok (loopGuard_ok false h), bind_error hb]
  exact .inr rfl

theorem plain_block {b : Sem Unit} {w : Why} (h : s.fits false) (hb : b s = .error (.block w) s1) :
    plain b s = .next (s.park w) := by
  unfold plain Sem.run
  rw [bind_ok (loopGuard_ok false h), bind_error hb]

theorem privileged_ok {l : Level} {b : Sem Unit} (hl : l.toNat ≤ s.th.level.toNat) (h : s.fits false)
    (hb : b s = .ok () s1) : privileged l b s = .next s1.done := by
  unfold privileged Sem.run
  rw [bind_ok (needLevel_ok l hl), bind_ok (loopGuard_ok false h), bind_ok hb]
  rfl

/-- Below its level a privileged instruction raises PRIV, before the faults of its execution (R55, R56). -/
theorem privileged_priv {l : Level} {b : Sem Unit} (hl : s.th.level.toNat < l.toNat) :
    privileged l b s = .next (s.raise s.cur ⟨cPRIV, s.baseInfo⟩) := by
  unfold privileged Sem.run
  rw [bind_error (needLevel_priv l hl)]

theorem moving_ok {b : Sem Unit} (h : s.fits false) (hb : b s = .ok () s1) : moving b s = .next s1 := by
  unfold moving Sem.run
  rw [bind_ok (loopGuard_ok false h), hb]

theorem transfer_ok {b : Sem Unit} (h : s.fits true) (hb : b s = .ok () s1) : transfer b s = .next s1 := by
  unfold transfer Sem.run
  rw [bind_ok (loopGuard_ok true h), hb]

/-- A `Sem` always gives a next state: what it did, a fault taken, or a wait. -/
theorem run_next (m : Sem Unit) (s : State) : ∃ t, m.run s = .next t := by
  unfold Sem.run
  split <;> exact ⟨_, rfl⟩

/-- What an instruction over `plain` answers. -/
theorem run_cases {m : Sem Unit} {t : State} (h : m.run s = .next t) :
    m s = .ok () t ∨ (∃ f s', m s = .error (.trap f) s' ∧ t = s.raise s.cur f) ∨
    (∃ k f s', m s = .error (.pending k f) s' ∧ t = (s.clearPending k).raise s.cur f) ∨
    (∃ w s', m s = .error (.block w) s' ∧ t = s.park w) := by
  unfold Sem.run at h
  split at h <;> cases h
  · exact .inl (by assumption)
  · exact .inr (.inl ⟨_, _, by assumption, rfl⟩)
  · exact .inr (.inr (.inl ⟨_, _, _, by assumption, rfl⟩))
  · exact .inr (.inr (.inr ⟨_, _, by assumption, rfl⟩))

theorem plain_next (b : Sem Unit) (s : State) : ∃ t, plain b s = .next t := run_next _ s
theorem privileged_next (l : Level) (b : Sem Unit) (s : State) : ∃ t, privileged l b s = .next t := run_next _ s
theorem moving_next (b : Sem Unit) (s : State) : ∃ t, moving b s = .next t := run_next _ s
theorem transfer_next (b : Sem Unit) (s : State) : ∃ t, transfer b s = .next t := run_next _ s

/-- An instruction over `plain` that completes: its body did, and `advance` after it. -/
theorem plain_inv {b : Sem Unit} {t : State} (h : plain b s = .next t) :
    (∃ s1, b s = .ok () s1 ∧ t = s1.done) ∨ (∃ f, t = s.raise s.cur f) ∨
    (∃ k f, t = (s.clearPending k).raise s.cur f) ∨ ∃ w, t = s.park w := by
  obtain h1 | ⟨f, s', -, rfl⟩ | ⟨k, f, s', -, rfl⟩ | ⟨w, s', -, rfl⟩ := run_cases h
  · obtain ⟨_, s0, h0, h2⟩ := bind_inv h1
    obtain ⟨_, s1, h3, h4⟩ := bind_inv h2
    obtain g | g := loopGuard_cases (s := s) false
    · rw [g] at h0
      cases h0
      cases h4
      exact .inl ⟨s1, h3, rfl⟩
    · rw [g] at h0
      exact nomatch h0
  · exact .inr (.inl ⟨f, rfl⟩)
  · exact .inr (.inr (.inl ⟨k, f, rfl⟩))
  · exact .inr (.inr (.inr ⟨w, rfl⟩))

/-! ### Registers -/

/-- A read of an s register other than a port: s0 reads zero, and nothing changes. -/
theorem readS_reg (r : Reg) (h : r.toNat < 56) (ht : s.myCore.test = true → r.toNat < 16) :
    readS r s = .ok (if r.toNat = 0 then 0 else s.th.getS r.toNat) s := by
  simp only [readS, get_bind, ite_sem]
  rw [if_neg (by simp only [Bool.and_eq_true, decide_eq_true_eq, not_and]; intro e; exact Nat.not_le.2 (ht e)), if_pos h]
  split <;> rfl

/-- q0 and q1 are not read by scalar instructions (R67). -/
theorem readS_vu (r : Reg) (h : r.toNat = 56 ∨ r.toNat = 57) :
    readS r s = .error (.trap ⟨cILLEGAL, s.baseInfo⟩) s := by
  simp only [readS, get_bind, ite_sem]
  rw [if_neg (by omega : ¬r.toNat = 0), if_neg (by omega : ¬r.toNat < 56), if_pos (by omega : r.toNat < 58)]
  split <;> rfl

/-- A write of an s register other than a port: s0 discards it. -/
theorem writeS_reg (r : Reg) (v : Word) (h : r.toNat < 56) (ht : s.myCore.test = true → r.toNat < 16) :
    writeS r v s = .ok () (if r.toNat = 0 then s else s.modTh (fun t => t.setS r.toNat v)) := by
  simp only [writeS, get_bind, ite_sem]
  rw [if_neg (by simp only [Bool.and_eq_true, decide_eq_true_eq, not_and]; intro e; exact Nat.not_le.2 (ht e)), if_pos h]
  split <;> rfl

/-- q2 and q3 are not written by scalar instructions (R67). -/
theorem writeS_vu (r : Reg) (v : Word) (h : r.toNat = 58 ∨ r.toNat = 59) :
    writeS r v s = .error (.trap ⟨cILLEGAL, s.baseInfo⟩) s := by
  simp only [writeS, get_bind, ite_sem]
  rw [if_neg (by omega : ¬r.toNat = 0), if_neg (by omega : ¬r.toNat < 56), if_pos h]
  split <;> rfl

/-- What a completed write of an s register does: nothing, one register, or one port. -/
theorem writeS_cases {r : Reg} {v : Word} (h : writeS r v s = .ok () s1) :
    (r.toNat = 0 ∧ s1 = s) ∨ (0 < r.toNat ∧ r.toNat < 56 ∧ s1 = s.modTh (fun t => t.setS r.toNat v)) ∨
    (56 ≤ r.toNat ∧ s.pushPort r.toNat v = some s1) := by
  simp only [writeS, get_bind, ite_sem] at h
  by_cases ht : (s.myCore.test && decide (16 ≤ r.toNat)) = true
  · rw [if_pos ht] at h; exact nomatch h
  rw [if_neg ht] at h
  by_cases h0 : r.toNat = 0
  · rw [if_pos h0] at h; cases h; exact .inl ⟨h0, rfl⟩
  rw [if_neg h0] at h
  by_cases h5 : r.toNat < 56
  · rw [if_pos h5] at h; cases h; exact .inr (.inl ⟨by omega, h5, rfl⟩)
  rw [if_neg h5] at h
  by_cases h8 : r.toNat = 58 ∨ r.toNat = 59
  · rw [if_pos h8] at h; exact nomatch h
  rw [if_neg h8] at h
  cases hp : s.pushPort r.toNat v
  · rw [hp] at h; exact nomatch h
  · rw [hp] at h; cases h; exact .inr (.inr ⟨by omega, rfl⟩)

/-- What a completed read of an s register does: it changes nothing, or pops one port. -/
theorem readS_cases {r : Reg} {v : Word} (h : readS r s = .ok v s1) :
    (r.toNat = 0 ∧ v = 0 ∧ s1 = s) ∨ (0 < r.toNat ∧ r.toNat < 56 ∧ v = s.th.getS r.toNat ∧ s1 = s) ∨
    (58 ≤ r.toNat ∧ s.popPort r.toNat = some (v, s1)) := by
  simp only [readS, get_bind, ite_sem] at h
  by_cases ht : (s.myCore.test && decide (16 ≤ r.toNat)) = true
  · rw [if_pos ht] at h; exact nomatch h
  rw [if_neg ht] at h
  by_cases h0 : r.toNat = 0
  · rw [if_pos h0] at h; cases h; exact .inl ⟨h0, rfl, rfl⟩
  rw [if_neg h0] at h
  by_cases h5 : r.toNat < 56
  · rw [if_pos h5] at h; cases h; exact .inr (.inl ⟨by omega, h5, rfl, rfl⟩)
  rw [if_neg h5] at h
  by_cases h8 : r.toNat < 58
  · rw [if_pos h8] at h; exact nomatch h
  rw [if_neg h8] at h
  by_cases hv : (decide (r.toNat < 60) && s.th.pendVec.isSome) = true
  · rw [if_pos hv] at h
    cases hn : s.th.pendVec
    · simp [hn] at hv
    · rw [hn] at h; exact nomatch h
  rw [if_neg hv] at h
  cases hp : s.popPort r.toNat
  · rw [hp] at h; exact nomatch h
  · rw [hp] at h
    cases h
    exact .inr (.inr ⟨by omega, rfl⟩)

theorem readF_ok (r : Reg) (h : s.myCore.test = false) : readF r s = .ok (s.th.getF r.toNat) s := by
  rw [readF, bind_ok (noTest_ok h)]; rfl

theorem writeF_ok (r : Reg) (v : Word) (h : s.myCore.test = false) :
    writeF r v s = .ok () (s.modTh (fun t => t.setF r.toNat v)) := by
  rw [writeF, bind_ok (noTest_ok h)]; rfl

/-- A last-use mark: nothing, or the register is dead after it. -/
theorem killS_ok (r : Reg) (u : Bool) : killS r u s = .ok () (if u && decide (0 < r.toNat ∧ r.toNat < 56) && !s.myCore.test
    then s.modTh (fun t => { t with sregs := smSet .dead t.sregs r.toNat .dead }) else s) := by
  rw [killS, get_bind]
  split <;> rfl

theorem killF_ok (r : Reg) (u : Bool) : killF r u s = .ok () (if u
    then s.modTh (fun t => { t with fregs := smSet .dead t.fregs r.toNat .dead }) else s) := by
  rw [killF, get_bind]
  split <;> rfl

/-! ### A register's value after a write -/

@[simp] theorem Thread.getS_setS (t : Thread) (n : Nat) (v : Word) : (t.setS n v).getS n = v := by
  simp [Thread.getS, Thread.setS, RegSt.value]

theorem Thread.getS_setS_other (t : Thread) (n m : Nat) (v : Word) (h : m ≠ n) : (t.setS n v).getS m = t.getS m := by
  simp [Thread.getS, Thread.setS, smGet_smSet_other _ _ _ _ _ h]

@[simp] theorem Thread.getF_setF (t : Thread) (n : Nat) (v : Word) : (t.setF n v).getF n = v := by
  simp [Thread.getF, Thread.setF, RegSt.value]

theorem Thread.getF_setF_other (t : Thread) (n m : Nat) (v : Word) (h : m ≠ n) : (t.setF n v).getF m = t.getF m := by
  simp [Thread.getF, Thread.setF, smGet_smSet_other _ _ _ _ _ h]

end Sys2Proof.Machine
end

