-- ==== Sys2Proof/Laws/Stores.lean ====
section
/-! SUPPORT. Every byte store of the machine, chip memory, TCM and scratchpads, keeps its canonical form under the updates
of a state and under the operations that write bytes. -/

namespace Sys2Proof.Machine

variable {s : State}

/-- An entry of an updated map is an old one or the new one. -/
theorem mem_smSet {α : Type} [DecidableEq α] {z : α} {m : SMap α} {k : Nat} {v : α} {x : Nat × α}
    (h : x ∈ smSet z m k v) : x ∈ m ∨ x = (k, v) := by
  induction m with
  | nil =>
    unfold smSet at h
    split at h
    · cases h
    · exact .inr (List.mem_singleton.1 h)
  | cons y m ih =>
    obtain ⟨j, w⟩ := y
    unfold smSet at h
    split at h
    · split at h
      · exact (ih h).imp (List.mem_cons_of_mem _) id
      · exact (List.mem_cons.1 h).symm.imp (List.mem_cons_of_mem _) id
    · split at h
      · exact (List.mem_cons.1 h).symm
      · rcases List.mem_cons.1 h with rfl | h
        · exact .inl (List.mem_cons_self ..)
        · exact (ih h).imp (List.mem_cons_of_mem _) id

/-- A value read from a map is an entry of it, or the default. -/
theorem smGet_mem {α : Type} [DecidableEq α] (z : α) (m : SMap α) (k : Nat) : (k, smGet z m k) ∈ m ∨ smGet z m k = z := by
  induction m with
  | nil => exact .inr rfl
  | cons y m ih =>
    obtain ⟨j, w⟩ := y
    unfold smGet
    split
    · next e => exact .inl (by rw [e]; exact List.mem_cons_self ..)
    · exact ih.imp (List.mem_cons_of_mem _) id

theorem memWf_iff : s.memWf = true ↔ smWf (0 : Byte) s.mem = true ∧ (∀ x ∈ s.cores, smWf (0 : Byte) x.2.tcm = true) ∧
    (∀ x ∈ s.clusters, smWf (0 : Byte) x.2.spad = true) := by
  simp only [State.memWf, Bool.and_eq_true, List.all_eq_true, and_assoc]

/-- The TCM of each core and the scratchpad of each cluster of such a state. -/
theorem tcm_wf (h : s.memWf = true) (c : Nat) : smWf (0 : Byte) (s.core c).tcm = true := by
  rcases smGet_mem ({} : Core) s.cores c with m | e
  · exact (memWf_iff.1 h).2.1 _ m
  · rw [State.core, e]; rfl

theorem spad_wf (h : s.memWf = true) (c : Nat) : smWf (0 : Byte) (s.cluster c).spad = true := by
  rcases smGet_mem ({} : Cluster) s.clusters c with m | e
  · exact (memWf_iff.1 h).2.2 _ m
  · rw [State.cluster, e]; rfl

/-- Two states with the same bytes. -/
theorem memWf_same {t : State} (h : s.memWf = true) (hm : t.mem = s.mem) (hc : t.cores = s.cores)
    (hk : t.clusters = s.clusters) : t.memWf = true := by
  rw [memWf_iff] at h ⊢
  rw [hm, hc, hk]
  exact h

@[simp] theorem memWf_setThread (t : Nat) (x : Thread) : (s.setThread t x).memWf = s.memWf := rfl
@[simp] theorem memWf_modThread (t : Nat) (f : Thread → Thread) : (s.modThread t f).memWf = s.memWf := rfl
@[simp] theorem memWf_setPart (p : Nat) (x : Part) : (s.setPart p x).memWf = s.memWf := rfl
@[simp] theorem memWf_modPart (p : Nat) (f : Part → Part) : (s.modPart p f).memWf = s.memWf := rfl
@[simp] theorem memWf_post (d : Nat) (i : Instr) (e : Ev) : (s.post d i e).memWf = s.memWf := rfl
@[simp] theorem memWf_postNow (i : Instr) (e : Ev) : (s.postNow i e).memWf = s.memWf := rfl

theorem memWf_setCore (c : Nat) (k : Core) (h : s.memWf = true) (hk : smWf (0 : Byte) k.tcm = true) :
    (s.setCore c k).memWf = true := by
  rw [memWf_iff] at h ⊢
  refine ⟨h.1, fun x hx => ?_, h.2.2⟩
  rcases mem_smSet hx with hx | rfl
  · exact h.2.1 x hx
  · exact hk

theorem memWf_modCore (c : Nat) (f : Core → Core) (h : s.memWf = true)
    (hf : smWf (0 : Byte) (s.core c).tcm = true → smWf (0 : Byte) (f (s.core c)).tcm = true) :
    (s.modCore c f).memWf = true := memWf_setCore c _ h (hf (tcm_wf h c))

theorem memWf_setCluster (c : Nat) (k : Cluster) (h : s.memWf = true) (hk : smWf (0 : Byte) k.spad = true) :
    (s.setCluster c k).memWf = true := by
  rw [memWf_iff] at h ⊢
  refine ⟨h.1, h.2.1, fun x hx => ?_⟩
  rcases mem_smSet hx with hx | rfl
  · exact h.2.2 x hx
  · exact hk

theorem memWf_modCluster (c : Nat) (f : Cluster → Cluster) (h : s.memWf = true)
    (hf : smWf (0 : Byte) (s.cluster c).spad = true → smWf (0 : Byte) (f (s.cluster c)).spad = true) :
    (s.modCluster c f).memWf = true := memWf_setCluster c _ h (hf (spad_wf h c))

/-- A change of the errors that are known leaves every byte alone. -/
theorem memWf_poison (p : List ScrubSite) : ({ s with poison := p } : State).memWf = s.memWf := rfl

theorem memWf_tcmWrite (c off n v : Nat) (h : s.memWf = true) : (s.tcmWrite c off n v).memWf = true := by
  have hw := memWf_modCore c (fun k => { k with tcm := writeB k.tcm off n v }) h (writeB_wf _ _ _ _)
  unfold State.tcmWrite State.clearTcm
  split <;> exact hw

theorem memWf_spadWrite (c off n v : Nat) (h : s.memWf = true) : (s.spadWrite c off n v).memWf = true := by
  have hw := memWf_modCluster c (fun k => k.write off n v) h (cluster_write_wf _ _ _ _)
  unfold State.spadWrite State.clearSpad
  split <;> exact hw

end Sys2Proof.Machine
end

