-- ==== Sys2Proof/Tests/Slice0.lean ====
section
/-! SUPPORT. The author's tests: ill-formed terms that the checks refuse, words written out from the encoding tables
of the spec (R32 to R57) with the instruction each stands for, and single steps with results from the spec's rules. -/

namespace Sys2Proof.Tests
open Machine
set_option Elab.async false

/-! ### Ill-formed terms (one for each check of `wellFormed`) -/

theorem test_ill_formed : [
    Instr.vabs ⟨32, 0, 0⟩, .axld ⟨8, 0, 0, false, false⟩ 1 false, .twm 0 48, .add ⟨0, 0, 0, false, false⟩,
    .ld ⟨4, 5, 0, true, false⟩, .ldx ⟨4, 5, 6, 0, true, false, false⟩, .fence ⟨6, 1⟩,
    .amo ⟨4, 5, 6, 0, false, false, false⟩ ⟨9, false⟩ ⟨0, 0⟩, .rwr ⟨4, 5, 6, 0, false, false, false⟩ 3,
    .fmin ⟨4, 5, 6, false, false⟩ 1, .padd ⟨4, 5, 6, false, false⟩ 3, .vred ⟨4, 5, 0⟩ 3, .sysr 4 0x777,
    .sysw ⟨4, false⟩ 0x101, .erd 4 7, .tlbinv ⟨4, false⟩ 3 0, .cacheop ⟨4, false⟩ 0 6, .mma 0 ⟨4, false⟩ 0 48 .none,
    .axld ⟨0, 0, 0, false, false⟩ 5 false, .fcmp ⟨4, 5, 6, false, false⟩ 1 1, .fcvt ⟨4, 5, false⟩ 0 0,
    .vsel ⟨1, 2, 3, 0⟩, .loop 3 0, .mrecv 16 none, .fence ⟨0, 0⟩, .fencer 0, .ewr ⟨4, false⟩ 7,
    .beqz ⟨4, false⟩ 0x7FFFFFFFFFFFFFFF].all (fun i => !(wellFormed i)) = true := by
  decide +kernel

/-! ### Words that stand for instructions

A P.R 0xF405 names register 5, a P.I 0xF008 carries 8 × 16, a P.O 0xFC40 page 1 (R33, R38 to R43). -/

/-- Whether each row's parcels, after the prefixes, decode to its instruction. -/
def reads (pre : List Nat) (rows : List (Nat × Instr)) : Bool := rows.all (fun r => decoded (pre ++ [r.1]) == some r.2)

/-- Integer RR with a third register (R47, R80). -/
theorem test_decode_integer : reads [0xF405] [
    (0x00C3, .add ⟨12, 3, 5, false, false⟩), (0x01C3, .sub ⟨12, 3, 5, false, false⟩),
    (0x02C3, .and ⟨12, 3, 5, false, false⟩), (0x03C3, .or ⟨12, 3, 5, false, false⟩),
    (0x04C3, .xor ⟨12, 3, 5, false, false⟩), (0x05C3, .sll ⟨12, 3, 5, false, false⟩),
    (0x06C3, .srl ⟨12, 3, 5, false, false⟩), (0x07C3, .sra ⟨12, 3, 5, false, false⟩),
    (0x08C3, .slt ⟨12, 3, 5, false, false⟩), (0x09C3, .sltu ⟨12, 3, 5, false, false⟩),
    (0x0AC3, .mul ⟨12, 3, 5, false, false⟩), (0x0BC3, .mulh ⟨12, 3, 5, false, false⟩),
    (0x0CC3, .min ⟨12, 3, 5, false, false⟩), (0x0DC3, .max ⟨12, 3, 5, false, false⟩),
    (0x0FC3, .mulhu ⟨12, 3, 5, false, false⟩)] = true := by
  decide +kernel

theorem test_decode_integer_page1 : reads [0xFC40, 0xF405] [
    (0x00C3, .div ⟨12, 3, 5, false, false⟩), (0x01C3, .divu ⟨12, 3, 5, false, false⟩),
    (0x02C3, .rem ⟨12, 3, 5, false, false⟩), (0x03C3, .remu ⟨12, 3, 5, false, false⟩),
    (0x04C3, .minu ⟨12, 3, 5, false, false⟩), (0x05C3, .maxu ⟨12, 3, 5, false, false⟩),
    (0x0AC3, .bext ⟨12, 3, 5, false, false⟩), (0x0BC3, .bdep ⟨12, 3, 5, false, false⟩),
    (0x0CC3, .mapx ⟨12, 3, 5, false, false⟩), (0x0DC3, .unmapx ⟨12, 3, 5, false, false⟩)] = true := by
  decide +kernel

theorem test_decode_one_source : reads [0xFC40] [
    (0x06C3, .clz ⟨12, 3, false⟩), (0x07C3, .ctz ⟨12, 3, false⟩), (0x08C3, .popc ⟨12, 3, false⟩),
    (0x09C3, .brev ⟨12, 3, false⟩)] = true := by
  decide +kernel

theorem test_decode_widths : reads [0xFC47] [
    (0x0E56, .sext ⟨5, 6, false⟩ 7), (0x0F56, .zext ⟨5, 6, false⟩ 7)] = true := by
  decide +kernel

/-- Integer RI: the immediate 0xC5 in a P.I and [3:0] (R39, R82). -/
theorem test_decode_immediate : reads [0xF404, 0xF00C] [
    (0x1025, .addi ⟨2, 4, 0xC5, false⟩), (0x1125, .andi ⟨2, 4, 0xC5, false⟩),
    (0x1225, .ori ⟨2, 4, 0xC5, false⟩), (0x1325, .xori ⟨2, 4, 0xC5, false⟩),
    (0x1725, .slti ⟨2, 4, 0xC5, false⟩), (0x1825, .sltiu ⟨2, 4, 0xC5, false⟩),
    (0x1B25, .muli ⟨2, 4, 0xC5, false⟩), (0x1C25, .mini ⟨2, 4, 0xC5, false⟩),
    (0x1D25, .maxi ⟨2, 4, 0xC5, false⟩), (0x1E25, .cmpeqi ⟨2, 4, 0xC5, false⟩)] = true := by
  decide +kernel

theorem test_decode_immediate_short : reads [] [
    (0x1425, .slli ⟨2, 2, 5, false⟩), (0x1525, .srli ⟨2, 2, 5, false⟩), (0x1625, .srai ⟨2, 2, 5, false⟩),
    (0x1925, .li 2 5), (0x1A2F, .addpc 2 (-1)), (0x0E56, .mov ⟨5, 6, false⟩)] = true := by
  decide +kernel

/-- BZ, J and LOOP (R43, R54). -/
theorem test_decode_branches : reads [] [
    (0x4305, .beqz ⟨12, false⟩ 5), (0x4705, .bnez ⟨12, false⟩ 5), (0x4B05, .bltz ⟨12, false⟩ 5),
    (0x4F05, .bgez ⟨12, false⟩ 5), (0x63FF, .j 0x3FF), (0x6C00, .jal (-0x400)), (0xEE72, .loop 7 2)] = true := by
  decide +kernel

theorem test_decode_compare_branches : reads [0xF3C9] [
    (0x50A8, .beq ⟨10, 8, false, false⟩ (-55)), (0x51A8, .bne ⟨10, 8, false, false⟩ (-55)),
    (0x52A8, .blt ⟨10, 8, false, false⟩ (-55)), (0x53A8, .bge ⟨10, 8, false, false⟩ (-55)),
    (0x54A8, .bltu ⟨10, 8, false, false⟩ (-55)), (0x55A8, .bgeu ⟨10, 8, false, false⟩ (-55))] = true := by
  decide +kernel

theorem test_decode_indirect : reads [0xFC40] [
    (0x6001, .jr ⟨1, 0, false⟩), (0x610C, .jalr ⟨12, 0, false⟩)] = true := by
  decide +kernel

/-- Loads and stores: offset 8 (R53, R101, R104). -/
theorem test_decode_memory : reads [0xF008] [
    (0x209C, .lb ⟨9, 12, 8, false, false⟩), (0x219C, .lbu ⟨9, 12, 8, false, false⟩),
    (0x229C, .lh ⟨9, 12, 8, false, false⟩), (0x239C, .lhu ⟨9, 12, 8, false, false⟩),
    (0x249C, .lw ⟨9, 12, 8, false, false⟩), (0x259C, .lwu ⟨9, 12, 8, false, false⟩),
    (0x269C, .ld ⟨9, 12, 8, false, false⟩), (0x279C, .ldf ⟨9, 12, 8, false, false⟩),
    (0x289C, .lwf ⟨9, 12, 8, false, false⟩), (0x299C, .ldfe ⟨9, 12, 8, false, false⟩ false),
    (0x2B1C, .pref 1 ⟨12, 8, false⟩), (0x309C, .sb ⟨9, 12, 8, false, false⟩),
    (0x319C, .sh ⟨9, 12, 8, false, false⟩), (0x329C, .sw ⟨9, 12, 8, false, false⟩),
    (0x339C, .sd ⟨9, 12, 8, false, false⟩), (0x349C, .sdf ⟨9, 12, 8, false, false⟩),
    (0x359C, .swf ⟨9, 12, 8, false, false⟩), (0x369C, .stfe ⟨9, 12, 8, false, false⟩)] = true := by
  decide +kernel

theorem test_decode_lines : reads [0xF008] [
    (0x380C, .feset ⟨12, 8, false⟩), (0x390C, .feclr ⟨12, 8, false⟩), (0x3C0C, .clean ⟨12, 8, false⟩),
    (0x3D0C, .inval ⟨12, 8, false⟩), (0x3E0C, .flush ⟨12, 8, false⟩), (0x3A9C, .pin ⟨9, 12, 8, false, false⟩),
    (0x3B9C, .unpin ⟨9, 12, 8, false, false⟩)] = true := by
  decide +kernel

/-- Forms with t, atomics and remote operations (R53, R318, R344). -/
theorem test_decode_three_register : reads [0xF405, 0xF008] [
    (0x2A9C, .ldx ⟨9, 12, 5, 8, false, false, false⟩), (0x379C, .stx ⟨9, 12, 5, 8, false, false, false⟩),
    (0xDD9C, .xsel ⟨9, 12, 5, 8, false, false, false⟩),
    (0xD59C, .amo ⟨9, 12, 5, 8, false, false, false⟩ ⟨0, false⟩ ⟨0, 0⟩),
    (0xD69C, .cas ⟨9, 12, 5, 8, false, false, false⟩ ⟨0, 0⟩),
    (0xD79C, .redf ⟨9, 12, 5, 8, false, false, false⟩ ⟨0, 0⟩),
    (0xD09C, .rwr ⟨9, 12, 5, 8, false, false, false⟩ 0), (0xD19C, .rwrb ⟨9, 12, 5, 8, false, false, false⟩ 0),
    (0xD29C, .ramo ⟨9, 12, 5, 8, false, false, false⟩ ⟨0, false⟩ 0 ⟨0, 0⟩),
    (0xD39C, .rcas ⟨9, 12, 5, 8, false, false, false⟩ 0 ⟨0, 0⟩),
    (0xD49C, .renq ⟨9, 12, 5, 8, false, false, false⟩ 0)] = true := by
  decide +kernel

/-- SYS and the instructions without operands (R54, R55). -/
theorem test_decode_system : reads [] [
    (0xE000, .nop), (0xE001, .pause), (0xE1A5, .trap 0xA5), (0xE200, .eret), (0xE700, .wfi), (0xE800, .halt),
    (0xE9A5, .bkpt 0xA5), (0xEFA5, .illegal 0xA5), (0xE395, .sysr 9 5), (0xE4C5, .sysw ⟨12, false⟩ 5),
    (0xE5C2, .tlbinv ⟨12, false⟩ 2 0), (0xE6C3, .cacheop ⟨12, false⟩ 3 0), (0xEAC0, .spawn ⟨12, false⟩),
    (0xEBC0, .launch ⟨12, false⟩), (0xECC0, .tsset ⟨12, false⟩), (0xEDC0, .tsget 12),
    (0xCDC0, .suspend ⟨12, false⟩), (0xCE00, .yield), (0xCC00, .commit), (0xC700, .waitm), (0xBC00, .mwait),
    (0xDE00, .xphaseLeave), (0xCFC3, .wid ⟨12, 3, false⟩)] = true := by
  decide +kernel

/-- Page 1: fields, derived tensors, scheduling, pod barriers; the words of R146, R283, R363 and R381. -/
theorem test_decode_fields : reads [0xFC40] [
    (0xB06C, .fldef ⟨6, 12, false, false⟩), (0xB16F, .flperm ⟨6, 15, false, false⟩),
    (0xB269, .flswap ⟨6, 9, false, false⟩), (0xB496, .flstat ⟨9, 6, false⟩), (0xB560, .flfree ⟨6, false⟩),
    (0xB76C, .dvreg ⟨6, 12, false, false⟩), (0xB860, .dvdrop ⟨6, false⟩), (0xB996, .dvstat ⟨9, 6, false⟩),
    (0xBA97, .dvref ⟨9, 7, false⟩), (0xC29A, .forq ⟨9, 10, false⟩), (0xC30A, .rngj ⟨10, false⟩),
    (0xD109, .rpbar ⟨9, false⟩), (0xD209, .rpwait ⟨9, false⟩)] = true := by
  decide +kernel

theorem test_decode_fields_three : reads [0xFC40, 0xF40A] [
    (0xB369, .flxch ⟨6, 9, 10, false, false, false⟩), (0xB696, .flmap ⟨9, 6, 10, false, false⟩),
    (0xC199, .ticket ⟨9, 9, 10, false, false⟩), (0xC00C, .bmask ⟨12, 10, false, false⟩),
    (0xD08C, .rred ⟨8, 12, 10, 0, false, false, false⟩ 0)] = true := by
  decide +kernel

/-- MAU (R185, R193 to R205). -/
theorem test_decode_unit : reads [] [
    (0xB00C, .tldb ⟨0, 12, 0, false, false⟩), (0xB492, .twm 9 2), (0xB550, .tclr 5),
    (0xBB76, .axcopy ⟨7, 6, false, false⟩), (0xBD9A, .talloc ⟨9, 10, false⟩)] = true := by
  decide +kernel

theorem test_decode_unit_payload : reads [0xFC01] [
    (0xB60C, .axld ⟨0, 12, 0, false, false⟩ 1 false)] = true := by
  decide +kernel

theorem test_decode_unit_three : reads [0xF404] [
    (0xB760, .axapply 6 0 4 false false .none), (0xB86E, .axphase ⟨6, 14, 4, false, false, false⟩ .none),
    (0xB946, .axsum ⟨4, 6, 4, false, false, false⟩ false), (0xBA76, .axscale ⟨7, 6, 4, false, false, false⟩),
    (0xB10C, .mma 0 ⟨12, false⟩ 4 0 .none), (0xB26C, .mmaz 6 ⟨12, false⟩ 4 0 .none)] = true := by
  decide +kernel

theorem test_decode_store_tile : reads [0xF002, 0xF000] [
    (0xB30C, .tst ⟨0, 12, 0x800, false, false⟩)] = true := by
  decide +kernel

/-- Float and packed, two-operand forms (R216 to R223). -/
theorem test_decode_float : reads [] [
    (0x7045, .fadd ⟨4, 4, 5, false, false⟩ 0), (0x7145, .fsub ⟨4, 4, 5, false, false⟩ 0),
    (0x7245, .fmul ⟨4, 4, 5, false, false⟩ 0), (0x7345, .fdiv ⟨4, 4, 5, false, false⟩ 0),
    (0x7445, .fmin ⟨4, 4, 5, false, false⟩ 0), (0x7545, .fmax ⟨4, 4, 5, false, false⟩ 0),
    (0x7645, .fsqrt ⟨4, 5, false⟩ 0), (0x7745, .fabs ⟨4, 5, false⟩ 0), (0x7845, .fneg ⟨4, 5, false⟩ 0),
    (0x7C45, .fmvfs ⟨4, 5, false⟩), (0x7D45, .fmvsf ⟨4, 5, false⟩), (0x7F45, .fclass ⟨4, 5, false⟩ 0),
    (0x8145, .conj ⟨4, 5, false⟩), (0x8245, .cswap ⟨4, 5, false⟩), (0x8445, .frnd ⟨4, 5, false⟩ 0),
    (0x8545, .fcvti ⟨4, 5, false⟩), (0x8645, .fcvtf ⟨4, 5, false⟩), (0x8745, .padd ⟨4, 4, 5, false, false⟩ 0),
    (0x8845, .psub ⟨4, 4, 5, false, false⟩ 0), (0x8A45, .pmin ⟨4, 4, 5, false, false⟩ 0),
    (0x8B45, .pmax ⟨4, 4, 5, false, false⟩ 0), (0x8C45, .pshuf ⟨4, 4, 5, false, false⟩),
    (0x8D45, .psat ⟨4, 5, false⟩ 0), (0x8E40, .frng 4 0)] = true := by
  decide +kernel

/-- C32: variant 1 (R50). -/
theorem test_decode_float_three : reads [0xF40A, 0xF820] [
    (0x7989, .fma ⟨8, 9, 10, false, false⟩ 1), (0x7A89, .fms ⟨8, 9, 10, false, false⟩ 1),
    (0x7B89, .fnma ⟨8, 9, 10, false, false⟩ 1)] = true := by
  decide +kernel

theorem test_decode_float_plain_three : reads [0xF40A] [
    (0x8089, .cmac ⟨8, 9, 10, false, false⟩), (0x8989, .pdot ⟨8, 9, 10, false, false⟩)] = true := by
  decide +kernel

theorem test_decode_compare_convert : reads [0xFC03, 0xF40A] [
    (0x7E89, .fcmp ⟨8, 9, 10, false, false⟩ 0 3)] = true := by
  decide +kernel

theorem test_decode_convert : reads [0xFC03] [
    (0x8367, .fcvt ⟨6, 7, false⟩ 0 3)] = true := by
  decide +kernel

/-- Vector arithmetic under mask register 2 (R51, R231). -/
theorem test_decode_vector : reads [0xFC02, 0xF405] [
    (0x9046, .vadd ⟨4, 6, 5, 2⟩), (0x9146, .vsub ⟨4, 6, 5, 2⟩), (0x9246, .vmul ⟨4, 6, 5, 2⟩),
    (0x9346, .vfma ⟨4, 6, 5, 2⟩), (0x9446, .vmax ⟨4, 6, 5, 2⟩), (0x9546, .vmin ⟨4, 6, 5, 2⟩),
    (0x9646, .vdiv ⟨4, 6, 5, 2⟩), (0x9946, .vsel ⟨4, 6, 5, 2⟩), (0x9D46, .vperm ⟨4, 6, 5, 2⟩),
    (0x9846, .vcmp ⟨4, 6, 5, 2⟩ 0)] = true := by
  decide +kernel

theorem test_decode_vector_function : reads [0xFC0A] [
    (0x9746, .vsf ⟨4, 6, 2⟩ 1), (0x9C46, .vcvt ⟨4, 6, 2⟩ 1), (0x9B46, .vred ⟨4, 6, 2⟩ 1),
    (0xAD46, .vscan ⟨4, 6, 2⟩ 1)] = true := by
  decide +kernel

theorem test_decode_vector_one : reads [0xFC02] [
    (0x9A46, .vbcst ⟨4, 6, 2⟩ false), (0x9F46, .vabs ⟨4, 6, 2⟩), (0x9E40, .vrand 4 2),
    (0xA047, .vld ⟨4, 7, 0, 2, false⟩), (0xA347, .vst ⟨4, 7, 0, 2, false⟩)] = true := by
  decide +kernel

/-- Strided and indexed accesses, VEXT and VINS (R237). -/
theorem test_decode_vector_memory : reads [0xFC02, 0xF405] [
    (0xA147, .vlds ⟨4, 7, 5, 0, 2, false, false⟩), (0xA247, .vldx ⟨4, 7, 5, 0, 2, false, false⟩),
    (0xA447, .vsts ⟨4, 7, 5, 0, 2, false, false⟩), (0xA547, .vstx ⟨4, 7, 5, 0, 2, false, false⟩),
    (0xAB46, .vext ⟨4, 6, 5, 2⟩ false), (0xAC46, .vins ⟨4, 6, 5, 2⟩ false false)] = true := by
  decide +kernel

theorem test_decode_vector_control : reads [0xF54F] [
    (0xA7CC, .scfg ⟨28, 15, false⟩)] = true := by
  decide +kernel

theorem test_decode_vector_control_short : reads [] [
    (0xA647, .vcfg ⟨4, 7, false⟩), (0xA844, .sstat 4 4), (0xA907, .repv 0 ⟨7, false⟩ 0 0),
    (0xAA47, .vmsk ⟨4, 7, 0⟩ false)] = true := by
  decide +kernel

/-- Channel 5: designator 0x405 (R52, R251). -/
theorem test_decode_synchronisation : reads [0xF040] [
    (0xC005, .barr 5), (0xC105, .barw 5), (0xDE05, .xphaseEnter 5)] = true := by
  decide +kernel

theorem test_decode_test_channel : reads [0xF409, 0xF040] [
    (0xC205, .barq 9 5)] = true := by
  decide +kernel

theorem test_decode_words : reads [0xF010] [
    (0xC39C, .tbinit ⟨9, 12, 16, false, false⟩), (0xC4EC, .tbexp ⟨14, 12, 16, false, false⟩),
    (0xC50C, .tbarr ⟨12, 16, false⟩), (0xC69C, .tbwait ⟨9, 12, 16, false, false⟩),
    (0xDCD9, .xsend ⟨13, 9, 16, false, false⟩)] = true := by
  decide +kernel

theorem test_decode_mailbox : reads [0xF40D] [
    (0xC8A0, .mrecv 10 (some 13)), (0xC99C, .msend ⟨9, 12, 13, false, false, false⟩),
    (0xD89C, .rseq ⟨9, 12, 13, false, false⟩), (0xDB9C, .rtsend ⟨9, 12, 13, false, false, false⟩)] = true := by
  decide +kernel

theorem test_decode_engines : reads [] [
    (0xC8A0, .mrecv 10 none), (0xD9C0, .ewr ⟨12, false⟩ 0), (0xDA96, .erd 9 6), (0xDA97, .copyLaunch 9),
    (0xDF9C, .smark ⟨9, 12, false, false⟩)] = true := by
  decide +kernel

theorem test_decode_fences : reads [0xF80A] [
    (0xCA00, .fence ⟨2, 2⟩)] = true := by
  decide +kernel

theorem test_decode_fencer : reads [0xFC07] [
    (0xCB00, .fencer 7)] = true := by
  decide +kernel

/-- Special registers by number (R95). -/
theorem test_decode_special_high : reads [0xF020] [
    (0xE4C4, .repdatWrite ⟨12, false⟩), (0xE4C2, .prfdatWrite ⟨12, false⟩), (0xE4C6, .slewWrite ⟨12, false⟩),
    (0xE4C8, .devstatWrite ⟨12, false⟩), (0xE392, .sysr 9 0x202), (0xE4C5, .sysw ⟨12, false⟩ 0x205)] = true := by
  decide +kernel

theorem test_decode_special_low : reads [0xF001] [
    (0xE3C0, .fctlRead 12), (0xE4C1, .vctlWrite ⟨12, false⟩), (0xE4C8, .xstatWrite ⟨12, false⟩)] = true := by
  decide +kernel

theorem test_decode_special_cluster : reads [0xF010] [
    (0xE4C4, .flagorWrite ⟨12, false⟩), (0xE4C5, .lotseedWrite ⟨12, false⟩),
    (0xE4C1, .ecauseWrite ⟨12, false⟩), (0xE4C8, .trctlWrite ⟨12, false⟩)] = true := by
  decide +kernel

theorem test_decode_special_pins : reads [0xF002] [
    (0xE4C1, .pinqWrite ⟨12, false⟩)] = true := by
  decide +kernel

theorem test_decode_special_device : reads [0xF000] [
    (0xE4C4, .devidWrite ⟨12, false⟩)] = true := by
  decide +kernel

/-- Routing-engine registers (R332). -/
theorem test_decode_routing_engine : reads [0xF010] [
    (0xD9C0, .reListWrite ⟨12, false⟩), (0xD9C1, .reHdrWrite ⟨12, false⟩),
    (0xD9C2, .reBufRegister ⟨12, false⟩), (0xD9C3, .reFlush ⟨12, false⟩), (0xDA94, .erd 9 0x104)] = true := by
  decide +kernel

/-! ### Chains that decode to none (R57's table) -/

/-- The cause and EINFO [18:16] of a chain. -/
def fate (ps : List Nat) : Option (Nat × Nat) :=
  match decodeParcels ps with
  | some (.error e) => some (e.cause, e.idx)
  | _ => none

theorem test_chains : [([0xF000, 0xF000, 0xF000, 0xF000, 0xF000, 0x00C3], 0x02, 4), ([0xF405, 0xF406, 0x00C3], 0x02, 1),
    ([0xF001, 0x00C3], 0x02, 0), ([0xFC40, 0x10C3], 0x01, 1), ([0xFC80, 0x00C3], 0x01, 0), ([0xFC01, 0x00C3], 0x01, 0),
    ([0xF818, 0x2984], 0x01, 0), ([0xF840, 0x0061], 0x01, 0), ([0x5162], 0x01, 0), ([0xF860, 0xF000, 0xD0C3], 0x13, 0),
    ([0xF420, 0xFC40, 0xF820, 0x01C3], 0x01, 2), ([0x0000], 0x01, 0), ([0xF400, 0x0000], 0x01, 1)].all
    (fun (r : List Nat × Nat × Nat) => fate r.1 == some r.2) = true := by
  decide +kernel

theorem test_payload_names_add : decoded [0xF545, 0x0000] = some (.add ⟨16, 16, 5, false, false⟩) := by decide +kernel

/-! ### Single steps -/

/-- A thread at level S with values in s and f registers, on a core out of test mode. -/
def small (rs fs : List (Nat × Word)) : State :=
  { State.reset with
    pc := 0x100
    threads := [(0, { occ := true, level := .S, pc := 0x100, sregs := rs.map (fun x => (x.1, .resident x.2)),
                      fregs := fs.map (fun x => (x.1, .resident x.2)) })]
    cores := [(0, { test := false })] }

/-- What a register of the running thread, or its pc, holds after one instruction. -/
def sAfter (i : Instr) (s : State) (r : Nat) : Option Word :=
  match exec i s with
  | .next t => some (t.th.getS r)
  | _ => none

def fAfter (i : Instr) (s : State) (r : Nat) : Option Word :=
  match exec i s with
  | .next t => some (t.th.getF r)
  | _ => none

def pcReached (i : Instr) (s : State) : Option Word :=
  match exec i s with
  | .next t => some t.th.pc
  | _ => none

/-- s4 after `i` on A and B in s5 and s6. -/
def bin (i : Bin → Instr) (a b : Word) : Option Word := sAfter (i ⟨4, 5, 6, false, false⟩) (small [(5, a), (6, b)] []) 4
def un (i : Un → Instr) (a : Word) : Option Word := sAfter (i ⟨4, 5, false⟩) (small [(5, a)] []) 4
def imm (i : Imm → Instr) (a k : Word) : Option Word := sAfter (i ⟨4, 5, k, false⟩) (small [(5, a)] []) 4

/-- R81 and its example. -/
theorem test_integer : bin .add (-1) 2 = some 1 ∧ bin .sub 1 2 = some (-1) ∧ bin .and 0xF0 0x3C = some 0x30 ∧
    bin .or 0xF0 0x3C = some 0xFC ∧ bin .xor 0xF0 0x3C = some 0xCC ∧ bin .sll 1 0x7F = some 0x8000000000000000 ∧
    bin .srl 0x8000000000000000 63 = some 1 ∧ bin .sra 0x8000000000000000 63 = some (-1) ∧ bin .slt (-1) 0 = some 1 ∧
    bin .sltu (-1) 0 = some 0 ∧ bin .mul 0x8000000000000000 2 = some 0 ∧ bin .mulh 0x8000000000000000 2 = some (-1) ∧
    bin .mulhu 0x8000000000000000 2 = some 1 ∧ bin .min (-1) 0 = some (-1) ∧ bin .max (-1) 0 = some 0 ∧
    un .mov 7 = some 7 := by
  decide +kernel

/-- R84's table. -/
theorem test_division : bin .div 7 (-2) = some (-3) ∧ bin .rem 7 (-2) = some 1 ∧ bin .rem (-7) 2 = some (-1) ∧
    bin .div 5 0 = some (-1) ∧ bin .rem 5 0 = some 5 ∧ bin .divu (-2) 0 = some (-1) ∧
    bin .div 0x8000000000000000 (-1) = some 0x8000000000000000 ∧ bin .rem 0x8000000000000000 (-1) = some 0 ∧
    bin .remu (-1) 16 = some 15 := by
  decide +kernel

/-- R83, R85 and R86. -/
theorem test_bits : bin .bext 0xB6 0xF0 = some 0xB ∧ bin .bdep 0xB 0xF0 = some 0xB0 ∧ bin .minu (-1) 0 = some 0 ∧
    bin .maxu (-1) 0 = some (-1) ∧ un .clz 0 = some 64 ∧ un .clz 1 = some 63 ∧ un .ctz 0 = some 64 ∧ un .ctz 8 = some 3 ∧
    un .popc 0xFF = some 8 ∧ un .brev 1 = some 0x8000000000000000 ∧ un (Instr.sext · 7) 0x80 = some (-0x80) ∧
    un (Instr.zext · 7) 0x180 = some 0x80 ∧ un (Instr.sext · 63) 0x80 = some 0x80 := by
  decide +kernel

/-- R82. -/
theorem test_immediate : imm .addi 5 (-6) = some (-1) ∧ imm .andi 0xFF 0x3C = some 0x3C ∧ imm .ori 1 6 = some 7 ∧
    imm .xori 1 (-1) = some (-2) ∧ imm .slli 1 4 = some 16 ∧ imm .srli (-1) 60 = some 15 ∧ imm .srai (-16) 2 = some (-4) ∧
    imm .slti (-1) 0 = some 1 ∧ imm .sltiu 5 (-1) = some 1 ∧ imm .muli 3 (-2) = some (-6) ∧ imm .mini 3 (-2) = some (-2) ∧
    imm .maxi 3 (-2) = some 3 ∧ imm .cmpeqi 7 7 = some 1 ∧ sAfter (.li 4 (-9)) (small [] []) 4 = some (-9) ∧
    sAfter (.addpc 4 0x10) (small [] []) 4 = some 0x110 := by
  decide +kernel

/-- A taken branch counts parcels from the branch's first parcel; one not taken goes on (R88 to R91). -/
theorem test_branches : pcReached (.beqz ⟨5, false⟩ 5) (small [] []) = some 0x10A ∧
    pcReached (.bnez ⟨5, false⟩ 5) (small [] []) = some 0x102 ∧
    pcReached (.bltz ⟨5, false⟩ (-2)) (small [(5, -1)] []) = some 0xFC ∧
    pcReached (.bgeu ⟨5, 6, false, false⟩ 3) (small [(5, -1)] []) = some 0x106 ∧
    pcReached (.bge ⟨5, 6, false, false⟩ 3) (small [(5, -1)] []) = some 0x102 ∧
    pcReached (.j (-3)) (small [] []) = some 0xFA ∧ sAfter (.jal 4) (small [] []) 1 = some 0x102 ∧
    pcReached (.jr ⟨5, 6, false⟩) (small [(5, 0x200)] []) = some 0x206 := by
  decide +kernel

/-- LOOP with a count of 0 skips its body; else the body begins at the next parcel (R94). -/
theorem test_loop : pcReached (.loop 5 3) (small [] []) = some 0x108 ∧
    pcReached (.loop 5 3) (small [(5, 2)] []) = some 0x102 := by
  decide +kernel

/-- Little-endian loads from TCM, sign- and zero-extended; a store is read back (R3, R101). -/
theorem test_memory :
    (let s := (small [(5, 0x40), (6, 0x1122334455667788)] []).modMyCore (fun c =>
       { c with tcm := [(0x40, 0x80), (0x41, 0x7F), (0x42, 0xFE), (0x43, 0xFF)] })
     sAfter (.lb ⟨4, 5, 0, false, false⟩) s 4 = some (-0x80) ∧ sAfter (.lbu ⟨4, 5, 0, false, false⟩) s 4 = some 0x80 ∧
     sAfter (.lh ⟨4, 5, 0, false, false⟩) s 4 = some 0x7F80 ∧ sAfter (.lw ⟨4, 5, 0, false, false⟩) s 4 = some (-0x18080) ∧
     sAfter (.lwu ⟨4, 5, 0, false, false⟩) s 4 = some 0xFFFE7F80 ∧
     (match exec (.sh ⟨6, 5, 2, false, false⟩) s with
       | .next t => some (readB t.myCore.tcm 0x40 8)
       | _ => none) = some 0x77887F80) := by
  decide +kernel

/-- A misaligned load raises MISALIGN: EPC, ECAUSE with HACT and the level S, EINFO the address; the pc goes to TRAPVEC
(R104, R114). -/
theorem test_trap : (match exec (.ld ⟨4, 5, 1, false, false⟩) ((small [(5, 0x40)] []).modPart 0 (fun q =>
      { q with trapvec := 0x4000 })) with
    | .next t => some (t.th.epc, t.th.ecause, t.th.einfo, t.th.pc, t.th.getS 4)
    | _ => none) = some (0x100, 0x8104, 0x41, 0x4000, 0) := by
  decide +kernel

/-- ERET goes back to EPC at the level of PLV and ends the handler (R117). -/
theorem test_eret : (match exec .eret ((small [] []).modTh (fun t => { t with ecause := 0x8004, epc := 0x222 })) with
    | .next t => some (t.th.pc, t.th.level, t.th.ecause)
    | _ => none) = some (0x222, .U, 0x0004) := by
  decide +kernel

/-- FP32: 1 + 2, 1 / 0 with its flag, 2^24 + 1 rounded to even, and the sign of the smallest (R216, R217, R218). -/
theorem test_float :
    fAfter (.fadd ⟨4, 5, 6, false, false⟩ 0) (small [] [(5, 0x3F800000), (6, 0x40000000)]) 4 = some 0x40400000 ∧
    fAfter (.fadd ⟨4, 5, 6, false, false⟩ 0) (small [] [(5, 0x4B800000), (6, 0x3F800000)]) 4 = some 0x4B800000 ∧
    fAfter (.fmul ⟨4, 5, 6, false, false⟩ 0) (small [] [(5, 0x40400000), (6, 0xBF000000)]) 4 = some 0xBFC00000 ∧
    fAfter (.fdiv ⟨4, 5, 6, false, false⟩ 0) (small [] [(5, 0x3F800000), (6, 0)]) 4 = some 0x7F800000 ∧
    fAfter (.fsqrt ⟨4, 5, false⟩ 0) (small [] [(5, 0x41100000)]) 4 = some 0x40400000 ∧
    fAfter (.fma ⟨4, 5, 6, false, false⟩ 0) (small [] [(4, 0x3F800000), (5, 0x40000000), (6, 0x40400000)]) 4 =
      some 0x40E00000 ∧
    fAfter (.fmin ⟨4, 5, 6, false, false⟩ 0) (small [] [(5, 0x80000000), (6, 0)]) 4 = some 0x80000000 := by
  decide +kernel

/-- FCVT FP32 to T8: 1.0 is 0x40 and 1.625 is 0x4A (R169); to BF16, the upper half. -/
theorem test_convert : fAfter (.fcvt ⟨4, 5, false⟩ 0 3) (small [] [(5, 0x3F800000)]) 4 = some 0x40 ∧
    fAfter (.fcvt ⟨4, 5, false⟩ 0 3) (small [] [(5, 0x3FD00000)]) 4 = some 0x4A ∧
    fAfter (.fcvt ⟨4, 5, false⟩ 0 1) (small [] [(5, 0x3FD00000)]) 4 = some 0x3FD0 := by
  decide +kernel

/-- PADD in 8-bit lanes; PSAT; conjugation (R219, R222). -/
theorem test_packed : bin (Instr.padd · 0) 0xFF01 0x0101 = some 0x0002 ∧
    fAfter (.conj ⟨4, 5, false⟩) (small [] [(5, 0x3F8000003F800000)]) 4 = some 0xBF8000003F800000 := by
  decide +kernel

/-- s0 reads zero and discards; a last-use mark frees the register, which then reads zero (R11, R26). -/
theorem test_registers : sAfter (.add ⟨0, 5, 5, false, false⟩) (small [(5, 3)] []) 0 = some 0 ∧
    sAfter (.add ⟨4, 5, 6, true, false⟩) (small [(5, 3), (6, 4)] []) 5 = some 0 ∧
    sAfter (.add ⟨4, 5, 6, true, false⟩) (small [(5, 3), (6, 4)] []) 4 = some 7 := by
  decide +kernel

/-- SYSR at U of an S register raises PRIV, BARR of a thread that is no member of the channel ILLEGAL_OP (R113, R251). -/
theorem test_privilege : (match exec (.sysr 4 0x101) ((small [] []).modTh (fun t => { t with level := .U })) with
    | .next t => some (bitsN t.th.ecause.toNat 7 0)
    | _ => none) = some 0x03 ∧
    (match exec (.barr 5) (small [] []) with
      | .next t => some (bitsN t.th.ecause.toNat 7 0)
      | _ => none) = some 0x01 := by
  decide +kernel

/-- A word of the table, numbered from its first parcel, decodes as its parcels do, and runs first after it is placed. -/
theorem test_table_word : decodeTableWord 32 0x00C3F405 = some (.add ⟨12, 3, 5, false, false⟩) ∧
    (match step (State.reset.withFetchWord 16 0x1925) with
      | .next t => some ((t.thread 0).getS 2, (t.thread 0).pc)
      | _ => none) = some (5, 2) := by
  decide +kernel

end Sys2Proof.Tests
end

