-- ==== Sys2Proof/Tests/Witness.lean ====
section
/-! SUPPORT. For every statement that has hypotheses, a state and operands that meet them together: one witness for
each clause, at a boundary value where the clause has a range. -/

namespace Sys2Proof.Tests
open Machine
set_option Elab.async false

/-- A thread at level S on a core in normal mode: slot 0 of cluster 0, in partition 0. The chip page at 0x1_0000_0000
lies at 0x20000 and is in the core's TLB; there is a field with handle 1, a launch header in TCM at 0x80, one message,
a full granule 2 and a member of channel 0. -/
def t0 : State :=
  { State.reset with
    pc := 0x100
    threads := [(0, {
      occ := true, level := .S, pc := 0x100, record := 0x1000200, frame := 0x1000400
      sregs := [(5, .resident 0x100000000), (6, .resident 0x80), (7, .resident 0x1000010), (8, .resident 1),
        (9, .resident 2), (10, .resident 0x200), (11, .resident 0x240)]
      fregs := [(5, .resident 0x3F800000), (6, .resident 0x40000000)] })]
    cores := [(0, {
      test := false, tlb := [⟨0, 0x10000, false, 0x2003F⟩], mailbox := [(1, 2)], quota := [(0, 5)]
      l1 := [{ line := 0x800, tcm := false }, { line := 0x801, tcm := false }, { line := 0x802, tcm := false },
        { line := 0x840, tcm := false }, { line := 0x80C, tcm := false }]
      tcm := [(0x90, 1), (0x94, 0x10), (0x98, 2), (0xBD, 2), (0xBE, 0xE), (0x201, 0x10), (0x204, 1), (0x20B, 2),
        (0x210, 0x40), (0x240, 1)] })]
    clusters := [(0, { full := [(2, true)] })]
    parts := [(0, {
      active := true, pamax := 0x8000000000, wbmask := -1, pbmask := -1, rlmask := -1, clmask := 3
      ptroot := 0x30000, ftbase := 0x100000000, faba := 0x3FFF0000, stmask := 1 })]
    members := [(0, 1)]
    mem := [(0x20010, 1), (0x20041, 0x10), (0x20044, 1), (0x2004B, 2), (0x2004F, 1), (0x20050, 0x40),
      (0x30000, 1), (0x30002, 4), (0x40400, 1), (0x40402, 5), (0x50000, 0x3F), (0x50002, 2)] }

theorem fitsOf {s : State} {b : Bool} (h : loopActive s.th.loopst = false) : s.fits b := by
  intro h'
  simp [inBody, h] at h'

theorem fits0 {b : Bool} : t0.fits b := fitsOf rfl

theorem quiet0 : t0.Quiet :=
  ⟨rfl, rfl, rfl, rfl, rfl, rfl, rfl, ⟨rfl, rfl, rfl, rfl⟩, rfl, rfl, rfl, rfl, rfl, rfl, rfl⟩

theorem takes0 : t0.Takes := ⟨by decide, rfl, rfl, rfl, by decide, rfl, rfl, rfl, rfl⟩

/-- `t0` with the arguments of an event. -/
def tE (e : Ev) : State := { t0 with ev := e }

/-- The same thread at another level, in its handler, in an active loop. -/
def tU : State := t0.modTh (fun t => { t with level := .U })
def tF : State := t0.modTh (fun t => { t with level := .F })
def tH : State := t0.modTh (fun t => { t with ecause := 0x8100 })
def tH2 : State := t0.modTh (fun t => { t with ecause := 0x8200 })
def tL : State := { t0.modTh (fun t => { t with loopst := loopWord 8 4 0x108 }) with pc := 0x106 }

/-- A VU and a MAU command of its thread, a copy command, a packet, a reduction packet. -/
def vc : VuCmd := t0.vuCmd (.vadd ⟨27, 2, 3, 0⟩) [] []
def tV (c : VuCmd) : State := t0.modTh (fun t => { t with vuq := [c] })
def mc : MauCmd := t0.mauCmd (.tclr 0) [] .none
def cc : CopyCmd :=
  { id := 1, tid := 0, part := 0, level := .S, regs := [0x40, 0x1000040, 64, 0, 0, 1, 0], tblA := 0, tblB := 0 }
def pk : Packet :=
  { kind := 0, cls := 0, vc := 0, gen := 0, seq := 0, src := 0, dst := 0, part := 0, score := 0, slot := 0,
    addr := 0x10000040, data := [1], aux := 0, mid := none }
def rp : RedPacket :=
  { stream := 0, ea := 0x10000080, part := 0, words := [1, 2, 3, 4, 5, 6, 7, 8], map := 1, sat := false, e := 0, k := 2,
    fp32 := true, combined := false, mis := false, who := [] }
def lau : Launch := { addr := 0x80, hdr := [0, 0, 0x1000000001, 2, 0, 0, 0, 0x000E020000000000, 0, 0, 0, 0, 0, 0, 0, 0] }
/-- A launch of one gang of two members in one core. -/
def gang : Launch :=
  { addr := 0x80, hdr := [0, 0, 0x21000000001, 2, 0, 0, 0, 0x000E020000000000, 0, 0, 0, 0, 0, 0, 0, 0] }

def re0 : RedfEntry :=
  { pa := 0x20000, val := 0, idx := 5, rm := 0, tid := 0, part := 0, launch := 0, inLaunch := false, stamp := 0 }
def sl0 : Slot := { pa := 0x20000, next := 5, drop := 0, ownerPart := 0, owner := 0 }

/-- A launch in progress, a command of the MAU, a wait of the thread. -/
def tLn (l : Launch) : State :=
  { (tE { v := 0x80 }).modPart 0 (fun q => { q with launches := [l] }) with devstat := 0x20 }
def tM (c : MauCmd) (e : Ev) : State := { (tE e).modMyCore (fun k => { k with mauq := [c] }) with clk := 2 }
def tW (w : Why) (e : Ev) : State := (tE e).modTh (fun t => { t with wait := some ⟨w, 0⟩ })

def isOk {α : Type} : EStateM.Result Stop State α → Bool
  | .ok _ _ => true
  | .error _ _ => false

/-- What a computation that completes answers, and the state it leaves. -/
def outV {α : Type} : (r : EStateM.Result Stop State α) → isOk r = true → α
  | .ok a _, _ => a
  | .error _ _, h => nomatch h

def outS {α : Type} : EStateM.Result Stop State α → State
  | .ok _ s => s
  | .error _ s => s

theorem okOf {α : Type} {r : EStateM.Result Stop State α} (h : isOk r = true) : r = .ok (outV r h) (outS r) := by
  cases r
  · rfl
  · cases h

def isTrap {α : Type} : EStateM.Result Stop State α → Bool
  | .error (.trap _) _ => true
  | _ => false

def trapV {α : Type} : EStateM.Result Stop State α → Flt
  | .error (.trap f) _ => f
  | _ => ⟨0, 0⟩

theorem trapOf {α : Type} {r : EStateM.Result Stop State α} (h : isTrap r = true) :
    r = .error (.trap (trapV r)) (outS r) := by
  cases r
  · cases h
  · rename_i e s
    cases e <;> first | rfl | cases h

theorem okU {r : EStateM.Result Stop State Unit} (h : isOk r = true) : r = .ok () (outS r) := okOf h

theorem okAs {α : Type} {r : EStateM.Result Stop State α} {a : α} (h : isOk r = true) (e : outV r h = a) :
    r = .ok a (outS r) := by
  subst e
  exact okOf h

theorem someOf {α : Type} {o : Option α} (h : o.isSome = true) : o = some (o.get h) := (Option.some_get h).symm

def exV {ε α : Type} : (r : Except ε α) → r.isOk = true → α
  | .ok a, _ => a
  | .error _, h => nomatch h

theorem exOk {ε α : Type} {r : Except ε α} (h : r.isOk = true) : r = .ok (exV r h) := by
  cases r
  · cases h
  · rfl

def exE {ε α : Type} : (r : Except ε α) → r.isOk = false → ε
  | .error e, _ => e
  | .ok _, h => nomatch h

theorem exErr {ε α : Type} {r : Except ε α} (h : r.isOk = false) : r = .error (exE r h) := by
  cases r
  · rfl
  · cases h

def exS {ε : Type} : (r : Except ε State) → r.isOk = true → State
  | .ok s, _ => s
  | .error _, h => nomatch h

theorem exOf {ε : Type} {r : Except ε State} (h : r.isOk = true) : r = .ok (exS r h) := by
  cases r
  · cases h
  · rfl

theorem tripNone {α β γ : Type} {x : α × β × Option γ} (h : x.2.2.isNone = true) : x = (x.1, x.2.1, none) := by
  obtain ⟨a, b, _ | c⟩ := x
  · rfl
  · cases h

theorem tripSome {α β γ : Type} {x : α × β × Option γ} (h : x.2.2.isSome = true) : x = (x.1, x.2.1, some (x.2.2.get h)) := by
  obtain ⟨a, b, _ | c⟩ := x
  · cases h
  · rfl


theorem tupSome {α β : Type} {o : Option (α × β)} (h : o.isSome = true) : o = some ((o.get h).1, (o.get h).2) :=
  (Option.some_get h).symm

/-- One packet in flight; the fabric and a routing-engine list as given. -/
def tFl (p : Packet) : State :=
  let s := tE { pkt := some p }
  { s with fabric := { s.fabric with flight := [p] } }
def tFb (f : Fabric) (e : Ev) : State := { tE e with fabric := f }
def sr : SendRec := { w0 := 0x1000000000000, w1 := 0, hdr := 0, level := .S, tid := 0, fid := 0 }
def tLs (l : SendList) : State := (tE {}).modPart 0 (fun q => { q with lists := [(0, l)] })
/-- Stream 0 with input ports 0 and 1, and a reduction waiting for more packets. -/
def tSt (x : StreamEnt) (e : Ev) : State :=
  tFb { t0.fabric with streams := [(0, { x with words := [(0, 3), (1, 0x40003)] })] } e
def gt : Gather := { stream := 0, ea := 0x10000080, since := 0, pkts := [rp] }
/-- A reducing entry with input ports 0, 1 and 2, whose gather has the packet of port 1. -/
def gt3 : Gather := { gt with ports := [1] }
def tRd (gs : List Gather) : State :=
  tFb { t0.fabric with streams := [(0, { words := [(0, 1), (1, 0x200040007)] })], gathers := gs } { red := some rp }

theorem tripFalse {α β : Type} {o : Option (α × β × Bool)} (h : (match o with
    | some x => !x.2.2
    | none => false) = true) : o = some ((o.get (by cases o <;> simp_all)).1, (o.get (by cases o <;> simp_all)).2.1, false) := by
  rcases o with _ | ⟨a, b, _ | _⟩
  · cases h
  · rfl
  · cases h

theorem tripSome3 {α β γ : Type} {o : Option (α × β × γ)} (h : o.isSome = true) :
    o = some ((o.get h).1, (o.get h).2.1, (o.get h).2.2) := (Option.some_get h).symm

theorem exPair {ε α β : Type} {r : Except ε (α × β)} (h : r.isOk = true) : r = .ok ((exV r h).1, (exV r h).2) := by
  cases r
  · cases h
  · rfl

theorem exQuad {ε α β γ δ : Type} {r : Except ε (α × β × γ × δ)} (h : r.isOk = true) :
    r = .ok ((exV r h).1, (exV r h).2.1, (exV r h).2.2.1, (exV r h).2.2.2) := by
  cases r
  · cases h
  · rfl

theorem bitOther {n k : Nat} (h : k ≠ n) : (2 ^ n).testBit k = Nat.testBit 0 k := by
  rw [Nat.testBit_two_pow, Nat.zero_testBit]
  exact decide_eq_false (fun e => h e.symm)

def isNext {φ ρ : Type} : Host.Outcome State φ ρ → Bool
  | .next _ => true
  | _ => false

def nextS {φ ρ : Type} : Host.Outcome State φ ρ → State
  | .next s => s
  | _ => t0

theorem nextOf {φ ρ : Type} {r : Host.Outcome State φ ρ} (h : isNext r = true) : r = .next (nextS r) := by
  cases r
  · rfl
  all_goals cases h

/-- A pod barrier, derived storage (handle 2 from handle 1, in line 0x230), a core in its exchange phase, requests of
the host, one instruction at level F. -/
def tP (e : Ev) : State := (tE e).setPod 0 0 { cfg := some { members := [0], index := 0, lc := 1, window := 0, allow := 0, root := 0 } }
def ru : Rule := { part := 0, h := 2, image := [1, 0, 0x100, 0, 0, 0, 0, 0], segs := [⟨0, 0x23000, 4⟩],
                   bsegs := [⟨0, 0x21000, 16⟩] }
def tD (rs : List Rule) (cur : List Nat) (e : Ev) : State :=
  { (tE e).modPart 0 (fun q => { q with dvbase := 0x100002000 }) with
    rules := rs, current := cur
    threads := [(0, { t0.th with sregs := t0.th.sregs ++ [(12, .resident 0x100000300)] })]
    mem := [(0x20010, 1), (0x20041, 0x10), (0x20044, 1), (0x2004B, 2), (0x2004F, 1), (0x20050, 0x40), (0x20081, 0x30),
      (0x20084, 1), (0x2008B, 2), (0x2008F, 1), (0x20090, 0x40), (0x20300, 1), (0x20311, 1),
      (0x30000, 1), (0x30002, 4), (0x40400, 1), (0x40402, 5), (0x50000, 0x3F), (0x50002, 2)] }
def tX (a : List (Nat × Nat × Nat)) (e : Ev) : State :=
  (tE e).modMyCore (fun c => { c with inph := true, armedSlots := a })
def hq : HostReq := { chan := 1, part := 0, addr := 0x10000040, size := 8, data := [5] }
def hd : HostDone := { chan := 1, part := 0, kind := 1, status := 0, info := 0, data := [] }
def tHq (q : List (Nat × HostReq)) (e : Ev) : State := (tE e).setQueue 1 q
def tN : State := State.reset.withFetchWord 32 0x00C3F405
/-- The descriptors of handles 1 and 2. -/
def d1 : Desc := Desc.ofNat 0x4001000000020000000000000100001000
def d2 : Desc := Desc.ofNat 0x4001000000020000000000000100003000

theorem descIs {s : State} {p h pa w : Nat} (hr : regionOf (descAddr (s.part p).ftbase h) = .chip)
    (hx : (match s.xlate p .S .load (descAddr (s.part p).ftbase h) with
      | .ok a => a == pa
      | .error _ => false) = true) (hw : s.pread pa 64 = w)
    (hp : (s.chipPoison pa 64).isSome = false := by decide) : s.descOf p .S h = .ok (Desc.ofNat w, pa) := by
  unfold State.descOf
  simp only [hr]
  split at hx
  · next a e =>
    rw [e, eq_of_beq hx]
    simp [hw, hp]
  · cases hx

theorem exAs {ε α : Type} {r : Except ε α} {a : α} (h : r.isOk = true) (e : exV r h = a) : r = .ok a := by
  subst e
  exact exOk h
theorem descsIs {s : State} {r : Rule} {d b : Desc} {x y : Nat} (h : s.descOf r.part .S r.h = .ok (d, x))
    (h' : s.descOf r.part .S r.base = .ok (b, y)) : s.ruleDescs r = .ok (d, b) := by
  simp [State.ruleDescs, h, h', bind, Except.bind, pure, Except.pure]

/-- A source field of two elements, read: a state that a further read leaves as it is. -/
def dR : Desc := { d1 with n := 1 }
def readR (u : State) (x : Nat) : State := match (srcElem mc dR x).run u with
  | .ok (_, v) => v
  | .error _ => u
def tR : State := readR (readR (readR t0 0) 1) 0

theorem read_same : ∀ x < 2, (srcElem mc dR x).run tR = .ok (0, tR)
  | 0, _ => exAs (by decide +kernel) (by decide +kernel)
  | 1, _ => exAs (by decide +kernel) (by decide +kernel)
theorem read_at (q : Nat) (h : q ∈ [0]) : (fieldRd mc dR q).run tR = .ok (0, tR) := by
  cases List.mem_singleton.1 h
  exact exAs (by decide +kernel) (by decide +kernel)

/-- Two elements of TCM. -/
def vm (i : Instr) : VuCmd := { vc with ins := i, vl := 2, fmt := 0, scalars := [(0, 0x40)] }
theorem local0 {i : Instr} : t0.VecLocal (vm i) ((vm i).scalar 0 + 0) (fun i => (i : Int)) (fun i => 0x40 + 4 * i) := by
  have at0 : t0.Local 0x40 4 0x40 := ⟨by decide, by decide, by decide, by decide, by decide⟩
  have at1 : t0.Local 0x44 4 0x44 := ⟨by decide, by decide, by decide, by decide, by decide⟩
  have e : (vm i).scalar 0 + 0 = 0x40 := rfl
  have f : memBytes (vm i).fmt = 4 := (by decide : memBytes 0 = 4)
  rw [e]
  refine ⟨by decide, .inl rfl, fun k hk => ?_⟩
  have hk : k < 2 := by
    simp only [State.active, vm, Bool.and_eq_true] at hk
    exact of_decide_eq_true hk.1
  rw [f]
  match k, hk with
  | 0, _ => exact ⟨at0, by decide⟩
  | 1, _ => exact ⟨at1, by decide⟩

/-- One slot of cluster 0 draws: slot 3, which a record waits for. -/
def tDraw : State :=
  let s := { (tE {}).modCluster 0 (fun k => { k with ready := [(0, { recs := [0x1000200] })] }) with devstat := 0x20 }
  (s.modThread 1 (fun t => { t with occ := true })).modThread 2 (fun t => { t with occ := true })

theorem draw_slots : tDraw.drawSlots tDraw.ev.cl = [3] := by decide +kernel

theorem gang_site (c : Nat) : ((tLn gang).gangIn 0 gang 0 c).isSome = true := by
  unfold State.gangIn
  have h : ∀ a < 8, ∀ b < 8, ¬((((turnList (List.range 8) a).map (fun j => 8 * 0 + j)).filter (fun cl =>
      (tLn gang).takes 0 cl && decide (gang.prodOf ((List.range gang.nf).filter (fun k => gang.place k == 3)) ≤
        (((turnList (List.range 8) b).map (fun j => (tLn gang).gangSlots 0 (8 * cl + j))).filter (fun x =>
          decide (gang.prodOf ((List.range gang.nf).filter (fun k => gang.place k == 4)) ≤ x.length))).length))).length <
        gang.prodOf ((List.range gang.nf).filter (fun k => gang.place k == 2))) := by
    decide +kernel
  have := h (c % 8) (Nat.mod_lt _ (by decide)) (c / 8 % 8) (Nat.mod_lt _ (by decide))
  simp only [if_neg this, Option.isSome_some]

theorem gang_plan : ((tLn gang).planGang 0 gang).isSome = true := by
  unfold State.planGang
  have hg : gang.groups (gang.memberOf (gang.created / max 1 gang.gangSize) 0) = 0 :: (List.range 16).tail := by
    decide +kernel
  obtain ⟨x, hx⟩ := Option.isSome_iff_exists.1 (gang_site (tLn gang).free.1.toNat)
  simp only [hg, List.findSome?_cons, hx, Option.isSome_some]

theorem draws : (tDraw.drawSlots tDraw.ev.cl).getD (tDraw.free.1.toNat % (tDraw.drawSlots tDraw.ev.cl).length) 0 = 3 := by
  rw [draw_slots]
  simp [Nat.mod_one]

theorem witness_SchedulerDraw : ∃ (s s1 : State) (key : Nat) (r : Word), s.drawSlots s.ev.cl ≠ [] ∧
    (s.free.2).lottery ((s.drawSlots s.ev.cl).getD (s.free.1.toNat % (s.drawSlots s.ev.cl).length) 0) =
      some (key, r, s1) := by
  have h : ((tDraw.free.2).lottery 3).isSome = true := by decide +kernel
  obtain ⟨⟨key, r, s1⟩, hx⟩ := Option.isSome_iff_exists.1 h
  exact ⟨tDraw, s1, key, r, by rw [draw_slots]; decide, by rw [draws]; exact hx⟩

theorem witness_SchedulerGang : ∃ (s s1 : State) (l : Launch) (plan : List Nat),
    s.findLaunch s.ev.part s.ev.v = some l ∧ l.isGang = true ∧ l.ended = false ∧ l.created < l.units ∧
    (l.channels = [] ∨ l.gangLeft = 0) ∧ l.gangPlan = [] ∧ s.planGang s.ev.part l = some (plan, s1) := by
  obtain ⟨⟨plan, s1⟩, hx⟩ := Option.isSome_iff_exists.1 gang_plan
  exact ⟨tLn gang, s1, gang, plan, by decide +kernel, by decide, by decide, by decide, by decide, by decide, hx⟩

theorem witness_IntegerResult :
    ∃ (s s1 s2 : State) (i : Instr) (m : Sem Word) (d : Reg) (v : Word), intValue s i = some (m, d) ∧
      s.fits false ∧ m s = .ok v s1 ∧ writeS d v s1 = .ok () s2 :=
  ⟨t0, _, _, .add ⟨4, 5, 6, false, true⟩, _, _, _, rfl, fits0, okOf (by decide +kernel), okU (by decide +kernel)⟩

theorem witness_BranchResult :
    ∃ (s s1 : State) (i : Instr) (m : Sem Bool) (off : Word) (c : Bool), branchCond i = some (m, off) ∧
      s.fits true ∧ m s = .ok c s1 :=
  ⟨t0, _, .beqz ⟨4, false⟩ 8, _, _, true, rfl, fits0, okOf (by decide +kernel)⟩

theorem witness_JumpResult :
    (∃ (s : State), s.fits true) ∧
    (∃ (s s1 : State) (o : Line) (a : Word), s.fits true ∧ o.ea s = .ok a s1 ∧ a.toNat % 2 = 0) ∧
    (∃ (s s1 : State) (o : Line) (a : Word), s.fits true ∧ o.ea s = .ok a s1 ∧ a.toNat % 2 = 1) :=
  ⟨⟨t0, fits0⟩,
   ⟨t0, _, ⟨0, 16, false⟩, _, fits0, okOf (by decide +kernel), by decide +kernel⟩,
   ⟨t0, _, ⟨0, 17, false⟩, _, fits0, okOf (by decide +kernel), by decide +kernel⟩⟩

theorem witness_LoopResult :
    (∃ (s : State) (a : Reg) (len : Word), s.fits true ∧ loopActive s.th.loopst = false ∧ 1 ≤ len.toInt ∧
      len.toInt ≤ 511 ∧ a.toNat < 56 ∧ (s.myCore.test = true → a.toNat < 16)) ∧
    (∃ (s : State) (a : Reg) (len : Word), s.fits true ∧ (loopActive s.th.loopst = true ∨ len.toInt ≤ 0 ∨
      511 < len.toInt ∨ 56 ≤ a.toNat)) ∧
    (∃ (s : State) (n : Nat), n = loopReg s.th.loopst ∧ s.backEdge) ∧
    (∃ (s : State), s.backEdge ∧ 32 < loopLen s.th.loopst) ∧
    (∃ (s : State), ¬s.backEdge) :=
  ⟨⟨t0, 55, 511, fits0, by decide +kernel, by decide +kernel, by decide +kernel, by decide +kernel,
    by decide +kernel⟩,
   ⟨t0, 56, 1, fits0, by decide +kernel⟩,
   ⟨tL, _, rfl, ⟨by decide +kernel, by decide +kernel⟩⟩,
   ⟨{ t0.modTh (fun t => { t with loopst := loopWord 8 33 0x108 }) with pc := 0x106 },
     ⟨by decide +kernel, by decide +kernel⟩, by decide +kernel⟩,
   ⟨t0, (by intro h; exact absurd h.1 (by decide +kernel))⟩⟩

theorem witness_AccessResult :
    (∃ (s s1 s2 s3 : State) (i : Instr) (o : Mem) (n v : Nat) (ext : Nat → Word) (f : Bool) (ea : Word),
      loadForm i = some (o, n, ext, f) ∧ s.fits false ∧ (f = true → s.myCore.test = false) ∧
      o.loadEa s = .ok ea s1 ∧ loadN ea n s1 = .ok v s2 ∧
      (if f then writeF else writeS) o.d (ext v) s2 = .ok () s3) ∧
    (∃ (s s1 s2 : State) (i : Instr) (m : Sem (Word × Word)) (n : Nat) (v ea : Word), storeForm i = some (m, n) ∧
      s.fits false ∧ m s = .ok (v, ea) s1 ∧ storeN ea n v.toNat s1 = .ok () s2) :=
  ⟨⟨t0, _, _, _, .ld ⟨4, 0, 0x40, false, false⟩, _, _, _, _, false, _, rfl, fits0, by decide +kernel,
    okOf (by decide +kernel), okOf (by decide +kernel), okU (by decide +kernel)⟩,
   ⟨t0, _, _, .sd ⟨6, 0, 0x40, false, false⟩, _, _, _, _, rfl, fits0, okOf (by decide +kernel),
     okU (by decide +kernel)⟩⟩

theorem witness_SystemRegisters :
    (∃ (s s1 : State) (d : Reg) (num : Word), s.fits false ∧ (sysReadLevel num.toNat).toNat ≤ s.th.level.toNat ∧
      writeS d (s.sysRead num.toNat) s = .ok () s1) ∧
    (∃ (s s1 : State) (d : Reg), s.fits false ∧ s.th.capture.left = 0 ∧ s.th.vuq = [] ∧ s.th.pendVec = none ∧
      s.mauBusy s.cur = false ∧ writeS d s.th.fctl s = .ok () s1) ∧
    (∃ (s s1 : State) (i : Instr) (num : Nat) (o : Src1) (f : Word → State → State) (v : Word),
      sysWriteForm i = some (num, o, f) ∧ s.fits false ∧ (sysWriteLevel num).toNat ≤ s.th.level.toNat ∧
      o.read s = .ok v s1 ∧ s1.speculative s1.th = false) ∧
    (∃ (s : State) (num : Word), s.th.level.toNat < (sysReadLevel num.toNat).toNat) ∧
    (∃ (s : State) (i : Instr) (num : Nat) (o : Src1) (f : Word → State → State),
      sysWriteForm i = some (num, o, f) ∧ s.th.level.toNat < (sysWriteLevel num).toNat) :=
  ⟨⟨t0, _, 4, 0x101, fits0, by decide +kernel, okU (by decide +kernel)⟩,
   ⟨t0, _, 4, fits0, by decide +kernel, by decide +kernel, by decide +kernel, by decide +kernel,
     okU (by decide +kernel)⟩,
   ⟨t0, _, .ecauseWrite ⟨5, true⟩, _, _, _, _, rfl, fits0, by decide +kernel, okOf (by decide +kernel),
     by decide +kernel⟩,
   ⟨tU, 0x101, by decide +kernel⟩,
   ⟨tU, .ecauseWrite ⟨5, true⟩, _, _, _, rfl, by decide +kernel⟩⟩

theorem witness_FullEmptyResult :
    (∃ (s s1 s2 s3 : State) (o : Mem) (keep : Bool) (ea : Word) (cl off : Nat), s.fits false ∧
      o.loadEa s = .ok ea s1 ∧ fePlace (.load 8) ea s1 = .ok (cl, off) s2 ∧
      (keep = false → s2.speculative s2.th = false) ∧ (cl ≠ s2.kid → s2.th.meshOut = 0) ∧ s2.th.meshVal = none ∧
      smGet false (s2.cluster cl).full (off / 16) = true ∧ s2.spadPoison cl off 8 = none ∧
    writeS o.d (BitVec.ofNat 64 ((s2.cluster cl).read off 8)) (if keep then s2 else s2.setEmpty cl (off / 16)) =
      .ok () s3) ∧
    (∃ (s s1 s2 s3 : State) (o : Mem) (keep : Bool) (ea : Word) (cl off v : Nat), s.fits false ∧
      o.loadEa s = .ok ea s1 ∧ fePlace (.load 8) ea s1 = .ok (cl, off) s2 ∧
      (keep = false → s2.speculative s2.th = false) ∧ s2.th.meshVal = some v ∧
      writeS o.d (BitVec.ofNat 64 v) (s2.modTh (fun t => { t with meshVal := none })) = .ok () s3) ∧
    (∃ (s s1 s2 s3 s4 : State) (o : Mem) (v ea : Word) (w cl off : Nat), s.fits false ∧
      o.storeEa s = .ok (v, ea) s1 ∧ fePlace (.store 8) ea s1 = .ok (cl, off) s2 ∧ s2.speculative s2.th = false ∧
      meshAccess cl off 0 s2 = .ok w s3 ∧ noteStored (.spad cl off) 8 0xFF s3 = .ok () s4) ∧
    (∃ (s s1 s2 s3 : State) (o : Line) (ea : Word) (w cl off : Nat), s.fits false ∧ o.ea s = .ok ea s1 ∧
      fePlace { kind := .store, bytes := 1, aligned := false } ea s1 = .ok (cl, off) s2 ∧
      s2.speculative s2.th = false ∧ meshAccess cl off 0 s2 = .ok w s3) :=
  ⟨⟨t0, _, _, _, ⟨4, 0, 0x1000020, false, false⟩, false, _, 0, 0x20, fits0, okOf (by decide +kernel),
    okAs (by decide +kernel) (by decide +kernel), by decide +kernel, by decide +kernel, by decide +kernel,
    by decide +kernel, by decide +kernel, okU (by decide +kernel)⟩,
   ⟨t0.modTh (fun t => { t with meshVal := some 5 }), _, _, _, ⟨4, 0, 0x1000020, false, false⟩, false, _, 0, 0x20,
     _, (fitsOf rfl), okOf (by decide +kernel), okAs (by decide +kernel) (by decide +kernel), by decide +kernel,
     someOf (by decide +kernel), okU (by decide +kernel)⟩,
   ⟨t0, _, _, _, _, ⟨4, 0, 0x1000020, false, false⟩, _, _, _, 0, 0x20, fits0, okOf (by decide +kernel),
     okAs (by decide +kernel) (by decide +kernel), by decide +kernel, okOf (by decide +kernel),
     okU (by decide +kernel)⟩,
   ⟨t0, _, _, _, ⟨0, 0x1000020, false⟩, _, _, 0, 0x20, fits0, okOf (by decide +kernel),
     okAs (by decide +kernel) (by decide +kernel), by decide +kernel, okOf (by decide +kernel)⟩⟩

theorem witness_LineResult :
    (∃ (s s1 s2 s3 : State) (o : Mem) (ea : Word) (p : Place), s.fits false ∧ o.loadEa s = .ok ea s1 ∧
      linePlace ea s1 = .ok p s2 ∧ s2.lineOf p = none ∧ writeS o.d 4 s2 = .ok () s3) ∧
    (∃ (s s1 s2 s3 s4 : State) (o : Mem) (ea : Word) (p : Place) (line : Nat) (tcm : Bool) (code : Nat),
      s.fits false ∧ o.loadEa s = .ok ea s1 ∧ linePlace ea s1 = .ok p s2 ∧ s2.lineOf p = some (line, tcm) ∧
      s2.th.lineFault = none ∧ (tcm = false → s2.isStale (line * 64) = false) ∧
      (∀ off, p = .tcm off → s2.myCore.unitMoving off = false) ∧ l1Need line tcm false s2 = .ok () s3 ∧
    code = (if s3.myCore.isPinned line tcm then 1
      else if 16 - s3.myCore.tcmUnits ≤ s3.myCore.pinnedIn line + 1 then 2
      else if smGet 0 s3.myCore.quota s3.th.part ≤ smGet 0 s3.myCore.used s3.th.part then 3 else 0) ∧
    writeS o.d (BitVec.ofNat 64 code) (if code = 0 then s3.modMyCore (fun c => { c.setPin line tcm true with
      used := smSet 0 c.used s3.th.part (smGet 0 c.used s3.th.part + 1) }) else s3) = .ok () s4) ∧
    (∃ (s s1 s2 s3 : State) (o : Mem) (ea : Word) (p : Place) (line : Nat) (tcm : Bool), s.fits false ∧
      o.loadEa s = .ok ea s1 ∧ linePlace ea s1 = .ok p s2 ∧ s2.lineOf p = some (line, tcm) ∧
      (∀ off, p = .tcm off → s2.myCore.unitMoving off = false) ∧
    (if s2.myCore.isPinned line tcm then
       writeS o.d 0 (s2.modMyCore (fun c => { c.setPin line tcm false with
         used := smSet 0 c.used s2.th.part (smGet 0 c.used s2.th.part - 1) }))
     else writeS o.d 1 s2) = .ok () s3) ∧
    (∃ (s s1 s2 : State) (o : Line) (ea : Word) (p : Place), s.fits false ∧ o.ea s = .ok ea s1 ∧
      linePlace ea s1 = .ok p s2 ∧ s2.lineOf p = none) ∧
    (∃ (s s1 s2 : State) (o : Line) (ea : Word) (p : Place) (line : Nat) (tcm : Bool), s.fits false ∧
      o.ea s = .ok ea s1 ∧ linePlace ea s1 = .ok p s2 ∧ s2.lineOf p = some (line, tcm) ∧
      (∀ off, p = .tcm off → s2.myCore.unitMoving off = false) ∧ s2.th.opDone = false) ∧
    (∃ (s s1 s2 : State) (o : Line) (ea : Word) (hint : BitVec 1), s.fits false ∧ o.ea s = .ok ea s1 ∧
      (prefetch hint ea s1 = .ok () s2 ∨ (∃ e s', prefetch hint ea s1 = .error e s') ∧ s2 = s1)) :=
  ⟨⟨t0, _, _, _, ⟨4, 0, 0x10, false, false⟩, _, _, fits0, okOf (by decide +kernel), okOf (by decide +kernel),
    by decide +kernel, okU (by decide +kernel)⟩,
   ⟨t0, _, _, _, _, ⟨4, 5, 0x10, false, false⟩, _, .chip 0x20010, 0x800, false, 0, fits0, okOf (by decide +kernel),
     okAs (by decide +kernel) (by decide +kernel), rfl, by decide +kernel, by decide +kernel,
     (by intro off h; cases h), okU (by decide +kernel), by decide +kernel, okU (by decide +kernel)⟩,
   ⟨t0, _, _, _, ⟨4, 5, 0x10, false, false⟩, _, .chip 0x20010, _, _, fits0, okOf (by decide +kernel),
     okAs (by decide +kernel) (by decide +kernel), rfl, (by intro off h; cases h), okU (by decide +kernel)⟩,
   ⟨t0, _, _, ⟨0, 0x10, false⟩, _, _, fits0, okOf (by decide +kernel), okOf (by decide +kernel), by decide +kernel⟩,
   ⟨t0, _, _, ⟨5, 0x10, false⟩, _, .chip 0x20010, _, _, fits0, okOf (by decide +kernel),
     okAs (by decide +kernel) (by decide +kernel), rfl, (by intro off h; cases h), by decide +kernel⟩,
   ⟨t0, _, _, ⟨5, 0x10, false⟩, _, 0, fits0, okOf (by decide +kernel), .inl (okOf (by decide +kernel))⟩⟩

set_option maxRecDepth 4000 in
theorem witness_ElementResult :
    (∃ (s s1 s2 s3 s4 s5 : State) (o : MemT) (h t ea : Word) (dpa q v : Nat) (d : Desc) (p : Place), s.fits false ∧
      s.myCore.test = false ∧ Src2.read ⟨o.base, o.t, o.ub, o.ut⟩ s = .ok (h, t) s1 ∧
      elemPlace h (t + o.off) s1 = .ok (ea, dpa, d, q) s2 ∧
      check { kind := .load, bytes := d.size } ea s2 = .ok p s3 ∧ loadPlace p ea d.size s3 = .ok v s4 ∧
      writeF o.d (BitVec.ofNat 64 (d.pick q v)) s4 = .ok () s5) ∧
    (∃ (s s1 s2 s3 s4 s5 : State) (o : MemT) (h t ea : Word) (dpa q v : Nat) (d : Desc) (p : Place), s.fits false ∧
      s.myCore.test = false ∧ Src2.read ⟨o.base, o.t, o.ub, o.ut⟩ s = .ok (h, t) s1 ∧
      killF o.d o.ud s1 = .ok () s2 ∧ elemPlace h (t + o.off) s2 = .ok (ea, dpa, d, q) s3 ∧
      check (.store d.size) ea s3 = .ok p s4 ∧ v = d.place q 0 (s.th.getF o.d.toNat).toNat ∧
    ((match p with
      | .chip pa => (do
          noteStored (.chip pa) d.size (if d.fmt = 5 then (if q % 2 = 0 then 0x0F else 0xF0) else 0xFF)
          bufferCells pa ((cellsOf pa d.size v).map (fun (c : Host.Cell) =>
            (c.1, c.2, if d.fmt = 5 then (if q % 2 = 0 then 0x0F else 0xF0) else 0xFF))) [dpa]
            [⟨dpa, q, pa, (s.th.getF o.d.toNat).toNat % 2 ^ 64⟩])
      | p => storePlace p d.size v) s4 = .ok () s5)) ∧
    (∃ (s s1 s2 s3 : State) (o : Bin) (x h : Word) (d : Desc) (dpa : Nat) (inv : Bool), s.fits false ∧
      o.read s = .ok (x, h) s1 ∧ descDefined h s1 = .ok (d, dpa) s2 ∧
      writeS o.d (BitVec.ofNat 64 (if inv then d.unmapx x.toNat else d.mapx x.toNat)) s2 = .ok () s3) :=
  ⟨⟨t0, _, _, _, _, _, ⟨4, 8, 8, 0, false, false, false⟩, _, _, _, _, _, _, _, _, fits0, by decide +kernel,
    okOf (by decide +kernel), okOf (by decide +kernel), okOf (by decide +kernel), okOf (by decide +kernel),
    okU (by decide +kernel)⟩,
   ⟨t0, _, _, _, _, _, ⟨4, 8, 8, 0, false, false, false⟩, _, _, _, _, _, _, _, _, fits0, by decide +kernel,
     okOf (by decide +kernel), okU (by decide +kernel), okOf (by decide +kernel), okOf (by decide +kernel), rfl,
     okU (by decide +kernel)⟩,
   ⟨t0, _, _, _, ⟨4, 8, 8, false, false⟩, _, _, _, _, false, fits0, okOf (by decide +kernel),
     okOf (by decide +kernel), okU (by decide +kernel)⟩⟩

theorem witness_AtomicResult :
    (∃ (s s1 s2 s3 s4 : State) (o : MemT) (op : AtomOp) (c : Ctl) (ea t : Word) (p : Place) (old : Nat),
      s.fits false ∧ o.loadEa s = .ok (ea, t) s1 ∧ atomPlace ea (if op.w32 then 4 else 8) s1 = .ok p s2 ∧ o.d ≠ 0 ∧
    atomReturn c p (if op.w32 then 4 else 8) (fun x => amoNew op.op.toNat (if op.w32 then 4 else 8) x
      (t.toNat % 2 ^ (8 * (if op.w32 then 4 else 8)))) s2 = .ok old s3 ∧
        writeS o.d (sextW old (8 * (if op.w32 then 4 else 8))) s3 = .ok () s4) ∧
    (∃ (s s1 s2 : State) (o : MemT) (op : AtomOp) (c : Ctl) (ea t : Word) (pa : Nat), s.fits false ∧
      o.loadEa s = .ok (ea, t) s1 ∧ atomPlace ea (if op.w32 then 4 else 8) s1 = .ok (.chip pa) s2 ∧ o.d = 0 ∧
      vuStored s2 = .ok () s2 ∧ (Ctl.releases c = true → s2.Stored) ∧ entryCount s2.th.entries < 480) ∧
    (∃ (s s1 s2 s3 s4 : State) (o : MemT) (op : AtomOp) (c : Ctl) (ea t : Word) (cl off x old : Nat),
      s.fits false ∧ o.loadEa s = .ok (ea, t) s1 ∧
      atomPlace ea (if op.w32 then 4 else 8) s1 = .ok (.spad cl off) s2 ∧ o.d = 0 ∧ vuStored s2 = .ok () s2 ∧
      (Ctl.releases c = true → s2.Stored) ∧ s2.speculative s2.th = false ∧
      meshAccess cl off (if op.w32 then 4 else 8) s2 = .ok x s3 ∧
    atomAt (.spad cl off) (if op.w32 then 4 else 8) (fun x => amoNew op.op.toNat (if op.w32 then 4 else 8) x
      (t.toNat % 2 ^ (8 * (if op.w32 then 4 else 8)))) s3 = .ok old s4) ∧
    (∃ (s s1 s2 s3 s4 : State) (o : MemT) (c : Ctl) (d ea t : Word) (p : Place) (old : Nat), s.fits false ∧
      o.storeEa s = .ok (d, ea, t) s1 ∧ atomPlace ea 8 s1 = .ok p s2 ∧
      atomReturn c p 8 (fun x => if x = d.toNat then t.toNat else x) s2 = .ok old s3 ∧
      writeS o.d (BitVec.ofNat 64 old) s3 = .ok () s4) ∧
    (∃ (s s1 s2 : State) (o : MemT) (c : Ctl) (v ea t : Word) (pa : Nat), s.fits false ∧ s.th.rm < 5 ∧
      o.storeEaF 1 s = .ok ([v], ea, t) s1 ∧ check (.store 4) ea s1 = .ok (.chip pa) s2 ∧ vuStored s2 = .ok () s2 ∧
      (Ctl.releases c = true → s2.Stored) ∧ entryCount s2.th.entries < 480) ∧
    (∃ (s : State), s.fits false ∧ 5 ≤ s.th.rm) ∧
    (∃ (s s1 s2 s3 s4 : State) (o : Bin) (a t : Word) (pa : Nat), s.fits false ∧ o.read s = .ok (a, t) s1 ∧
      bitsN t.toNat 62 32 = 0 ∧ check (.store 4) a s1 = .ok (.chip pa) s2 ∧ commitOnly s2 = .ok () s3 ∧
      (t.toNat.testBit 63 = true → s3.writeHeld [pa / 256] = false) ∧
    ((match s3.slotAt pa, t.toNat.testBit 63 with
       | some _, false => writeS o.d 2 s3
       | none, false =>
         if 16 ≤ (s3.slots.filter (fun (x : Slot) => homeSlice x.pa == homeSlice pa)).length then writeS o.d 1 s3
         else
           let x : Slot := {
             pa := pa, next := bitsN t.toNat 31 0, drop := 0, ownerPart := s3.th.part, owner := s3.th.record }
           writeS o.d 0 { s3 with slots := x :: s3.slots }
       | none, true => writeS o.d (-1) s3
       | some x, true =>
         let r := s3.flushSlot x
         writeS o.d (BitVec.ofNat 64 (r.2 % 2 ^ 32 + x.drop % 2 ^ 32 * 2 ^ 32))
           { r.1 with slots := r.1.slots.filter (fun y => y.pa != pa) }) = .ok () s4)) ∧
    (∃ (w old t : Nat), (w = 4 ∨ w = 8) ∧ old < 2 ^ (8 * w) ∧ t < 2 ^ (8 * w)) :=
  ⟨⟨t0, _, _, _, _, ⟨4, 5, 6, 0x100, false, false, false⟩, ⟨0, false⟩, ⟨0, 0⟩, _, _, _, _, fits0,
    okOf (by decide +kernel), okOf (by decide +kernel), by decide +kernel, okOf (by decide +kernel),
    okU (by decide +kernel)⟩,
   ⟨t0, _, _, ⟨0, 5, 6, 0x100, false, false, false⟩, ⟨0, false⟩, ⟨0, 0⟩, _, _, _, fits0, okOf (by decide +kernel),
     okAs (by decide +kernel) rfl, by decide +kernel, okU (by decide +kernel),
     (by intro h; exact absurd h (by decide +kernel)), by decide +kernel⟩,
   ⟨t0, _, _, _, _, ⟨0, 7, 6, 0, false, false, false⟩, ⟨0, false⟩, ⟨0, 0⟩, _, _, 0, 0x10, _, _, fits0,
     okOf (by decide +kernel), okAs (by decide +kernel) rfl, by decide +kernel, okU (by decide +kernel),
     (by intro h; exact absurd h (by decide +kernel)), by decide +kernel, okOf (by decide +kernel),
     okOf (by decide +kernel)⟩,
   ⟨t0, _, _, _, _, ⟨4, 5, 6, 0x100, false, false, false⟩, ⟨0, 0⟩, _, _, _, _, _, fits0, okOf (by decide +kernel),
     okOf (by decide +kernel), okOf (by decide +kernel), okU (by decide +kernel)⟩,
   ⟨t0, _, _, ⟨4, 5, 6, 0x100, false, false, false⟩, ⟨0, 0⟩, _, _, _, _, fits0, by decide +kernel,
     okOf (by decide +kernel), okAs (by decide +kernel) rfl, okU (by decide +kernel),
     (by intro h; exact absurd h (by decide +kernel)), by decide +kernel⟩,
   ⟨t0.modTh (fun t => { t with fctl := 0xA0 }), (fitsOf rfl), by decide +kernel⟩,
   ⟨t0, _, _, _, _, ⟨4, 5, 6, false, false⟩, _, _, _, fits0, okOf (by decide +kernel), by decide +kernel,
     okAs (by decide +kernel) rfl, okU (by decide +kernel), by decide +kernel, okU (by decide +kernel)⟩,
   ⟨4, 2 ^ 32 - 1, 1, by decide +kernel, by decide +kernel, by decide +kernel⟩⟩

theorem witness_FenceResult :
    ∃ (s : State), s.fits false ∧ s.Quiet :=
  ⟨t0, fits0, quiet0⟩

theorem witness_TrapEntry :
    (∃ (s s1 : State) (i : Instr) (cause : Nat) (info : Word) (code : BitVec 8),
    (i = .trap code ∧ cause = 0x19 ∧ info = code.zeroExtend 64 ∨
      i = .bkpt code ∧ cause = 0x1A ∧ info = code.zeroExtend 64 ∨
      i = .illegal code ∧ cause = 0x01 ∧ info = s.baseInfo) ∧ s.fits true ∧ s.Takes ∧
    (s.modTh (fun t => { t with lineFault := none })).frameWrite s.th.part s.cid (s.th.record + 0x38)
       (faultWord false ⟨cause, info⟩) = .ok s1 ∧ s1.thread s.cur = { s.th with lineFault := none }) ∧
    (∃ (s s1 : State) (code : BitVec 8), s.fits true ∧ s.th.level ≠ .F ∧ s.myCore.test = false ∧ hact s.th = true ∧
      s.th.capture = {} ∧ s.th.xsel = none ∧ s.th.vuq = [] ∧ s.th.entries = [] ∧ s.speculative s.th = false ∧
    ((s.modTh (fun t => { t with lineFault := none })).modTh Thread.emptied).frameWrite s.th.part s.cid
       (s.th.record + 0x38) (faultWord true ⟨0x19, code.zeroExtend 64⟩) = .ok s1) :=
  ⟨⟨t0, _, .trap 255, _, _, 255, .inl ⟨rfl, rfl, rfl⟩, fits0, takes0, exOf (by decide +kernel), by decide +kernel⟩,
   ⟨tH, _, 255, (fitsOf rfl), by decide +kernel, by decide +kernel, by decide +kernel, by decide +kernel,
     by decide +kernel, by decide +kernel, by decide +kernel, by decide +kernel, exOf (by decide +kernel)⟩⟩

theorem witness_EretResult :
    (∃ (s : State), s.fits true ∧ s.th.level ≠ .U ∧ hact s.th = true ∧
    (bitsN s.th.ecause.toNat 9 8 = 0 ∨ bitsN s.th.ecause.toNat 9 8 = 1 ∨
      bitsN s.th.ecause.toNat 9 8 = 2 ∧ s.th.level = .F)) ∧
    (∃ (s : State), s.th.level = .U) ∧
    (∃ (s : State), s.fits true ∧ s.th.level ≠ .U ∧ (hact s.th = false ∨ bitsN s.th.ecause.toNat 9 8 = 3)) ∧
    (∃ (s : State), s.fits true ∧ s.th.level = .S ∧ hact s.th = true ∧ bitsN s.th.ecause.toNat 9 8 = 2) :=
  ⟨⟨tH, (fitsOf rfl), by decide +kernel, by decide +kernel, by decide +kernel⟩,
   ⟨tU, by decide +kernel⟩,
   ⟨t0, fits0, by decide +kernel, by decide +kernel⟩,
   ⟨tH2, (fitsOf rfl), by decide +kernel, by decide +kernel, by decide +kernel⟩⟩

theorem witness_IdleResult :
    (∃ (s : State), s.fits false) ∧
    (∃ (s : State), s.fits false) ∧
    (∃ (s : State), s.fits false ∧ s.myCore.mailbox ≠ []) ∧
    (∃ (s : State), s.ev.ok = false) ∧
    (∃ (s : State), s.fits false ∧ s.th.level = .F ∧ s.speculative s.th = false) ∧
    (∃ (s : State), s.th.level ≠ .F) :=
  ⟨⟨t0, fits0⟩,
   ⟨t0, fits0⟩,
   ⟨t0, fits0, by decide +kernel⟩,
   ⟨t0, by decide +kernel⟩,
   ⟨tF, (fitsOf rfl), by decide +kernel, by decide +kernel⟩,
   ⟨t0, by decide +kernel⟩⟩

theorem witness_InvalidateResult :
    (∃ (s s1 : State) (o : Src1) (kind : BitVec 2) (va : Word), s.fits false ∧ kind ≠ 3 ∧
      (if kind = 2 then Level.F else .S).toNat ≤ s.th.level.toNat ∧ o.read s = .ok va s1 ∧
      s1.speculative s1.th = false) ∧
    (∃ (s s1 s2 : State) (o : Src1) (op : BitVec 2) (scope : BitVec 3) (ea : Word) (p : Place), s.fits false ∧
      (op = 1 → 4 ≤ scope.toNat → Level.S.toNat ≤ s.th.level.toNat) ∧ o.read s = .ok ea s1 ∧
      s1.speculative s1.th = false ∧ linePlace ea s1 = .ok p s2 ∧
      (∀ off, p = .tcm off → s2.myCore.unitMoving off = false)) ∧
    (∃ (s : State), s.ev.id < 1024 ∧ s.descsHeld s.ev.id = true) ∧
    (∃ (s : State), s.ev.id < 1024 ∧ s.descsHeld s.ev.id = false) ∧
    (∃ (s : State), 1024 ≤ s.ev.id ∧ s.ev.id < 1152) :=
  ⟨⟨t0, _, ⟨5, false⟩, 0, _, fits0, by decide +kernel, by decide +kernel, okOf (by decide +kernel),
    by decide +kernel⟩,
   ⟨t0, _, _, ⟨5, false⟩, 0, 5, _, .chip 0x20000, fits0, by decide +kernel, okOf (by decide +kernel),
     by decide +kernel, okAs (by decide +kernel) (by decide +kernel), (by intro off h; cases h)⟩,
   ⟨tM { mc with running := true, held := [0x20040] } { n := 2 }, by decide +kernel, by decide +kernel⟩,
   ⟨{ t0 with ev := { id := 1023 } }, by decide +kernel, by decide +kernel⟩,
   ⟨{ t0 with ev := { id := 1151 } }, by decide +kernel, by decide +kernel⟩⟩

theorem witness_ChannelResult :
    (∃ (s : State) (ch : BitVec 6), s.fits false ∧ s.myCore.test = false ∧ s.Quiet ∧ s.inPhase s.cur = false ∧
      s.memberOf ch.toNat s.cur = true ∧
      (s.th.arrA ch.toNat && s.th.arrRP ch.toNat == (s.channel ch.toNat).phase) = false) ∧
    (∃ (s : State) (ch : BitVec 6), s.fits false ∧ s.myCore.test = false ∧ s.th.pendVec = none ∧
      s.th.pendMau = none ∧ s.inPhase s.cur = false ∧ s.memberOf ch.toNat s.cur = true ∧
      (s.th.arrA ch.toNat = true ∧ s.th.arrRP ch.toNat ≠ (s.channel ch.toNat).phase ∨ s.th.opDone = true)) ∧
    (∃ (s s1 : State) (d : Reg) (ch : BitVec 6), s.fits false ∧ s.myCore.test = false ∧
    ((let m := s.memberOf ch.toNat s.cur
     let a := m && s.th.arrA ch.toNat
     let cur := s.th.arrRP ch.toNat == (s.channel ch.toNat).phase
     writeS d (BitVec.ofNat 64 (b2n m * 8 + b2n (a && !cur) * 4 + b2n (a && cur) * 2 +
       b2n (s.channel ch.toNat).phase)) s) = .ok () s1)) ∧
    (∃ (s s1 : State) (o : Src2) (a t : Word), s.fits false ∧ s.th.level ≠ .U ∧ o.read s = .ok (a, t) s1 ∧
      bitsN a.toNat 63 26 = 0 ∧ bitsN a.toNat 15 6 = 0 ∧ bitsN t.toNat 63 4 = 0 ∧
      s1.myPart.wbmask.toNat.testBit (bitsN a.toNat 5 0) = true ∧ s1.speculative s1.th = false) ∧
    (∃ (s : State), s.allArrived s.ev.ch = true ∧ (s.channel s.ev.ch).releasing = false ∧
      s.digestsOn s.ev.ch = []) ∧
    (∃ (s : State), s.allArrived s.ev.ch = false) ∧
    (∃ (s : State) (k since : Nat), (s.thread s.ev.tid).wait = some ⟨.channel k, since⟩ ∧ since = s.ev.since ∧
      (s.thread s.ev.tid).level ≠ .F) :=
  ⟨⟨t0, 0, fits0, by decide +kernel, quiet0, by decide +kernel, by decide +kernel, by decide +kernel⟩,
   ⟨t0.modTh (fun t => t.setArr 0 true true), 0, (fitsOf rfl), by decide +kernel, by decide +kernel,
     by decide +kernel, by decide +kernel, by decide +kernel, by decide +kernel⟩,
   ⟨t0, _, 4, 0, fits0, by decide +kernel, okU (by decide +kernel)⟩,
   ⟨t0, _, ⟨4, 8, false, false⟩, _, _, fits0, by decide +kernel, okOf (by decide +kernel), by decide +kernel,
     by decide +kernel, by decide +kernel, by decide +kernel, by decide +kernel⟩,
   ⟨t0.modTh (fun t => t.setArr 0 true false), by decide +kernel, by decide +kernel, by decide +kernel⟩,
   ⟨t0, by decide +kernel⟩,
   ⟨t0.modTh (fun t => { t with wait := some ⟨.channel 0, 0⟩ }), _, _, rfl, rfl, by decide +kernel⟩⟩

theorem witness_WordResult :
    (∃ (s s1 s2 s3 : State) (o : Mem) (v ea : Word) (cl off x : Nat), s.fits false ∧ o.storeEa s = .ok (v, ea) s1 ∧
      tbPlace ea false s1 = .ok (cl, off) s2 ∧ s2.speculative s2.th = false ∧ meshAccess cl off 8 s2 = .ok x s3) ∧
    (∃ (s s1 s2 s3 s4 : State) (o : Line) (ea : Word) (cl off x : Nat), s.fits false ∧ o.ea s = .ok ea s1 ∧
      tbPlace ea false s1 = .ok (cl, off) s2 ∧ commitOnly s2 = .ok () s3 ∧ s3.th.meshOut = 0 ∧
      meshAccess cl off 8 s3 = .ok x s4) ∧
    (∃ (s s1 s2 s3 : State) (o : Mem) (d ea : Word) (cl off : Nat), s.fits false ∧ s.th.pendVec = none ∧
      s.th.pendMau = none ∧ s.inPhase s.cur = false ∧ o.storeEa s = .ok (d, ea) s1 ∧
      tbPlace ea true s1 = .ok (cl, off) s2 ∧ TbWord.phase (s2.tbRead cl off) ≠ d.toNat.testBit 44 ∧
    writeS o.d (BitVec.ofNat 64 (s2.tbRead cl off))
      (((if s2.th.st = 4 then s2.putWait s2.cur 2 0 0 else s2).refreshOf s2.cur).modTh (fun t =>
        { t with segNew := t.segNew || t.between })) = .ok () s3) :=
  ⟨⟨t0, _, _, _, ⟨4, 0, 0x13FC000, false, false⟩, _, _, 0, 0x3FC000, _, fits0, okOf (by decide +kernel),
    okAs (by decide +kernel) (by decide +kernel), by decide +kernel, okOf (by decide +kernel)⟩,
   ⟨t0, _, _, _, _, ⟨0, 0x13FC000, false⟩, _, 0, 0x3FC000, _, fits0, okOf (by decide +kernel),
     okAs (by decide +kernel) (by decide +kernel), okU (by decide +kernel), by decide +kernel,
     okOf (by decide +kernel)⟩,
   ⟨t0.tbWrite 0 0x3FC000 (2 ^ 44), _, _, _, ⟨4, 0, 0x13FC000, false, false⟩, _, _, _, _, (fitsOf rfl),
     by decide +kernel, by decide +kernel, by decide +kernel, okOf (by decide +kernel), okOf (by decide +kernel),
     by decide +kernel, okU (by decide +kernel)⟩⟩

theorem witness_MailboxResult :
    (∃ (s : State), s.fits false ∧ s.myCore.mailbox ≠ []) ∧
    (∃ (s s1 : State) (d : Reg) (w0 w1 : Word) (rest : List (Word × Word)), s.fits false ∧
      s.myCore.mailbox = (w0, w1) :: rest ∧ s.myCore.port = [] ∧ s.myCore.spillq = [] ∧
      writeS d w0 (s.modMyCore (fun c => { c with mailbox := rest })) = .ok () s1) ∧
    (∃ (s s1 : State) (o : Src3) (d a t : Word), s.fits false ∧ o.read s = .ok (d, a, t) s1 ∧
      bitsN a.toNat 63 10 = 0 ∧ s1.mailOk s1.th.part a.toNat = true ∧ s1.speculative s1.th = false ∧ s1.Stored ∧
      ((s1.core a.toNat).preempted = true ∨ (s1.core a.toNat).spillq ≠ [] ∨
      (s1.core a.toNat).mailbox.length < 16)) ∧
    (∃ (s : State) (c : Nat), (s.core c).preempted = false ∧ (s.core c).spillq = [] ∧ (s.core c).port = [] ∧
      (s.core c).mailbox.length < 16) ∧
    (∃ (s : State) (c : Nat) (x : Word × Word × Nat) (xs : List (Word × Word × Nat)),
      (s.core c).preempted = false ∧ (s.core c).mailbox.length < 16 ∧ (s.core c).spillq = x :: xs) :=
  ⟨⟨t0, fits0, by decide +kernel⟩,
   ⟨t0, _, 4, _, _, _, fits0, rfl, by decide +kernel, by decide +kernel, okU (by decide +kernel)⟩,
   ⟨t0, _, ⟨5, 4, 6, false, false, false⟩, _, _, _, fits0, okOf (by decide +kernel), by decide +kernel,
     by decide +kernel, by decide +kernel, ⟨by decide +kernel, by decide +kernel, by decide +kernel⟩,
     by decide +kernel⟩,
   ⟨t0, 1, by decide +kernel, by decide +kernel, by decide +kernel, by decide +kernel⟩,
   ⟨t0.modCore 1 (fun c => { c with spillq := [(1, 2, 0)] }), 1, _, _, by decide +kernel, by decide +kernel, rfl⟩⟩

theorem witness_LaunchResult :
    (∃ (s s1 s2 s3 : State) (o : Src1) (a : Word) (hdr : List Word), s.fits false ∧ o.read s = .ok a s1 ∧
      s1.Stored ∧ commitOnly s1 = .ok () s2 ∧ s2.speculative s2.th = false ∧ s2.myPart.launches.length < 256 ∧
      a.toNat % 128 = 0 ∧
      (List.range 16).mapM (fun k => readPerformed (a + BitVec.ofNat 64 (8 * k))) s2 = .ok hdr s3 ∧
      s3.headerFault s2.th.part { addr := a, hdr := hdr, level := s2.th.level, core := s2.cid } = none) ∧
    (∃ (s s1 s2 : State) (o : Src1) (r : Word), s.fits false ∧ o.read s = .ok r s1 ∧ r.toNat % 64 = 0 ∧ s1.Stored ∧
      commitOnly s1 = .ok () s2 ∧ s2.speculative s2.th = false) ∧
    (∃ (s s1 s2 : State) (o : Src1), s.fits false ∧ s.inPhase s.cur = false ∧ s.th.suspVal = none ∧
      o.read s = .ok 0 s1 ∧ (¬(s1.th.level = .S ∧ hact s1.th = true)) ∧ suspendAfter 0 0 0 s1 = .ok () s2) ∧
    (∃ (s s1 s2 : State) (o : Src1) (v : Word), s.fits false ∧ s.inPhase s.cur = false ∧ s.th.suspVal = none ∧
      o.read s = .ok v s1 ∧ v ≠ 0 ∧ (¬(s1.th.level = .S ∧ hact s1.th = true)) ∧ s1.th.suspVal = none ∧
      deliverAll s1 = .ok () s1 ∧
    ((do
      let _ ← check (.store 8) v
      drainAll
      storeN v 8 s1.th.record.toNat : Sem Unit) s1 = .ok () s2)) ∧
    (∃ (s s1 : State) (v : Word), s.fits false ∧ s.inPhase s.cur = false ∧ s.th.suspVal = some v ∧ v ≠ 0 ∧
      (¬(s.th.level = .S ∧ hact s.th = true)) ∧
    (do
      commitPoint
      leaveSlot 5 6 v.toNat : Sem Unit) s = .ok () s1) ∧
    (∃ (s : State), s.fits false ∧ s.inPhase s.cur = false) ∧
    (∃ (s : State), s.Quiet) :=
  ⟨⟨t0, _, _, _, ⟨6, false⟩, _, _, fits0, okOf (by decide +kernel),
    ⟨by decide +kernel, by decide +kernel, by decide +kernel⟩, okU (by decide +kernel), by decide +kernel,
    by decide +kernel, by decide +kernel, okOf (by decide +kernel), by decide +kernel⟩,
   ⟨t0, _, _, ⟨5, false⟩, _, fits0, okOf (by decide +kernel), by decide +kernel,
     ⟨by decide +kernel, by decide +kernel, by decide +kernel⟩, okU (by decide +kernel), by decide +kernel⟩,
   ⟨t0, _, _, ⟨4, false⟩, fits0, by decide +kernel, by decide +kernel, okOf (by decide +kernel), by decide +kernel,
     okU (by decide +kernel)⟩,
   ⟨t0, t0, _, ⟨6, false⟩, 0x80, fits0, by decide +kernel, by decide +kernel, rfl, by decide +kernel,
     by decide +kernel, by decide +kernel, rfl, okU (by decide +kernel)⟩,
   ⟨t0.modTh (fun t => { t with suspVal := some 5 }), _, 5, (fitsOf rfl), by decide +kernel, rfl,
     by decide +kernel, by decide +kernel, okU (by decide +kernel)⟩,
   ⟨t0, fits0, by decide +kernel⟩,
   ⟨t0, quiet0⟩⟩

theorem witness_WorkResult :
    (∃ (s s1 s2 : State) (o : Un) (k : Word), s.fits false ∧ o.read s = .ok k s1 ∧
    writeS o.d (if bitsN s1.th.wshape.toNat 38 36 ≤ k.toNat then 0xFFFFFFFFFFFFFFFF
      else BitVec.ofNat 64 (widField s1.th.wshape.toNat s1.th.wid.toNat k.toNat)) s1 = .ok () s2) ∧
    (∃ (s s1 s2 : State) (o : Src1) (v : Word), s.fits false ∧ o.read s = .ok v s1 ∧ commitOnly s1 = .ok () s2) ∧
    (∃ (s s1 : State) (d : Reg), s.fits false ∧ writeS d s.th.tstamp s = .ok () s1) ∧
    (∃ (s s1 s2 : State) (o : Bin) (q n : Word), s.fits false ∧ s.th.level ≠ .U ∧ o.read s = .ok (q, n) s1 ∧
      bitsN q.toNat 63 4 = 0 ∧ bitsN n.toNat 63 16 = 0 ∧ s1.speculative s1.th = false ∧
    writeS o.d (BitVec.ofNat 64 (smGet 0 s1.myPart.tickets q.toNat))
      (s1.modPart s1.th.part (fun p => { p with tickets := smSet 0 p.tickets q.toNat n.toNat })) = .ok () s2) ∧
    (∃ (s s1 s2 : State) (o : Un) (q : Word), s.fits false ∧ o.read s = .ok q s1 ∧ bitsN q.toNat 63 4 = 0 ∧
      writeS o.d (BitVec.ofNat 64 s1.th.queue) (s1.modTh (fun t => { t with queue := q.toNat })) = .ok () s2) ∧
    (∃ (s s1 : State) (o : Src1) (v : Word), s.fits false ∧ o.read s = .ok v s1) :=
  ⟨⟨t0, _, _, ⟨4, 8, false⟩, _, fits0, okOf (by decide +kernel), okU (by decide +kernel)⟩,
   ⟨t0, _, _, ⟨5, false⟩, _, fits0, okOf (by decide +kernel), okU (by decide +kernel)⟩,
   ⟨t0, _, 4, fits0, okU (by decide +kernel)⟩,
   ⟨t0, _, _, ⟨4, 8, 8, false, false⟩, _, _, fits0, by decide +kernel, okOf (by decide +kernel), by decide +kernel,
     by decide +kernel, by decide +kernel, okU (by decide +kernel)⟩,
   ⟨t0, _, _, ⟨4, 8, false⟩, _, fits0, okOf (by decide +kernel), by decide +kernel, okU (by decide +kernel)⟩,
   ⟨t0, _, ⟨8, false⟩, _, fits0, okOf (by decide +kernel)⟩⟩

theorem witness_SchedulerResult :
    (∃ (s : State) (l : Launch) (cl slot : Nat) (rest : List Nat), s.findLaunch s.ev.part s.ev.v = some l ∧
      l.isGang = false ∧ l.ended = false ∧ l.created < l.units ∧ s.unitSite s.ev.part l = some cl ∧
      l.freeSlots l.created 1 = some (slot :: rest)) ∧
    (∃ (s : State) (l : Launch) (slots : List Nat), s.findLaunch s.ev.part s.ev.v = some l ∧ l.isGang = true ∧
      l.ended = false ∧ l.created < l.units ∧ (l.channels = [] ∨ l.gangLeft = 0) ∧ l.gangPlan ≠ [] ∧
      (∀ t ∈ l.gangPlan, s.coreTakes s.ev.part (t / 4) = true) ∧ s.gangReady s.ev.part l = true ∧
      l.freeSlots 0 l.gangSize = some slots) ∧
    (∃ (s : State) (l : Launch), s.findLaunch s.ev.part s.ev.v = some l ∧ l.finished = l.units) ∧
    (∃ (s : State) (l : Launch), s.findLaunch s.ev.part s.ev.v = some l) :=
  ⟨⟨tLn lau, lau, _, 0, [], by decide +kernel, by decide +kernel, by decide +kernel, by decide +kernel,
    someOf (by decide +kernel), by decide +kernel⟩,
   ⟨(tLn { gang with gangPlan := [4, 5] }).modCore 1 (fun c => { c with test := false }),
     { gang with gangPlan := [4, 5] }, _, by decide +kernel, by decide +kernel, by decide +kernel,
     by decide +kernel, by decide +kernel, by decide +kernel, by decide +kernel, by decide +kernel,
     someOf (by decide +kernel)⟩,
   ⟨tLn { lau with finished := 2 }, { lau with finished := 2 }, by decide +kernel, by decide +kernel⟩,
   ⟨tLn lau, _, someOf (by decide +kernel)⟩⟩

theorem witness_FloatResult :
    ∃ (s s1 s2 : State) (i : Instr) (m : Sem (Word × Flags)) (toF : Bool) (d : Reg) (v : Word) (fl : Flags),
      floatForm i = some (m, toF, d) ∧ s.fits false ∧ m s = .ok (v, fl) s1 ∧
      (if toF then writeF else writeS) d v (s1.raiseFlags s1.cur fl) = .ok () s2 :=
  ⟨t0, _, _, .fadd ⟨4, 5, 6, false, false⟩ 0, _, _, _, _, _, rfl, fits0, okOf (by decide +kernel),
    okU (by decide +kernel)⟩

theorem witness_FloatTest :
    (∃ (s s1 s2 : State) (o : Bin) (v c : BitVec 2) (a b : Word), s.fits false ∧ o.readF s = .ok (a, b) s1 ∧
    ((let r := fun k => condVal c.toNat (laneVal (varFmt v) a k) (laneVal (varFmt v) b k)
     let n := varLanes v
     writeS o.d (BitVec.ofNat 64 (if v = 1 then (if c = 0 then b2n ((r 0).1 && (r 1).1) else b2n ((r 0).1 || (r 1).1))
        else ((List.range n).map (fun k => b2n (r k).1 * 2 ^ k)).sum))
      (s1.raiseFlags s1.cur ((List.range n).foldl (fun x k => x ||| (r k).2) 0))) = .ok () s2)) ∧
    (∃ (s s1 s2 : State) (o : Un) (v : BitVec 2) (a : Word), s.fits false ∧ o.readF s = .ok a s1 ∧
    writeS o.d (BitVec.ofNat 64 ((List.range (varLanes v)).foldl (fun r k =>
      r + 2 ^ (classOf (varFmt v) (laneOf (varFmt v) a k)) * 2 ^ (16 * k)) 0)) s1 = .ok () s2) ∧
    (∃ (s s1 s2 : State) (o : Un) (src dst : BitVec 3) (a : Word), s.fits false ∧ o.readF s = .ok a s1 ∧
      convOk src.toNat dst.toNat = true ∧ (convRounds src.toNat dst.toNat = true → s1.th.rm < 5) ∧
    ((let r := convElem src.toNat dst.toNat s1.myCore.tbl4 (if convRounds src.toNat dst.toNat then s1.th.rm else 0)
        (a.toNat % 2 ^ fmtBits src.toNat)
     writeF o.d (BitVec.ofNat 64 r.1) (s1.raiseFlags s1.cur r.2)) = .ok () s2)) ∧
    (∃ (s s1 : State) (d : Reg) (v : BitVec 2), s.fits false ∧ s.myCore.test = false ∧
    ((let g := genStep s.th.genLo s.th.genHi
     let x := g.1.toNat
     writeF d (if v = 1 then g.1
       else if v = 3 then ofLanes .bf16 ((List.range 4).map (fun k =>
         unitCode .bf16 (bitsN x (63 - 8 * k) (56 - 8 * k)) 8))
       else ofLanes .fp32 ((List.range (if v = 2 then 2 else 1)).map (fun k =>
         unitCode .fp32 (bitsN x (63 - 24 * k) (40 - 24 * k)) 24)))
      (s.modTh (fun t => { t with genLo := g.2.1, genHi := g.2.2 }))) = .ok () s1)) ∧
    (∃ (s : State), s.fits false ∧ s.myCore.test = false ∧ 5 ≤ s.th.rm) ∧
    (∃ (s s1 : State) (u : Un) (a : Word), s.fits false ∧ s.myCore.test = false ∧ 5 ≤ s.th.rm ∧
      u.read s = .ok a s1) ∧
    (∃ (s : State) (src dst : BitVec 3), s.fits false ∧ s.myCore.test = false ∧ 5 ≤ s.th.rm ∧
      convOk src.toNat dst.toNat = true ∧ convRounds src.toNat dst.toNat = true) :=
  ⟨⟨t0, _, _, ⟨4, 5, 6, false, false⟩, 0, 1, _, _, fits0, okOf (by decide +kernel), okU (by decide +kernel)⟩,
   ⟨t0, _, _, ⟨4, 5, false⟩, 0, _, fits0, okOf (by decide +kernel), okU (by decide +kernel)⟩,
   ⟨t0, _, _, ⟨4, 5, false⟩, 0, 1, _, fits0, okOf (by decide +kernel), by decide +kernel, by decide +kernel,
     okU (by decide +kernel)⟩,
   ⟨t0, _, 4, 0, fits0, by decide +kernel, okU (by decide +kernel)⟩,
   ⟨t0.modTh (fun t => { t with fctl := 0xA0 }), (fitsOf rfl), by decide +kernel, by decide +kernel⟩,
   ⟨t0.modTh (fun t => { t with fctl := 0xA0 }), _, ⟨4, 5, false⟩, _, (fitsOf rfl), by decide +kernel,
     by decide +kernel, okOf (by decide +kernel)⟩,
   ⟨t0.modTh (fun t => { t with fctl := 0xA0 }), 0, 1, (fitsOf rfl), by decide +kernel, by decide +kernel,
     by decide +kernel, by decide +kernel⟩⟩

theorem witness_NumberRules :
    (∃ (ts : List (Bool × Nat × Int)), ts ≠ []) ∧
    (∃ (v : BitVec 2) (k : Nat), k < varLanes v) ∧
    (∃ (n w k : Nat), 0 < w ∧ n * w ≤ 64 ∧ k < n) ∧
    (∃ (n w : Nat), n * w ≤ 64) :=
  ⟨⟨[(false, 1, 0)], by decide +kernel⟩,
   ⟨3, 3, by decide +kernel⟩,
   ⟨8, 8, 7, by decide +kernel, by decide +kernel, by decide +kernel⟩,
   ⟨8, 8, by decide +kernel⟩⟩

theorem witness_VectorIssue :
    (∃ (s s1 s2 : State) (i : Instr) (rs : List (Reg × Bool)) (xs : List (Nat × Word)), vecScalars i = some rs ∧
      s.fits false ∧ s.vecFine i ∧ vecSources rs s = .ok xs s1 ∧
      (5 ≤ s1.th.rm → s1.vecUnsettled (s1.vuCmd i xs []) = false ∧ s1.vecConverts (s1.vuCmd i xs []) = false) ∧
      needVx s1 = .ok () s2 ∧ s2.th.stopped = false) ∧
    (∃ (s s1 s2 : State) (d : Reg) (m : BitVec 3) (xs : List Word), s.fits false ∧ s.vecFine (.vrand d m) ∧
      drawN ((bitsN s.th.vctl.toNat 6 0 + 1) / 2) s = .ok xs s1 ∧ needVx s1 = .ok () s2 ∧ s2.th.stopped = false ∧
      s2.vuRoom) ∧
    (∃ (s s1 s2 : State) (o : Un) (xs : List (Nat × Word)) (sb : Nat), s.fits false ∧ s.vecFine (.scfg o) ∧
      vecSources [(o.a, o.ua)] s = .ok xs s1 ∧ sb.testBit (o.d.toNat - 28) = decide (o.a ≠ 0) ∧
      (∀ k, k ≠ o.d.toNat - 28 → sb.testBit k = s1.th.sb.testBit k) ∧
      needVx (s1.modTh (fun t => { t with sb := sb })) = .ok () s2 ∧ s2.th.stopped = false ∧ s2.vuRoom) ∧
    (∃ (s s1 u s2 : State) (o : Un) (a : Word), s.fits false ∧ s.th.capture.left = 0 ∧ o.a.toNat < 56 ∧
      o.read s = .ok a s1 ∧ needVx s1 = .ok () u ∧
    ((let vl := bitsN a.toNat 6 0
     let f := bitsN a.toNat 10 8
     if vl = 0 ∨ (f ≠ 0 ∧ f ≠ 1 ∧ f ≠ 6) then writeS o.d 0 s1
     else writeS o.d (BitVec.ofNat 64 (min vl 64)) (u.modTh (fun t => { t with
       vctl := putBits (putBits t.vctl 6 0 (min vl 64)) 10 8 f }))) = .ok () s2)) ∧
    (∃ (s u s1 : State) (d v : Reg), s.fits false ∧ s.myCore.test = false ∧ s.th.capture.left = 0 ∧
      (s.th.bound (some v.toNat) = true → s.speculative s.th = false) ∧ s.th.vuq = [] ∧ s.th.pendVec = none ∧
      needVx s = .ok () u ∧
    writeS d (if (u.th.stream v.toNat).bound then BitVec.ofNat 64 (u.th.stream v.toNat).remaining else -1) u =
      .ok () s1) ∧
    (∃ (s s1 u : State) (o : Src1) (stagger c : Word), s.fits false ∧ s.th.capture.left = 0 ∧ o.a.toNat < 56 ∧
      stagger.toNat < 32 ∧ o.read s = .ok c s1 ∧ s1.th.capture.cmds = [] ∧ needVx s1 = .ok () u) :=
  ⟨⟨t0, _, _, .vadd ⟨1, 2, 3, 0⟩, _, _, rfl, fits0, by unfold State.vecFine; decide +kernel,
    okOf (by decide +kernel), by decide +kernel, okU (by decide +kernel), by decide +kernel⟩,
   ⟨t0, _, _, 1, 0, _, fits0, by unfold State.vecFine; decide +kernel, okOf (by decide +kernel),
     okU (by decide +kernel), by decide +kernel, by unfold State.vuRoom; decide +kernel⟩,
   ⟨t0, _, _, ⟨31, 5, false⟩, _, 2 ^ 3, fits0, by unfold State.vecFine; decide +kernel, okOf (by decide +kernel),
     by decide +kernel, fun _ h => bitOther h, okU (by decide +kernel), by decide +kernel,
     by unfold State.vuRoom; decide +kernel⟩,
   ⟨t0, _, _, _, ⟨4, 6, false⟩, _, fits0, by decide +kernel, by decide +kernel, okOf (by decide +kernel),
     okU (by decide +kernel), okU (by decide +kernel)⟩,
   ⟨t0, _, _, 4, 31, fits0, by decide +kernel, by decide +kernel, by decide +kernel, by decide +kernel,
     by decide +kernel, okU (by decide +kernel), okU (by decide +kernel)⟩,
   ⟨t0, _, _, ⟨8, false⟩, 31, _, fits0, by decide +kernel, by decide +kernel, by decide +kernel,
     okOf (by decide +kernel), by decide +kernel, okU (by decide +kernel)⟩⟩

theorem witness_VuEvents :
    (∃ (s : State) (cl : Nat), 8 ≤ s.groupsBusy cl ∨ (∀ j < 32, s.vuReady (32 * cl + j) = false)) ∧
    (∃ (s : State) (cl j ptr : Nat) (credit : SMap Nat), s.groupsBusy cl < 8 ∧
    wrr 32 (s.cluster cl).vuPtr (fun j => s.vuReady (32 * cl + j)) (fun j => s.vuWeight (32 * cl + j))
      (s.cluster cl).vuCredit = some (j, credit, ptr)) ∧
    (∃ (s : State) (tid : Nat) (c : VuCmd) (rest : List VuCmd), (s.thread tid).vuq = c :: rest) ∧
    (∃ (s s1 : State) (c : VuCmd) (rest : List VuCmd), (s.thread s.ev.tid).vuq = c :: rest ∧ c.running = true ∧
      c.started = s.ev.since ∧
    vecBody c ({ s with cur := s.ev.tid }.modThread s.ev.tid (fun t => { t with
      level := c.level, fctl := t.fctl &&& 0xE0 })) = .ok () s1) ∧
    (∃ (s s1 : State) (c : VuCmd) (rest : List VuCmd) (f : Flt), (s.thread s.ev.tid).vuq = c :: rest ∧
      c.running = true ∧ c.started = s.ev.since ∧
    vecBody c ({ s with cur := s.ev.tid }.modThread s.ev.tid (fun t => { t with
      level := c.level, fctl := t.fctl &&& 0xE0 })) = .error (.trap f) s1) ∧
    (∃ (s : State) (c : VuCmd) (rest : List VuCmd) (p : Nat), (s.thread s.ev.tid).vuq = c :: rest ∧
      s.vuStarved s.ev.tid = some p ∧ (s.thread s.ev.tid).vuWait = some s.ev.since) ∧
    (∃ (s : State) (c : VuCmd) (o : VBin), (c.ins = .vadd o ∨ c.ins = .vsub o ∨ c.ins = .vmul o ∨ c.ins = .vfma o ∨
      c.ins = .vsel o) ∧ s.th.streamsIn c c.regs = []) :=
  ⟨⟨t0, 0, .inr (by decide +kernel)⟩,
   ⟨{ tV vc with clk := 1 }, 0, _, _, _, by decide +kernel, someOf (by decide +kernel)⟩,
   ⟨tV vc, 0, vc, [], by decide +kernel⟩,
   ⟨tV { vc with running := true }, _, { vc with running := true }, [], by decide +kernel, by decide +kernel,
     by decide +kernel, okU (by decide +kernel)⟩,
   ⟨tV { vc with ins := .vld ⟨4, 5, 0, 0, false⟩, scalars := [(0, 0x300000)], running := true }, _,
     { vc with ins := .vld ⟨4, 5, 0, 0, false⟩, scalars := [(0, 0x300000)], running := true }, [], _,
     by decide +kernel, by decide +kernel, by decide +kernel, trapOf (by decide +kernel)⟩,
   ⟨(tV { vc with scalars := [(56, 0)] }).modTh (fun t => { t with vuWait := some 0 }),
     { vc with scalars := [(56, 0)] }, [], 56, by decide +kernel, by decide +kernel, rfl⟩,
   ⟨t0, vc, _, .inl rfl, by decide +kernel⟩⟩

theorem witness_VectorElements :
    (∃ (s : State) (c : VuCmd) (o : VBin),
    (c.ins = .vadd o ∨ c.ins = .vsub o ∨ c.ins = .vmul o ∨ c.ins = .vfma o ∨ c.ins = .vmax o ∨ c.ins = .vmin o ∨
      c.ins = .vdiv o) ∧ c.sel = 0 ∧ c.vl ≤ 64 ∧ (∀ n ∈ [o.d.toNat, o.a.toNat, o.b.toNat],
        (s.th.stream n).bound = false) ∧ o.d.toNat < 32 ∧ o.a.toNat < 32 ∧ o.b.toNat < 32) ∧
    (∃ (s : State) (c : VuCmd) (o : VBin), c.ins = .vsel o ∧ c.sel = 0 ∧ c.vl ≤ 64 ∧
      s.Unbound [o.d.toNat, o.a.toNat, o.b.toNat]) ∧
    (∃ (s : State) (c : VuCmd) (o : VUn), c.sel = 0 ∧ c.vl ≤ 64 ∧ s.Unbound [o.d.toNat, o.a.toNat]) ∧
    (∃ (s : State) (c : VuCmd) (o : VUn) (u : Bool), c.sel = 0 ∧ c.vl ≤ 64 ∧ s.Unbound [o.d.toNat] ∧
      c.ins = .vbcst o u) ∧
    (∃ (s : State) (c : VuCmd) (o : VBin), c.ins = .vperm o ∧ c.sel = 0 ∧ c.vl ≤ 64 ∧
      s.Unbound [o.d.toNat, o.a.toNat, o.b.toNat]) ∧
    (∃ (s : State) (c : VuCmd) (d : Reg) (m : BitVec 3), c.ins = .vrand d m ∧ c.sel = 0 ∧ c.vl ≤ 64 ∧
      s.Unbound [d.toNat]) ∧
    (∃ (s : State) (c : VuCmd) (o : VBin) (u w : Bool), c.ins = .vins o u w ∧ c.sel = 0 ∧ c.vl ≤ 64 ∧
      s.Unbound [o.d.toNat]) ∧
    (∃ (s : State) (c : VuCmd) (o : VBin) (cc : BitVec 2), c.ins = .vcmp o cc ∧ c.sel = 0 ∧ c.vl ≤ 64 ∧
      s.Unbound [o.a.toNat, o.b.toNat]) ∧
    (∃ (c : VuCmd) (o : VUn) (u : Bool), c.ins = .vmsk o u) ∧
    (∃ (s : State) (c : VuCmd) (o : VBin) (u : Bool), c.ins = .vext o u ∧ c.sel = 0 ∧ s.Unbound [o.a.toNat]) ∧
    (∃ (s : State) (c : VuCmd) (o : VUn) (op : BitVec 2), c.ins = .vred o op ∧ c.sel = 0 ∧ c.vl ≤ 64 ∧
      s.Unbound [o.a.toNat] ∧ o.d.toNat = 58 ∧ s.th.q2.length < 16) ∧
    (∃ (xs : List Nat), (∀ x ∈ xs, x < 2 ^ 32)) ∧
    (∃ (s : State) (c : VuCmd) (off : Word) (e : Nat → Int) (place : Nat → Nat) (d : Nat), c.sel = 0 ∧ c.vl ≤ 64 ∧
      vecAccess c s.th c.regs.b = some (off, e, false) ∧ c.regs.d = some d ∧ s.Unbound (d :: c.regs.b.toList) ∧
      s.VecLocal c (c.scalar 0 + off) e place) ∧
    (∃ (s : State) (c : VuCmd) (off : Word) (e : Nat → Int) (place : Nat → Nat) (d : Nat), c.sel = 0 ∧ c.vl ≤ 64 ∧
      vecAccess c s.th c.regs.b = some (off, e, true) ∧ c.regs.d = some d ∧ s.Unbound (d :: c.regs.b.toList) ∧
      s.VecLocal c (c.scalar 0 + off) e place ∧ s.th.stored = [] ∧
      (∀ i j, s.active c i = true → s.active c j = true → place i = place j → i = j)) :=
  ⟨⟨t0, { vc with vl := 64 }, ⟨27, 2, 3, 0⟩, .inl (by decide +kernel), by decide +kernel, by decide +kernel,
    by decide +kernel, by decide +kernel, by decide +kernel, by decide +kernel⟩,
   ⟨t0, { vc with ins := .vsel ⟨27, 2, 3, 0⟩, vl := 64 }, ⟨27, 2, 3, 0⟩, rfl, by decide +kernel, by decide +kernel,
     by unfold State.Unbound; decide +kernel⟩,
   ⟨t0, { vc with ins := .vabs ⟨27, 2, 0⟩, vl := 64 }, ⟨27, 2, 0⟩, by decide +kernel, by decide +kernel,
     by unfold State.Unbound; decide +kernel⟩,
   ⟨t0, { vc with ins := .vbcst ⟨27, 2, 0⟩ false, vl := 64 }, ⟨27, 2, 0⟩, false, by decide +kernel,
     by decide +kernel, by unfold State.Unbound; decide +kernel, rfl⟩,
   ⟨t0, { vc with ins := .vperm ⟨27, 2, 3, 0⟩, vl := 64 }, ⟨27, 2, 3, 0⟩, rfl, by decide +kernel,
     by decide +kernel, by unfold State.Unbound; decide +kernel⟩,
   ⟨t0, { vc with ins := .vrand 27 0, vl := 64 }, 27, 0, rfl, by decide +kernel, by decide +kernel,
     by unfold State.Unbound; decide +kernel⟩,
   ⟨t0, { vc with ins := .vins ⟨27, 2, 3, 0⟩ false false, vl := 64 }, ⟨27, 2, 3, 0⟩, false, false, rfl,
     by decide +kernel, by decide +kernel, by unfold State.Unbound; decide +kernel⟩,
   ⟨t0, { vc with ins := .vcmp ⟨27, 2, 3, 0⟩ 0, vl := 64 }, ⟨27, 2, 3, 0⟩, 0, rfl, by decide +kernel,
     by decide +kernel, by unfold State.Unbound; decide +kernel⟩,
   ⟨{ vc with ins := .vmsk ⟨1, 2, 0⟩ false }, ⟨1, 2, 0⟩, false, rfl⟩,
   ⟨t0, { vc with ins := .vext ⟨58, 2, 3, 0⟩ false }, ⟨58, 2, 3, 0⟩, false, rfl, by decide +kernel,
     by unfold State.Unbound; decide +kernel⟩,
   ⟨t0, { vc with ins := .vred ⟨58, 2, 0⟩ 0, vl := 64 }, ⟨58, 2, 0⟩, 0, rfl, by decide +kernel, by decide +kernel,
     by unfold State.Unbound; decide +kernel, rfl, by decide +kernel⟩,
   ⟨[2 ^ 32 - 1], by decide +kernel⟩,
   ⟨t0, vm (.vld ⟨27, 5, 0, 0, false⟩), 0, (fun i => (i : Int)), (fun i => 0x40 + 4 * i), 27, by decide +kernel,
     by decide +kernel, rfl, rfl, by unfold State.Unbound; decide +kernel, local0⟩,
   ⟨t0, vm (.vst ⟨27, 5, 0, 0, false⟩), 0, (fun i => (i : Int)), (fun i => 0x40 + 4 * i), 27, by decide +kernel,
     by decide +kernel, rfl, rfl, by unfold State.Unbound; decide +kernel, local0, rfl,
     (by intro i j _ _ h; dsimp only at h; omega)⟩⟩

theorem witness_CommitResult :
    (∃ (s : State), (s.thread s.ev.tid).entries ≠ [] ∧ s.commitHeld s.ev.tid = false ∧
      s.entriesFree (s.thread s.ev.tid).entries = true ∧
      s.writeHeld (entryLines (s.thread s.ev.tid).entries) = false ∧ s.badEntry s.ev.tid = none ∧
      (s.part (s.thread s.ev.tid).part).trctl.toNat.testBit 3 = false ∧
      (∀ pa v i rm, Entry.redf pa v i rm ∉ (s.thread s.ev.tid).entries)) ∧
    (∃ (s : State), (s.thread s.ev.tid).entries ≠ [] ∧
    (s.commitHeld s.ev.tid = true ∨
      s.entriesFree (s.thread s.ev.tid).entries = false ∨
        s.writeHeld (entryLines (s.thread s.ev.tid).entries) = true)) ∧
    (∃ (s : State) (e : RedfEntry), s.ev.redf = some e ∧ s.slotAt e.pa = none ∧ s.writeHeld [e.pa / 256] = false ∧
      (s.part (s.thread e.tid).part).trctl.toNat.testBit 3 = false) ∧
    (∃ (s : State) (e : RedfEntry) (x : Slot), s.ev.redf = some e ∧ s.slotAt e.pa = some x ∧ e.idx.toNat < x.next ∧
      s.writeHeld [e.pa / 256] = false ∧ (s.part (s.thread e.tid).part).trctl.toNat.testBit 3 = false) ∧
    (∃ (s : State) (e : RedfEntry) (x : Slot), s.ev.redf = some e ∧ s.slotAt e.pa = some x ∧ e.idx.toNat = x.next ∧
      s.writeHeld [e.pa / 256] = false ∧ (s.part (s.thread e.tid).part).trctl.toNat.testBit 3 = false) ∧
    (∃ (s : State) (e : RedfEntry) (x : Slot), s.ev.redf = some e ∧ s.slotAt e.pa = some x ∧ x.next < e.idx.toNat ∧
      e.idx.toNat < x.next + 64 ∧
      s.slots.foldl (fun (n : Nat) y => if homeSlice y.pa = homeSlice e.pa then n + y.held.length else n) 0 < 64 ∧
      s.writeHeld [e.pa / 256] = false ∧ (s.part (s.thread e.tid).part).trctl.toNat.testBit 3 = false) ∧
    (∃ (s : State) (e : RedfEntry) (x : Slot), s.ev.redf = some e ∧ s.slotAt e.pa = some x ∧ x.next < e.idx.toNat ∧
    (x.next + 64 ≤ e.idx.toNat ∨
      64 ≤ s.slots.foldl (fun (n : Nat) y => if homeSlice y.pa = homeSlice e.pa then n + y.held.length else n) 0) ∧
        s.writeHeld [e.pa / 256] = false ∧ (s.part (s.thread e.tid).part).trctl.toNat.testBit 3 = false) ∧
    (∃ (s : State) (e : RedfEntry), s.chipPoison e.pa 4 = none ∧ (s.part e.part).trctl.toNat.testBit 0 = false) ∧
    (∃ (s : State) (x : Slot), s.slotAt s.ev.pa = some x ∧ x.held ≠ [] ∧ x.since = s.ev.since) :=
  ⟨⟨t0.modTh (fun t => { t with entries := [.amo 0x20000 0 8 1] }), by decide +kernel, by decide +kernel,
    by decide +kernel, by decide +kernel, by decide +kernel, by decide +kernel,
    (by intro pa v i rm h; exact (nomatch List.mem_singleton.1 (h : _ ∈ [Entry.amo 0x20000 0 8 1])))⟩,
   ⟨(tLn { lau with hdr := [0, 0, 0x1000000001, 2, 0, 0, 0, 0x100E020000000000] }).modTh (fun t => { t with entries := [.amo 0x20000 0 8 1], inLaunch := true, launch := 0x80, tstamp := 1 }), by decide +kernel, by decide +kernel⟩,
   ⟨tE { redf := some re0 }, _, rfl, by decide +kernel, by decide +kernel, by decide +kernel⟩,
   ⟨{ tE { redf := some re0 } with slots := [{ sl0 with next := 6 }] }, _, _, rfl, someOf (by decide +kernel),
     by decide +kernel, by decide +kernel, by decide +kernel⟩,
   ⟨{ tE { redf := some re0 } with slots := [sl0] }, _, _, rfl, someOf (by decide +kernel), by decide +kernel,
     by decide +kernel, by decide +kernel⟩,
   ⟨{ tE { redf := some { re0 with idx := 68 } } with slots := [sl0] }, _, _, rfl, someOf (by decide +kernel),
     by decide +kernel, by decide +kernel, by decide +kernel, by decide +kernel, by decide +kernel⟩,
   ⟨{ tE { redf := some { re0 with idx := 69 } } with slots := [sl0] }, _, _, rfl, someOf (by decide +kernel),
     by decide +kernel, by decide +kernel, by decide +kernel, by decide +kernel⟩,
   ⟨t0, re0, by decide +kernel, by decide +kernel⟩,
   ⟨{ tE { pa := 0x20000 } with slots := [{ sl0 with held := [re0] }] }, _, someOf (by decide +kernel),
     by decide +kernel, by decide +kernel⟩⟩

theorem witness_WaitEvents :
    (∃ (s : State) (x : SpadStore), s.ev.spad = some x) ∧
    (∃ (s : State) (a b c : Nat), s.ev.spad = none ∧ (s.thread s.ev.tid).wait = some ⟨.mesh a b c, s.ev.since⟩) ∧
    (∃ (off n : Nat), off % 0x400000 + n ≤ 0x400000) ∧
    (∃ (s : State) (tcm : Bool),
      ((s.l1Install s.ev.core s.ev.pa s.ev.ok false).thread s.ev.tid).wait = some ⟨.miss s.ev.pa tcm, s.ev.since⟩) ∧
    (∃ (c : Core) (x : L1Line), (c.l1.filter (fun y => y.line % 1024 == x.line % 1024)).length < 16 - c.tcmUnits) ∧
    (∃ (s : State) (a b c : Nat) (d : Bool), (s.thread s.ev.tid).wait = some ⟨.lineOp a b c d, s.ev.since⟩) ∧
    (∃ (s : State) (cl g : Nat) (ea : Word) (keep : Bool), (s.thread s.ev.tid).wait = some ⟨.granule cl g ea keep,
      s.ev.since⟩ ∧ (s.thread s.ev.tid).opDone = false ∧ (s.thread s.ev.tid).level ≠ .F ∧
      s.inPhase s.ev.tid = false ∧ { s with cur := s.ev.tid }.Quiet) ∧
    (∃ (s : State), (s.thread s.ev.tid).level = .F) ∧
    (∃ (s : State) (r : Nat), (s.thread s.ev.tid).wait = some ⟨.port r, s.ev.since⟩) ∧
    (∃ (s : State), (s.thread s.ev.tid).wait = some ⟨.wfi, s.ev.since⟩) ∧
    (∃ (s s1 : State) (v : Word),
      s.victims (s.ev.tid / 4) 1 s.ev.ok (lruCode (s.ev.tid % 4) s.ev.n s.ev.ok :: s.ev.nums) = [] ∧
      s.spillWait (s.ev.tid / 4) [] = none ∧ s.entriesUsed (s.ev.tid / 4) s.ev.ok < 128 ∧
    fillLoad (frameSlot (s.thread s.ev.tid).frame s.ev.n s.ev.ok)
      { s with cur := s.ev.tid, pc := (s.thread s.ev.tid).pc } = .ok v s1 ∧
        s1.victims s1.cid 1 s.ev.ok (lruCode (s1.cur % 4) s.ev.n s.ev.ok :: s.ev.nums) = []) ∧
    (∃ (s : State) (off : Nat), s.tcmPoison s.cid off 8 = none ∧ s.myCore.unitMoving off = false ∧
      off + 8 ≤ s.myCore.tcmMax * 0x10000 ∧ off + 8 ≤ s.myCore.tcmUnits * 0x10000 ∧ off < 0x200000) ∧
    (∃ (s : State) (tid num : Nat), s.ev.target = some (.sys tid num)) ∧
    (∃ (s : State) (cl off : Nat), s.ev.target = some (.cluster cl off)) ∧
    (∃ (s : State) (p off : Nat), s.ev.target = some (.partition p off)) ∧
    (∃ (s : State) (tid num : Nat), s.ev.target = some (.engine tid num) ∧ num < 7) :=
  ⟨⟨tE { spad := some ⟨0, 1, 0, 8, 0⟩ }, _, rfl⟩,
   ⟨tW (.mesh 1 0 8) {}, _, _, _, by decide +kernel, rfl⟩,
   ⟨0x3FFFF8, 8, by decide +kernel⟩,
   ⟨tW (.miss 0 false) {}, false, by decide +kernel⟩,
   ⟨t0.core 0, { line := 5, tcm := false }, by decide +kernel⟩,
   ⟨tW (.lineOp 0 0 0 false) {}, _, _, _, _, rfl⟩,
   ⟨tW (.granule 0 5 0x1000050 false) {}, _, _, _, _, rfl, by decide +kernel, by decide +kernel, by decide +kernel,
     by constructor <;> decide +kernel⟩,
   ⟨{ tF with ev := {} }, by decide +kernel⟩,
   ⟨tW (.port 58) {}, _, rfl⟩,
   ⟨tW .wfi {}, rfl⟩,
   ⟨tE { n := 5 }, _, _, by decide +kernel, by decide +kernel, by decide +kernel, okOf (by decide +kernel),
     by decide +kernel⟩,
   ⟨t0, 0x5FFF8, by decide +kernel, by decide +kernel, by decide +kernel, by decide +kernel, by decide +kernel⟩,
   ⟨tE { target := some (.sys 0 0x101) }, _, _, rfl⟩,
   ⟨tE { target := some (.cluster 0 0) }, _, _, rfl⟩,
   ⟨tE { target := some (.partition 0 0) }, _, _, rfl⟩,
   ⟨tE { target := some (.engine 0 6) }, _, _, rfl, by decide +kernel⟩⟩

theorem witness_PowerResult :
    (∃ (s : State), s.ev.ok = true ∧ s.ev.n ≠ 3 ∧ s.ev.n ≠ 4) ∧
    (∃ (s : State), s.ev.ok = false) ∧
    (∃ (s : State), (s.core s.ev.core).test = true ∧ (s.core s.ev.core).haltedDone = false ∧
      (s.core s.ev.core).testFault = false) ∧
    (∃ (s : State), s.ev.n = 1 ∧ (∀ c ∈ s.die0Busy, (s.core c).preempted = true ∧ (s.core c).saved = true)) ∧
    (∃ (s : State) (k : Nat), k < 4 ∧ (s.thread (4 * s.ev.core + k)).stopped = true ∧
      (s.thread (4 * s.ev.core + k)).st ≠ 7) ∧
    (∃ (s : State) (m : Nat), (s.core s.ev.core).moving = some m) ∧
    (∃ (s : State) (x : ScrubSite), s.ev.site = some x ∧ s.ev.n = 2 ∧ s.poison.contains x = false) ∧
    (∃ (s : State), (s.cluster s.ev.cl).mauIdle = s.ev.since ∧ s.tileRunning s.ev.cl = false ∧
      s.ev.since + bitsN s.shape.toNat 15 0 ≤ s.clk) :=
  ⟨⟨tE { ok := true }, by decide +kernel, by decide +kernel, by decide +kernel⟩,
   ⟨tE {}, by decide +kernel⟩,
   ⟨tE { core := 1 }, by decide +kernel, by decide +kernel, by decide +kernel⟩,
   ⟨{ State.reset with ev := { n := 1 } }, by decide +kernel, by decide +kernel⟩,
   ⟨(tE {}).modThread 3 (fun t => { t with stopped := true }), 3, by decide +kernel, by decide +kernel,
     by decide +kernel⟩,
   ⟨(tE {}).modCore 0 (fun c => { c with moving := some 7 }), _, rfl⟩,
   ⟨tE { site := some (.chip 0), n := 2 }, _, rfl, by decide +kernel, by decide +kernel⟩,
   ⟨{ tE {} with clk := 4096 }, by decide +kernel, by decide +kernel, by decide +kernel⟩⟩

theorem witness_MauIssue :
    (∃ (s s1 : State) (i : Instr) (m : Sem (List Word)) (g : Desig) (xs : List Word), mauForm i = some (m, g) ∧
      s.fits false ∧ (mauNames i = true → s.myCore.test = false) ∧ m s = .ok xs s1 ∧
      (s1.mauRounds s1.th.part s1.th.level s1.kid i xs = true → s1.th.rm < 5) ∧ s1.speculative s1.th = false ∧
      s1.myCore.mauWaiting.length < 8 ∧ (s1.th.capture.left = 0 ∨ s1.th.capture.cmds = [])) ∧
    (∃ (s : State), s.fits false ∧ s.th.pendVec = none ∧ s.mauBusy s.cur = false ∧ s.th.pendMau = none) ∧
    (∃ (s s1 s2 : State) (o : Un) (v : Word), s.fits false ∧ o.read s = .ok v s1 ∧ s1.speculative s1.th = false ∧
      s1.myCore.mauq = [] ∧
    ((let nb := bitsN v.toNat 5 0
     let nt := bitsN v.toNat 13 8
     if bitsN v.toNat 63 14 ≠ 0 ∨ bitsN v.toNat 7 6 ≠ 0 ∨ 48 < nb ∨ 48 < nt then writeS o.d 2 s1
     else if s1.freeUnits s1.kid Core.tiles + s1.myCore.tiles < nt ∨
       s1.freeUnits s1.kid Core.bslots + s1.myCore.bslots < nb then writeS o.d 1 s1
     else writeS o.d 0 (s1.allocate s1.cid nt nb)) = .ok () s2)) ∧
    (∃ (s s1 : State) (d t : Reg), s.fits false ∧ s.myCore.test = false ∧
      writeS d (if t.toNat < s.myCore.tiles then BitVec.ofNat 64 (s.tile s.cid t.toNat).twm else -1) s = .ok () s1) :=
  ⟨⟨t0, _, .tclr 5, _, _, _, rfl, fits0, by decide +kernel, okOf (by decide +kernel), by decide +kernel,
    by decide +kernel, by decide +kernel, .inl (by decide +kernel)⟩,
   ⟨t0, fits0, by decide +kernel, by decide +kernel, by decide +kernel⟩,
   ⟨t0, _, _, ⟨4, 8, false⟩, _, fits0, okOf (by decide +kernel), by decide +kernel, by decide +kernel,
     okU (by decide +kernel)⟩,
   ⟨t0, _, 4, 0, fits0, by decide +kernel, okU (by decide +kernel)⟩⟩

theorem witness_MauEvents :
    (∃ (s : State) (j ptr : Nat) (credit : SMap Nat) (c : MauCmd), (∀ k < 8, s.mauDrop (8 * s.ev.cl + k) = none) ∧
      s.axisReady s.ev.cl = [] ∧ (s.cluster s.ev.cl).mauAt ≤ s.clk ∧
    wrr 8 (s.cluster s.ev.cl).mauPtr (fun k => s.mauReady (8 * s.ev.cl + k)) (fun k => s.mauWeight (8 * s.ev.cl + k))
      (s.cluster s.ev.cl).mauCredit = some (j, credit, ptr) ∧ s.mauHead (8 * s.ev.cl + j) = some c) ∧
    (∃ (s : State) (c : MauCmd) (f : Flt), s.tileCheck c = .error f) ∧
    (∃ (s u : State) (c : MauCmd) (fl : Flags), s.findMau s.ev.core s.ev.id = some c ∧
      (∀ o, c.ins = .tst o → s.ev.idx < (s.tile c.cid o.d.toNat).twm) ∧ s.tileRow c s.ev.idx = .ok (u, fl)) ∧
    (∃ (s : State) (c : MauCmd), s.findMau s.ev.core s.ev.id = some c ∧ c.isTile = true) ∧
    (∃ (s u : State) (c : MauCmd) (fl : Flags), s.findMau s.ev.core s.ev.id = some c ∧ c.isTile = false ∧
      c.stage = 1 ∧ isXch c = false ∧ s.axldMoving c = false ∧ s.writeHeld (s.axisLines c) = false ∧
      s.axisPass c = (u, fl, none)) ∧
    (∃ (s u : State) (c : MauCmd) (fl : Flags) (f : Flt), s.findMau s.ev.core s.ev.id = some c ∧ c.isTile = false ∧
      c.stage = 1 ∧ isXch c = false ∧ s.axldMoving c = false ∧ s.writeHeld (s.axisLines c) = false ∧
      s.axisPass c = (u, fl, some f)) ∧
    (∃ (f : Flt), f.cause ≠ 0x18) ∧
    (∃ (i : Nat), i < 64) ∧
    (∃ (c : MauCmd) (t : Reg), c.ins = .tclr t) ∧
    (∃ (s : State) (c : MauCmd) (o : Mem) (w : Win) (e0 i : Nat), c.ins = .tldb o ∧
      s.tileOperand c (c.arg 0) = .ok (w, e0) ∧
      s.spadPoison (c.tid / 32) (w.at_ (e0 + 64 * i)) (w.bytes 64) = none) ∧
    (∃ (s : State) (c : MauCmd) (o : Mem) (w : Win) (e0 i : Nat), c.ins = .tst o ∧
      s.tileOperand c (c.arg 0) = .ok (w, e0) ∧ w.fmt = 0 ∧ (s.cluster (c.tid / 32)).banks = [] ∧ i < 64) ∧
    (∃ (s : State) (c : MauCmd) (o : Mem) (k : BitVec 3) (z : Bool) (off : Nat), c.ins = .axld o k z ∧
      (∀ x < 2 ^ k.toNat * 2 ^ k.toNat,
      regionOf (c.arg 0 + BitVec.ofNat 64 ((if z then 8 else 4) * x)) = .own (off + (if z then 8 else 4) * x) ∧
      s.spadPoison (c.tid / 32) (off + (if z then 8 else 4) * x) (if z then 8 else 4) = none)) ∧
    (∃ (s : State) (c : MauCmd) (ds : Desc) (R : State → Prop) (rd : Nat → Nat), R s ∧
      (∀ u x, R u → x < 2 ^ ds.n → ∃ u', R u' ∧ (srcElem c ds x).run u = .ok (rd x, u'))) ∧
    (∃ (s u : State) (c : MauCmd) (ds : Desc) (x v : Nat), (srcElem c ds x).run s = .ok (v, u)) ∧
    (∃ (s : State) (c : MauCmd) (d : Desc) (ps : List Nat) (src rd : Nat → Nat) (R : State → Prop), R s ∧
      (∀ u q, R u → q ∈ ps → ∃ u', R u' ∧ (fieldRd c d (src q)).run u = .ok (rd q, u'))) ∧
    (∃ (s : State) (c : MauCmd) (o : Src2) (d : Desc) (dpa : Nat), c.ins = .flswap o ∧
      s.cmdDesc c (c.arg 0) = .ok (d, dpa)) ∧
    (∃ (s : State) (c : MauCmd) (h : Word) (d : Desc) (dpa pc pv : Nat), c.handles = [h] ∧ isXch c = false ∧
      s.cmdDesc c h = .ok (d, dpa) ∧ d.halted = false ∧ s.modeLost c = false ∧ s.axisPlan c = .ok (.shift pc pv)) :=
  ⟨⟨tM mc {}, _, _, _, _, by decide +kernel, by decide +kernel, by decide +kernel, someOf (by decide +kernel),
    someOf (by decide +kernel)⟩,
   ⟨t0, { mc with ins := .tclr 63 }, _, exErr (by decide +kernel)⟩,
   ⟨tM mc {}, _, _, _, someOf (by decide +kernel), (by intro o h; exact (nomatch (show mc.ins = _ from h))),
     exOk (by decide +kernel)⟩,
   ⟨tM mc {}, _, someOf (by decide +kernel), by decide +kernel⟩,
   ⟨tM { mc with ins := .axcopy ⟨8, 8, false, false⟩, args := [1, 1], stage := 1, held := [0x20040], descs := [0x4001000000020000000000000100001000, 0x4001000000020000000000000100001000] } {}, _, _, _, someOf (by decide +kernel), by decide +kernel, by decide +kernel, by decide +kernel, by decide +kernel, by decide +kernel, tripNone (by decide +kernel)⟩,
   ⟨tM { mc with ins := .axcopy ⟨8, 8, false, false⟩, args := [9, 9], stage := 1 } {}, _, _, _, _,
     someOf (by decide +kernel), by decide +kernel, by decide +kernel, by decide +kernel, by decide +kernel,
     by decide +kernel, tripSome (by decide +kernel)⟩,
   ⟨⟨1, 0⟩, by decide +kernel⟩,
   ⟨63, by decide +kernel⟩,
   ⟨mc, 0, rfl⟩,
   ⟨t0.modCluster 0 (fun k => { k with wfmt := [(0, 1)] }),
     { mc with ins := .tldb ⟨0, 0, 0, false, false⟩, args := [0x1000000] }, ⟨0, 0, 0, false, false⟩, _, _, 63, rfl,
     exPair (by decide +kernel), by decide +kernel⟩,
   ⟨t0, { mc with ins := .tst ⟨0, 0, 0, false, false⟩, args := [0x1000000] }, ⟨0, 0, 0, false, false⟩, _, _, 63,
     rfl, exPair (by decide +kernel), by decide +kernel, by decide +kernel, by decide +kernel⟩,
   ⟨t0, { mc with ins := .axld ⟨0, 0, 0, false, false⟩ 1 true, args := [0x13FBFE0] }, ⟨0, 0, 0, false, false⟩, 1,
     true, 0x3FBFE0, rfl, by decide +kernel⟩,
   ⟨tR, mc, dR, (fun u => u = tR), (fun _ => 0), rfl,
     (by intro u x hu hx; subst hu; exact ⟨tR, rfl, read_same x hx⟩)⟩,
   ⟨tR, _, mc, dR, 1, _, read_same 1 (by decide +kernel)⟩,
   ⟨tR, mc, dR, [0], (fun q => q), (fun _ => 0), (fun u => u = tR), rfl,
     (by intro u q hu hq; subst hu; exact ⟨tR, rfl, read_at q hq⟩)⟩,
   ⟨t0, { mc with ins := .flswap ⟨8, 0, false, false⟩, args := [1, 0x100] }, ⟨8, 0, false, false⟩, _, _, rfl,
     exPair (by decide +kernel)⟩,
   ⟨t0, { mc with ins := .flswap ⟨8, 0, false, false⟩, args := [1, 0x100] }, 1, _, _, 1, 0, rfl, by decide +kernel,
     exPair (by decide +kernel), by decide +kernel, by decide +kernel,
     exAs (by decide +kernel) (by decide +kernel)⟩⟩

set_option maxRecDepth 4000 in
theorem witness_FieldResult :
    (∃ (s s1 s2 s3 s4 : State) (o : Src2) (h a : Word) (img dpa : Nat) (old : Desc), s.fits false ∧
      o.read s = .ok (h, a) s1 ∧ h.toNat < 4096 ∧ s1.myPart.ftbase ≠ 0 ∧ loadN a 64 s1 = .ok img s2 ∧
      descSeen h s2 = .ok (old, dpa) s3 ∧ old.state = 0 ∧ (Desc.ofNat img).valid = true ∧
      storeN (s3.myPart.ftbase + BitVec.ofNat 64 (64 * h.toNat)) 64 (img + 2 ^ 120) s3 = .ok () s4) ∧
    (∃ (s s1 s2 s3 s4 : State) (o : Src2) (h a : Word) (d : Desc) (l : List Nat) (dpa pa : Nat), s.fits false ∧
      o.read s = .ok (h, a) s1 ∧ descDefined h s1 = .ok (d, dpa) s2 ∧ s2.isBound s2.th.part h.toNat d = false ∧
      readList a d.n s2 = .ok l s3 ∧ Desc.isPerm l d.n = true ∧ descStore h s3 = .ok pa s4 ∧
      entryCount s4.th.entries < 480) ∧
    (∃ (s s1 s2 s3 : State) (o : Un) (h : Word) (d : Desc) (pa : Nat), s.fits false ∧ o.read s = .ok h s1 ∧
      descSeen h s1 = .ok (d, pa) s2 ∧
    writeS o.d (if d.state = 0 then 0
      else BitVec.ofNat 64 (d.state * 2 ^ 56 + d.fmt * 2 ^ 48 + d.s * 2 ^ 40 + d.n * 2 ^ 32 + d.shift)) s2 = .ok () s3) ∧
    (∃ (s s1 s2 s3 s4 : State) (o : Src1) (h : Word) (d : Desc) (dpa pa : Nat), s.fits false ∧
      o.read s = .ok h s1 ∧ descDefined h s1 = .ok (d, dpa) s2 ∧ s2.isBound s2.th.part h.toNat d = false ∧
      descStore h s2 = .ok pa s3 ∧ bufferStore (pa + 15) 1 0 [pa] s3 = .ok () s4) ∧
    (∃ (s s1 s2 s3 : State) (o : Bin) (h j : Word) (d : Desc) (pa : Nat), s.fits false ∧ o.read s = .ok (h, j) s1 ∧
      descDefined h s1 = .ok (d, pa) s2 ∧
    writeS o.d (if d.n ≤ j.toNat then 0x8000000000000000 else BitVec.ofNat 64 (d.mapBit j.toNat + 256 *
      (if d.mapBit j.toNat < d.near then 0 else if d.mapBit j.toNat < d.l then 1 else 2))) s2 = .ok () s3) ∧
    (∃ (s u : State) (c : MauCmd) (d : Desc) (pa : Nat) (sig : Option Nat) (n : Flags),
      s.findMau s.ev.core s.ev.id = some c ∧ c.stage = 1 ∧ s.ev.status = 0 ∧ s.cmdDesc c (c.arg 0) = .ok (d, pa) ∧
      c.sends = 0 ∧ 2 ^ (d.l - 1) ≤ smGet 0 (s.part c.part).exch (c.arg 0).toNat ∧
    (let s1 := s.putShift pa (d.withBits true true false true)
     s1.sigma c d = .ok sig ∧ s1.runPairs (copyBlock c d pa (c.arg 2) (ownBit d sig)) (List.range d.blocks) = (u,
       n, none))) ∧
    (∃ (s : State) (c : MauCmd), s.findMau s.ev.core s.ev.id = some c ∧ c.stage = 1 ∧ s.ev.status ≠ 0) ∧
    (∃ (s : State) (c : MauCmd) (d : Desc) (pa : Nat), s.findMau s.ev.core s.ev.id = some c ∧ c.stage = 1 ∧
      c.started = s.ev.since ∧ s.cmdDesc c (c.arg 0) = .ok (d, pa)) :=
  ⟨⟨t0, _, _, _, _, ⟨9, 10, false, false⟩, _, _, _, _, _, fits0, okOf (by decide +kernel), by decide +kernel,
    by decide +kernel, okOf (by decide +kernel), okOf (by decide +kernel), by decide +kernel, by decide +kernel,
    okU (by decide +kernel)⟩,
   ⟨t0, _, _, _, _, ⟨8, 11, false, false⟩, _, _, _, _, _, _, fits0, okOf (by decide +kernel),
     okOf (by decide +kernel), by decide +kernel, okOf (by decide +kernel), by decide +kernel,
     okOf (by decide +kernel), by decide +kernel⟩,
   ⟨t0, _, _, _, ⟨4, 8, false⟩, _, _, _, fits0, okOf (by decide +kernel), okOf (by decide +kernel),
     okU (by decide +kernel)⟩,
   ⟨t0, _, _, _, _, ⟨8, false⟩, _, _, _, _, fits0, okOf (by decide +kernel), okOf (by decide +kernel),
     by decide +kernel, okOf (by decide +kernel), okU (by decide +kernel)⟩,
   ⟨t0, _, _, _, ⟨4, 8, 8, false, false⟩, _, _, _, _, fits0, okOf (by decide +kernel), okOf (by decide +kernel),
     okU (by decide +kernel)⟩,
   ⟨(tM { mc with ins := .flxch ⟨8, 8, 8, false, false, false⟩, args := [1, 1, 0x100002000], stage := 1 } {}).modPart 0 (fun q => { q with exch := [(1, 2)] }), _, _, _, _, _, _, someOf (by decide +kernel), by decide +kernel, by decide +kernel, exOk (by decide +kernel), by decide +kernel, by decide +kernel, ⟨exOk (by decide +kernel), tripNone (by decide +kernel)⟩⟩,
   ⟨tM { mc with stage := 1 } { status := 0x18 }, _, someOf (by decide +kernel), by decide +kernel,
     by decide +kernel⟩,
   ⟨tM { mc with ins := .flxch ⟨8, 8, 8, false, false, false⟩, args := [1, 1, 0x100002000], stage := 1 } {}, _, _,
     _, someOf (by decide +kernel), by decide +kernel, by decide +kernel, exOk (by decide +kernel)⟩⟩

theorem witness_EngineRegisters :
    (∃ (s s1 : State) (o : Src1) (num v : Word), s.fits false ∧ o.read s = .ok v s1 ∧ num.toNat < 7) ∧
    (∃ (s s1 : State) (d : Reg) (num : Word), s.fits false ∧ num.toNat < 7 ∧
      writeS d (smGet 0 s.th.ce num.toNat) s = .ok () s1) ∧
    (∃ (s : State), s.fits false) ∧
    (∃ (s s1 : State) (d : Reg), s.fits false ∧ s.Quiet ∧
    ((let s' := if (smGet 0 s.th.ce 6).toNat.testBit 3 then s.modTh (fun t => { t with segNew := true }) else s
     let id := s.myCluster.cbtid % 65535 + 1
     let c : CopyCmd :=
       { id := id, tid := s.cur, part := s.th.part, level := s.th.level, regs := (List.range 7).map (smGet 0 s.th.ce),
         tblA := s.myCore.tbl4a, tblB := s.myCore.tbl4b }
     if 32 ≤ s.myCluster.copyq.length then writeS d 0 s'
     else writeS d (BitVec.ofNat 64 id) (s'.modMyCluster (fun k =>
       { k with cbtid := id, copyq := k.copyq ++ [c] }))) = .ok () s1)) :=
  ⟨⟨t0, _, ⟨8, false⟩, 6, _, fits0, okOf (by decide +kernel), by decide +kernel⟩,
   ⟨t0, _, 4, 6, fits0, by decide +kernel, okU (by decide +kernel)⟩,
   ⟨t0, fits0⟩,
   ⟨t0, _, 4, fits0, quiet0, okU (by decide +kernel)⟩⟩

theorem witness_CopyEvents :
    (∃ (s : State) (c : CopyCmd), s.copyReady s.ev.cl = some c ∧ c.bad = false) ∧
    (∃ (s : State) (c : CopyCmd),
      (s.cluster s.ev.cl).copyq.find? (fun x => x.id == s.ev.id && x.running && !x.done) = some c ∧
      s.copyHeld c = false ∧ s.copyCheck c = 0 ∧ (s.copyRows c).status = 0 ∧ c.ck = 0) ∧
    (∃ (s : State) (c : CopyCmd),
      (s.cluster s.ev.cl).copyq.find? (fun x => x.id == s.ev.id && x.running && !x.done) = some c ∧
      s.copyHeld c = false ∧ s.copyCheck c ≠ 0 ∧ c.ck < 2 ∧ (s.core c.cid).preempted = false ∧
      (s.core c.cid).spillq = [] ∧ (s.core c.cid).port = [] ∧ (s.core c.cid).mailbox.length < 16 ∧
      s.copyCheck c ≠ 8) ∧
    (∃ (s : State) (c : CopyCmd),
      (s.cluster s.ev.cl).copyq.find? (fun x => x.id == s.ev.id && x.running && !x.done) = some c ∧
      s.copyHeld c = false ∧ s.copyCheck c = 0 ∧ c.ck < 2) ∧
    (∃ (c : CopyCmd), c.len ≠ 0 ∧ c.cnt = 1) ∧
    (∃ (s u : State) (c : CopyCmd) (r v : Nat), s.copyReadN c (c.srcRow r) c.len = .ok (v, u) ∧ c.raw = true) ∧
    (∃ (s : State) (c : CopyCmd) (r e : Nat), s.copyReadN c (c.srcRow r) c.len = .error e) :=
  ⟨⟨t0.modCluster 0 (fun k => { k with copyq := [cc] }), _, someOf (by decide +kernel), by decide +kernel⟩,
   ⟨{ t0.modCluster 0 (fun k => { k with copyq := [{ cc with running := true }] }) with ev := { id := 1 } }, _,
     someOf (by decide +kernel), by decide +kernel, by decide +kernel, by decide +kernel, by decide +kernel⟩,
   ⟨{ t0.modCluster 0 (fun k => { k with copyq := [{ cc with running := true, regs := [0x40, 0x1000040, 64, 0, 0, 1, 0x8000] }] }) with ev := { id := 1 } }, _, someOf (by decide +kernel), by decide +kernel, by decide +kernel, by decide +kernel, by decide +kernel, by decide +kernel, by decide +kernel, by decide +kernel, by decide +kernel⟩,
   ⟨(tE { id := 1 }).modCluster 0 (fun k => { k with copyq := [{ cc with running := true }] }), _,
     someOf (by decide +kernel), by decide +kernel, by decide +kernel, by decide +kernel⟩,
   ⟨cc, by decide +kernel, by decide +kernel⟩,
   ⟨t0, _, { cc with regs := [0x40, 0x1000040, 64, 0, 0, 1, 0x100] }, 0, _, exPair (by decide +kernel),
     by decide +kernel⟩,
   ⟨t0, { cc with regs := [0x200000, 0x1000040, 64, 0, 0, 1, 0] }, 0, _, exErr (by decide +kernel)⟩⟩

theorem witness_RemoteIssue :
    (∃ (s s1 : State) (o : MemT) (cls : BitVec 2) (v ea t : Word), s.fits false ∧ cls ≠ 3 ∧
      o.storeEa s = .ok (v, ea, t) s1 ∧ t &&& ~~~(BitVec.ofNat 64 usedRwr) = 0 ∧ ea.toNat % 8 = 0 ∧
      s1.allowed s1.th.part (bitsN t.toNat 13 0) = true ∧ s1.speculative s1.th = false ∧
      s1.th.outOM + s1.th.outAD + s1.th.outRT < 64) ∧
    (∃ (s s1 : State) (o : MemT) (cls : BitVec 2) (vs : List Word) (ea t : Word), s.fits false ∧
      s.myCore.test = false ∧ cls ≠ 3 ∧ o.storeEaF 8 s = .ok (vs, ea, t) s1 ∧ o.d.toNat % 8 = 0 ∧
      t &&& ~~~(BitVec.ofNat 64 usedRwr) = 0 ∧ ea.toNat % 64 = 0 ∧
      s1.allowed s1.th.part (bitsN t.toNat 13 0) = true ∧ s1.speculative s1.th = false ∧
      s1.th.outOM + s1.th.outAD + s1.th.outRT < 64) ∧
    (∃ (s s1 s2 : State) (o : MemT) (cls : BitVec 2) (vs : List Word) (ea t : Word) (p : Place), s.fits false ∧
      s.myCore.test = false ∧ cls ≠ 3 ∧ o.storeEaF 8 s = .ok (vs, ea, t) s1 ∧ o.d.toNat ≤ 56 ∧
      t &&& ~~~(0xF3FFF#64) = 0 ∧ ea.toNat % 64 = 0 ∧ s1.allowed s1.th.part (bitsN t.toNat 13 0) = true ∧
      check (.store 8) ea s1 = .ok p s2 ∧ s2.speculative s2.th = false ∧
      s2.th.outOM + s2.th.outAD + s2.th.outRT < 64) ∧
    (∃ (s : State) (cls : BitVec 2), s.fits false ∧ cls ≠ 3 ∧ s.th.awaiting = true) ∧
    (∃ (s s1 s2 : State) (o : MemT) (op : AtomOp) (cls : BitVec 2) (c : Ctl) (v ea t : Word), s.fits false ∧
      cls ≠ 3 ∧ s.th.awaiting = false ∧ (Ctl.releases c = true → s.th.pendReduce = none) ∧ o.d ≠ 58 ∧ o.d ≠ 59 ∧
      o.storeEa s = .ok (v, ea, t) s1 ∧ t &&& ~~~(0x3FFF#64) = 0 ∧ ea.toNat % (if op.w32 then 4 else 8) = 0 ∧
      s1.allowed s1.th.part (bitsN t.toNat 13 0) = true ∧ s1.speculative s1.th = false ∧
    (if Ctl.releases c then (do
      storesPerformed
      commitOnly
      waitRemote) s1 else .ok () s1) = .ok () s2 ∧ s2.speculative s2.th = false ∧
        s2.th.outOM + s2.th.outAD + s2.th.outRT < 64) ∧
    (∃ (s s1 s2 s3 : State) (o : MemT) (cls : BitVec 2) (c : Ctl) (v w ea t : Word), s.fits false ∧ cls ≠ 3 ∧
      s.th.awaiting = false ∧ (Ctl.releases c = true → s.th.pendReduce = none) ∧ o.d.toNat % 2 = 0 ∧
      o.d.toNat ≤ 54 ∧ readS (o.d + 1) s = .ok w s1 ∧ o.storeEa s1 = .ok (v, ea, t) s2 ∧ t &&& ~~~(0x3FFF#64) = 0 ∧
      ea.toNat % 8 = 0 ∧ s2.allowed s2.th.part (bitsN t.toNat 13 0) = true ∧ s2.speculative s2.th = false ∧
    (if Ctl.releases c then (do
      storesPerformed
      commitOnly
      waitRemote) s2 else .ok () s2) = .ok () s3 ∧ s3.speculative s3.th = false ∧
        s3.th.outOM + s3.th.outAD + s3.th.outRT < 64) ∧
    (∃ (s : State) (mask : BitVec 3), s.fits false ∧ (mask.toNat.testBit 0 = true → s.th.outOM = 0) ∧
      (mask.toNat.testBit 1 = true → s.th.outAD = 0) ∧ (mask.toNat.testBit 2 = true → s.th.outRT = 0) ∧
      s.th.pendRemote = none) :=
  ⟨⟨t0, _, ⟨4, 7, 0, 0x30, false, false, false⟩, 0, _, _, _, fits0, by decide +kernel, okOf (by decide +kernel),
    by decide +kernel, by decide +kernel, by decide +kernel, by decide +kernel, by decide +kernel⟩,
   ⟨t0, _, ⟨8, 7, 0, 0x30, false, false, false⟩, 0, _, _, _, fits0, by decide +kernel, by decide +kernel,
     okOf (by decide +kernel), by decide +kernel, by decide +kernel, by decide +kernel, by decide +kernel,
     by decide +kernel, by decide +kernel⟩,
   ⟨t0, _, _, ⟨8, 5, 0, 0x40, false, false, false⟩, 0, _, _, _, _, fits0, by decide +kernel, by decide +kernel,
     okOf (by decide +kernel), by decide +kernel, by decide +kernel, by decide +kernel, by decide +kernel,
     okOf (by decide +kernel), by decide +kernel, by decide +kernel⟩,
   ⟨t0.modTh (fun t => { t with awaiting := true }), 0, (fitsOf rfl), by decide +kernel, by decide +kernel⟩,
   ⟨t0, _, _, ⟨4, 7, 0, 0x30, false, false, false⟩, ⟨0, false⟩, 0, ⟨0, 0⟩, _, _, _, fits0, by decide +kernel,
     by decide +kernel, by decide +kernel, by decide +kernel, by decide +kernel, okOf (by decide +kernel),
     by decide +kernel, by decide +kernel, by decide +kernel, by decide +kernel, okU (by decide +kernel),
     by decide +kernel, by decide +kernel⟩,
   ⟨t0, _, _, _, ⟨4, 7, 0, 0x30, false, false, false⟩, 0, ⟨0, 0⟩, _, _, _, _, fits0, by decide +kernel,
     by decide +kernel, by decide +kernel, by decide +kernel, by decide +kernel, okOf (by decide +kernel),
     okOf (by decide +kernel), by decide +kernel, by decide +kernel, by decide +kernel, by decide +kernel,
     okU (by decide +kernel), by decide +kernel, by decide +kernel⟩,
   ⟨t0, 7, fits0, by decide +kernel, by decide +kernel, by decide +kernel, by decide +kernel⟩⟩

theorem witness_RemoteEvents :
    (∃ (s u : State) (p : Packet) (old w : Nat), s.ev.pkt = some p ∧ s.pairHeld p = false ∧ s.accepts p = true ∧
      p.kind = 2 ∧ w = (if p.aux.toNat.testBit 4 then 4 else 8) ∧
    ((s.accept p).logArrival p).remoteAtomic p.part p.addr w (fun x => amoNew (p.aux.toNat % 16) w x
      ((p.data.headD 0).toNat % 2 ^ (8 * w))) = .ok (old, u)) ∧
    (∃ (s u : State) (p : Packet) (old : Nat), s.ev.pkt = some p ∧ s.pairHeld p = false ∧ s.accepts p = true ∧
      p.kind = 3 ∧
    ((s.accept p).logArrival p).remoteAtomic p.part p.addr 8 (fun x =>
      if x = (p.data.headD 0).toNat then (p.data.getD 1 0).toNat else x) = .ok (old, u)) ∧
    (∃ (s : State) (p : Packet), s.ev.pkt = some p ∧ s.pairHeld p = false ∧ s.accepts p = true ∧
      (p.kind = 0 ∨ p.kind = 1)) ∧
    (∃ (s : State) (p : Packet), s.ev.pkt = some p ∧ s.pairHeld p = false ∧ s.accepts p = false) ∧
    (∃ (s : State) (p : Packet), s.ev.pkt = some p ∧ s.pairHeld p = false ∧ s.accepts p = true) ∧
    (∃ (s : State) (r p : Packet), s.ev.pkt = some r ∧ s.flightOf r = some p ∧ p.kind < 2 ∧ isExch p = false) ∧
    (∃ (s : State) (r p : Packet), s.ev.pkt = some r ∧ s.flightOf r = some p ∧ p.kind = 4) ∧
    (∃ (s : State) (r p : Packet), s.ev.pkt = some r ∧ s.flightOf r = some p ∧ owedOp p = none) ∧
    (∃ (s : State) (r p : Packet) (op n : Nat) (old : Word), s.ev.pkt = some r ∧ s.flightOf r = some p ∧
      owedOp p = some op ∧ s.fabric.pending = [] ∧
      smGet .dead (s.thread (4 * p.score + p.slot)).sregs n = .owed op old) ∧
    (∃ (s : State) (p : Packet) (tid : Nat), isExch p = false ∧ tid = 4 * p.score + p.slot ∧
      s.fabric.pending = []) :=
  ⟨⟨tE { pkt := some { pk with kind := 2 } }, _, _, _, 8, rfl, by decide +kernel, by decide +kernel,
    by decide +kernel, rfl, exPair (by decide +kernel)⟩,
   ⟨tE { pkt := some { pk with kind := 3 } }, _, _, _, rfl, by decide +kernel, by decide +kernel,
     by decide +kernel, exPair (by decide +kernel)⟩,
   ⟨tE { pkt := some pk }, _, rfl, by decide +kernel, by decide +kernel, by decide +kernel⟩,
   ⟨tE { pkt := some { pk with seq := 5 } }, _, rfl, by decide +kernel, by decide +kernel⟩,
   ⟨tE { pkt := some pk }, _, rfl, by decide +kernel, by decide +kernel⟩,
   ⟨tFl pk, _, _, rfl, someOf (by decide +kernel), by decide +kernel, by decide +kernel⟩,
   ⟨tFl { pk with kind := 4 }, _, _, rfl, someOf (by decide +kernel), by decide +kernel⟩,
   ⟨tFl pk, _, _, rfl, someOf (by decide +kernel), by decide +kernel⟩,
   ⟨(tFl { pk with kind := 2, aux := 0x8000000000000000 }).modTh (fun t => { t with sregs := [(4, .owed 0 7)] }),
     _, { pk with kind := 2, aux := 0x8000000000000000 }, 0, 4, _, rfl, by decide +kernel, by decide +kernel,
     by decide +kernel, rfl⟩,
   ⟨t0, pk, 0, by decide +kernel, rfl, by decide +kernel⟩⟩

theorem witness_RouterEvents :
    (∃ (s : State) (p : Packet), s.ev.pkt = some p) ∧
    (∃ (s w : State) (p : Packet), s.ev.pkt = some p ∧ w = s.woken) ∧
    (∃ (s : State), s.ev.n ≤ 2 ∧ (s.ev.n = 1 → s.ev.port < 4)) ∧
    (∃ (s : State), s.ev.n = 1 ∧ 4 ≤ s.ev.port) ∧
    (∃ (s : State) (p : Packet), s.ev.n = 0 ∧ (s.fabric.link s.ev.port s.ev.vc).up = true ∧ s.ev.ok = true ∧
      s.ev.pkt = some p ∧ p.kind ≠ 8) ∧
    (∃ (s : State), s.ev.n = 0 ∧ (s.fabric.link s.ev.port s.ev.vc).up = true ∧ s.ev.ok = false ∧
      (s.fabric.link s.ev.port s.ev.vc).naks = 15 ∧ s.ev.vc < 8 ∧ s.ev.port < 8) ∧
    (∃ (s : State) (g : Nat), s.fabric.nextGen = some g) ∧
    (∃ (s : State), s.ev.gen ≠ s.fabric.gen ∧ s.fabric.holds s.ev.gen = false ∧ s.ev.ok = true) ∧
    (∃ (s : State), s.ev.gen = s.fabric.gen ∨ s.fabric.holds s.ev.gen = true) ∧
    (∃ (s : State), s.routerBusy = false ∧ (∀ c, s.fabric.wakeAt = some c → c + 2 < s.clk) ∧ s.ev.ok = true) ∧
    (∃ (s : State) (c : Nat), s.fabric.wakeAt = some c ∧ s.clk ≤ c + 2) ∧
    (∃ (s : State), s.fabric.powered = false) ∧
    (∃ (s w : State) (p : Packet), s.ev.pkt = some p ∧ w = s.woken ∧ w.fabric.powered = false) ∧
    (∃ (s w : State) (p : Packet), s.ev.pkt = some p ∧ w = s.woken ∧ w.fabric.powered = true ∧
      p.dst ∈ (w.fabric.table p.gen).devs ∧ p.dst ≠ w.devid) ∧
    (∃ (s w : State) (p q : Packet) (port : Nat), s.ev.pkt = some p ∧ w = s.woken ∧ w.fabric.powered = true ∧
      (p.dst ∉ (w.fabric.table p.gen).devs ∨ p.dst = w.devid) ∧ w.fabric.route w.devid p = some (port, q, false) ∧
      (w.fabric.link port q.vc).up = true ∧ (w.fabric.link port q.vc).off = false ∧
      (w.fabric.link port q.vc).buf = []) ∧
    (∃ (s w : State) (p q : Packet) (port : Nat) (shut : Bool), s.ev.pkt = some p ∧ w = s.woken ∧
      w.fabric.powered = true ∧ w.fabric.route w.devid p = some (port, q, shut) ∧
      (shut = true ∨ (w.fabric.link port q.vc).up = false ∨ (w.fabric.link port q.vc).off = true)) :=
  ⟨⟨tE { pkt := some pk }, _, rfl⟩,
   ⟨tE { pkt := some pk }, _, _, rfl, rfl⟩,
   ⟨tE { n := 2 }, by decide +kernel, by decide +kernel⟩,
   ⟨tE { n := 1, port := 4 }, by decide +kernel, by decide +kernel⟩,
   ⟨tE { pkt := some pk, ok := true }, _, by decide +kernel, by decide +kernel, by decide +kernel,
     someOf (by decide +kernel), by decide +kernel⟩,
   ⟨tFb { t0.fabric with links := [(63, { naks := 15 })] } { port := 7, vc := 7 }, by decide +kernel,
     by decide +kernel, by decide +kernel, by decide +kernel, by decide +kernel, by decide +kernel⟩,
   ⟨tFb { t0.fabric with nextGen := some 1 } {}, _, rfl⟩,
   ⟨tE { gen := 1, ok := true }, by decide +kernel, by decide +kernel, by decide +kernel⟩,
   ⟨tE {}, by decide +kernel⟩,
   ⟨tE { ok := true }, by decide +kernel, (by intro c h; cases h), by decide +kernel⟩,
   ⟨tFb { t0.fabric with wakeAt := some 0 } {}, 0, rfl, by decide +kernel⟩,
   ⟨tFb { t0.fabric with powered := false } {}, by decide +kernel⟩,
   ⟨tFb { t0.fabric with powered := false, downAt := 5 } { pkt := some pk }, _, _, rfl, rfl, by decide +kernel⟩,
   ⟨tFb { t0.fabric with tables := [(0, { devs := [1] })] } { pkt := some { pk with dst := 1 } }, _, _, rfl, rfl,
     by decide +kernel, by decide +kernel, by decide +kernel⟩,
   ⟨tE { pkt := some { pk with dst := 1 } }, _, { pk with dst := 1 }, _, _, rfl, rfl, by decide +kernel,
     by decide +kernel, tripFalse (by decide +kernel), by decide +kernel, by decide +kernel, by decide +kernel⟩,
   ⟨tFb { t0.fabric with links := (List.range 64).map (fun k => (k, { off := true })) } { pkt := some { pk with dst := 1 } }, _, { pk with dst := 1 }, _, _, _, rfl, rfl, by decide +kernel, tripSome3 (by decide +kernel), by decide +kernel⟩⟩

theorem witness_RoutingEngine :
    (∃ (s s1 : State) (o : Src1) (v : Word), s.fits false ∧ o.read s = .ok v s1 ∧ bitsN v.toNat 63 6 = 0) ∧
    (∃ (s s1 : State) (o : Src1) (v : Word), s.fits false ∧ o.read s = .ok v s1 ∧ bitsN v.toNat 17 16 ≠ 3 ∧
      s1.speculative s1.th = false) ∧
    (∃ (s s1 s2 s3 s4 s5 : State) (o : Src1) (a base tags cap : Word), s.fits false ∧ o.read s = .ok a s1 ∧
      a.toNat % 32 = 0 ∧ regionOf a = .chip ∧ s1.speculative s1.th = false ∧ readPerformed a s1 = .ok base s2 ∧
      readPerformed (a + 8) s2 = .ok tags s3 ∧ readPerformed (a + 16) s3 = .ok cap s4 ∧ 1 ≤ bitsN cap.toNat 8 0 ∧
      bitsN cap.toNat 8 0 ≤ 256 ∧ bitsN cap.toNat 63 14 = 0 ∧ base.toNat % 64 = 0 ∧ tags.toNat % 8 = 0 ∧
      cap.toNat.testBit 13 = false ∧ s4.remoteWrite s4.th.part (a + 24) 8 0 = .ok s5) ∧
    (∃ (s s1 : State) (o : Src1) (v : Word), s.fits false ∧ o.read s = .ok v s1 ∧ bitsN v.toNat 63 6 = 0 ∧
      s1.speculative s1.th = false) ∧
    (∃ (s s1 : State) (o : Src3) (d w0 w1 : Word), s.fits false ∧ o.read s = .ok (d, w0, w1) s1 ∧
      bitsN d.toNat 63 6 = 0 ∧ s1.myPart.rlmask.toNat.testBit d.toNat = true ∧ s1.speculative s1.th = false ∧
      (smGet {} s1.myPart.lists d.toNat).recs.length < 256) ∧
    (∃ (s : State) (r : SendRec) (rest : List SendRec),
      (smGet {} (s.part s.ev.part).lists s.ev.list).recs = r :: rest ∧ r.malformed = true) ∧
    (∃ (s : State) (r : SendRec) (rest : List SendRec),
      (smGet {} (s.part s.ev.part).lists s.ev.list).recs = r :: rest ∧ r.malformed = false) ∧
    (∃ (s : State) (p : Packet) (m : Nat), s.ev.pkt = some p ∧ s.pairHeld p = false ∧ s.accepts p = true ∧
      m = (p.data.headD 0).toNat ∧ m.testBit 0 = false) ∧
    (∃ (s : State) (a : FlushAcc),
    (smGet {} (s.part s.ev.part).lists s.ev.list).accs.find? (fun a =>
      a.fid == s.ev.fid && a.closed) = some a) :=
  ⟨⟨t0, _, ⟨0, false⟩, _, fits0, okOf (by decide +kernel), by decide +kernel⟩,
   ⟨t0, _, ⟨8, false⟩, _, fits0, okOf (by decide +kernel), by decide +kernel, by decide +kernel⟩,
   ⟨t0, _, _, _, _, _, ⟨5, false⟩, _, _, _, _, fits0, okOf (by decide +kernel), by decide +kernel,
     by decide +kernel, by decide +kernel, okOf (by decide +kernel), okOf (by decide +kernel),
     okOf (by decide +kernel), by decide +kernel, by decide +kernel, by decide +kernel, by decide +kernel,
     by decide +kernel, by decide +kernel, exOk (by decide +kernel)⟩,
   ⟨t0, _, ⟨8, false⟩, _, fits0, okOf (by decide +kernel), by decide +kernel, by decide +kernel⟩,
   ⟨t0, _, ⟨8, 0, 0, false, false, false⟩, _, _, _, fits0, okOf (by decide +kernel), by decide +kernel,
     by decide +kernel, by decide +kernel, by decide +kernel⟩,
   ⟨tLs { recs := [{ sr with w1 := -1 }] }, { sr with w1 := -1 }, [], rfl, by decide +kernel⟩,
   ⟨tLs { recs := [sr] }, sr, [], rfl, by decide +kernel⟩,
   ⟨tE { pkt := some { pk with data := [2] } }, _, _, rfl, by decide +kernel, by decide +kernel, rfl,
     by decide +kernel⟩,
   ⟨tLs { accs := [{ fid := 0, closed := true }] }, _, rfl⟩⟩

theorem witness_StreamResult :
    (∃ (s s1 : State) (o : Src2) (d v : Word), s.fits false ∧ o.read s = .ok (d, v) s1 ∧ bitsN d.toNat 63 8 = 0 ∧
      s1.myPart.stmask.testBit d.toNat = true ∧ s1.speculative s1.th = false ∧
      s1.th.outOM + s1.th.outAD + s1.th.outRT < 64) ∧
    (∃ (s s1 : State) (o : MemT) (cls : BitVec 2) (vs : List Word) (ea t : Word), s.fits false ∧
      s.myCore.test = false ∧ cls ≠ 3 ∧ o.storeEaF 4 s = .ok (vs, ea, t) s1 ∧ o.d.toNat % 4 = 0 ∧
      bitsN t.toNat 63 33 = 0 ∧ s1.myPart.stmask.testBit (bitsN t.toNat 7 0) = true ∧ ea.toNat % 128 = 0 ∧
      s1.speculative s1.th = false) ∧
    (∃ (s : State), s.ev.idx ≤ 8) ∧
    (∃ (s : State), s.ev.pkt.isSome = true ∧ s.woken.fabric.powered = false) ∧
    (∃ (s : State) (p : Packet), s.ev.pkt = some p ∧ s.woken.fabric.powered = true ∧
      (s.entry s.ev.stream).takes s.ev.port = true ∧ (∀ m ∈ (s.entry s.ev.stream).markers, m.1 ≠ s.ev.port) ∧
      (∃ i ∈ (s.entry s.ev.stream).ins, i ≠ s.ev.port ∧ ∀ m ∈ (s.entry s.ev.stream).markers, m.1 ≠ i) ∧
    ((s.entry s.ev.stream).outs.contains 8 = true → ∀ m ∈ (s.entry s.ev.stream).markers ++ [(s.ev.port, p)],
      s.woken.pairHeld { m.2 with cls := 1 } = false)) ∧
    (∃ (s : State) (p : Packet), s.ev.pkt = some p ∧ s.woken.fabric.powered = true ∧
      (s.entry s.ev.stream).takes s.ev.port = true ∧ (s.entry s.ev.stream).waiting = [] ∧
      (∀ m ∈ (s.entry s.ev.stream).markers, m.1 ≠ s.ev.port) ∧
      (∀ i ∈ (s.entry s.ev.stream).ins, i = s.ev.port ∨ ∃ m ∈ (s.entry s.ev.stream).markers, m.1 = i) ∧
      (s.entry s.ev.stream).outs.contains 8 = false) ∧
    (∃ (s : State) (p : Packet), s.ev.pkt = some p ∧ s.woken.fabric.powered = true ∧
      (s.entry s.ev.stream).takes s.ev.port = false) :=
  ⟨⟨t0, _, ⟨0, 8, false, false⟩, _, _, fits0, okOf (by decide +kernel), by decide +kernel, by decide +kernel,
    by decide +kernel, by decide +kernel⟩,
   ⟨t0, _, ⟨8, 7, 0, 0x70, false, false, false⟩, 0, _, _, _, fits0, by decide +kernel, by decide +kernel,
     okOf (by decide +kernel), by decide +kernel, by decide +kernel, by decide +kernel, by decide +kernel,
     by decide +kernel⟩,
   ⟨tE { idx := 8 }, by decide +kernel⟩,
   ⟨tFb { t0.fabric with powered := false, downAt := 5 } { pkt := some pk }, by decide +kernel, by decide +kernel⟩,
   ⟨tSt {} { pkt := some pk, port := 0 }, _, rfl, by decide +kernel, by decide +kernel, by decide +kernel,
     by decide +kernel, by decide +kernel⟩,
   ⟨tSt { markers := [(1, pk)] } { pkt := some pk, port := 0 }, _, rfl, by decide +kernel, by decide +kernel,
     by decide +kernel, by decide +kernel, by decide +kernel, by decide +kernel⟩,
   ⟨tSt {} { pkt := some pk, port := 5 }, _, rfl, by decide +kernel, by decide +kernel⟩⟩

theorem witness_ReductionEvents :
    (∃ (s : State) (r : RedPacket), s.ev.red = some r ∧ s.woken.fabric.powered = true ∧
      (s.entry s.ev.stream).takes s.ev.port = true ∧ (∀ m ∈ (s.entry s.ev.stream).markers, m.1 ≠ s.ev.port)) ∧
    (∃ (s : State) (r : RedPacket), s.ev.red = some r) ∧
    (∃ (s : State) (g : Gather), s.gatherOf s.ev.stream = some g ∧ g.since = s.ev.since) ∧
    (∃ (s : State) (r : RedPacket), s.ev.red = some r ∧
      s.fabric.closed.find? (fun c => c.stream == r.stream && c.ea == r.ea) = none ∧
      s.redHeld r.part r.ea = false) ∧
    (∃ (s : State) (r : RedPacket), s.fabric.endpoint.find? (sameStep r.stream r.ea) = none ∧
      mapCount r.map ≠ r.k ∧ s.redHeld r.part r.ea = false) ∧
    (∃ (s : State) (r : RedPacket) (g : Gather), s.fabric.endpoint.find? (sameStep r.stream r.ea) = some g ∧
      (∀ x ∈ g.pkts, redDiffers x r = false) ∧ (g.pkts.foldl (fun m x => m ||| x.map) 0) &&& r.map = 0 ∧
      mapCount ((g.pkts.foldl (fun m x => m ||| x.map) 0) ||| r.map) = r.k) ∧
    (∃ (a b : RedPacket) (k : Nat), k < a.words.length ∧ k < b.words.length) ∧
    (∃ (s : State) (g : Gather), s.fabric.endpoint.find? (sameStep s.ev.stream s.ev.v) = some g ∧
      g.since = s.ev.since ∧ (∀ r ∈ g.pkts, s.redHeld r.part r.ea = false)) ∧
    (∃ (s : State) (r : RedPacket) (g : Gather), s.ev.red = some r ∧ s.woken.fabric.powered = true ∧
      (s.entry s.ev.stream).takes s.ev.port = true ∧ (s.entry s.ev.stream).op = 2 ∧
      (s.entry s.ev.stream).late = [] ∧ s.gatherOf s.ev.stream = some g ∧ s.ev.port ∉ g.ports ∧
      (∃ i ∈ (s.entry s.ev.stream).ins, i ≠ s.ev.port ∧ i ∉ g.ports) ∧ (∀ x ∈ g.pkts, redDiffers x r = false)) ∧
    (∃ (s : State) (r : RedPacket), s.ev.red = some r ∧ s.woken.fabric.powered = true ∧
      (s.entry s.ev.stream).takes s.ev.port = true ∧ (s.entry s.ev.stream).op = 2 ∧
      (s.entry s.ev.stream).late = [] ∧ s.gatherOf s.ev.stream = none ∧ (s.entry s.ev.stream).ins ≠ [s.ev.port] ∧
      (s.entry s.ev.stream).limit = 0) :=
  ⟨⟨tSt {} { red := some rp, port := 0 }, _, rfl, by decide +kernel, by decide +kernel, by decide +kernel⟩,
   ⟨tSt {} { red := some rp, port := 0 }, _, rfl⟩,
   ⟨tFb { t0.fabric with gathers := [gt] } {}, _, rfl, by decide +kernel⟩,
   ⟨tE { red := some rp }, _, rfl, by decide +kernel, by decide +kernel⟩,
   ⟨t0, rp, by decide +kernel, by decide +kernel, by decide +kernel⟩,
   ⟨tFb { t0.fabric with endpoint := [gt] } {}, { rp with map := 2 }, _, rfl, by decide +kernel, by decide +kernel,
     by decide +kernel⟩,
   ⟨rp, rp, 7, by decide +kernel, by decide +kernel⟩,
   ⟨tFb { t0.fabric with endpoint := [gt] } { v := 0x10000080 }, _, rfl, by decide +kernel, by decide +kernel⟩,
   ⟨tRd [gt3], _, _, rfl, by decide +kernel, by decide +kernel, by decide +kernel, by decide +kernel, rfl,
     by decide +kernel, by decide +kernel, by decide +kernel⟩,
   ⟨tRd [], _, rfl, by decide +kernel, by decide +kernel, by decide +kernel, by decide +kernel, by decide +kernel,
     by decide +kernel, by decide +kernel⟩⟩

theorem witness_PodResult :
    (∃ (s s1 : State) (o : Src1) (v : Word), s.fits false ∧ s.Quiet ∧ o.read s = .ok v s1 ∧
      bitsN v.toNat 63 6 = 0 ∧ s1.myPart.pbmask.toNat.testBit v.toNat = true ∧ s1.Quiet ∧
    (s1.th.arrA (podKey s1.th.part v.toNat) && s1.th.arrRP (podKey s1.th.part v.toNat) ==
      (s1.pod s1.th.part v.toNat).phase) = false) ∧
    (∃ (s s1 : State) (o : Src1) (v : Word), s.fits false ∧ s.th.pendVec = none ∧ s.th.pendMau = none ∧
      o.read s = .ok v s1 ∧ bitsN v.toNat 63 6 = 0 ∧ s1.myPart.pbmask.toNat.testBit v.toNat = true ∧
      s1.th.arrA (podKey s1.th.part v.toNat) = true ∧
      s1.th.arrRP (podKey s1.th.part v.toNat) ≠ (s1.pod s1.th.part v.toNat).phase) ∧
    (∃ (s : State) (c : PodCfg), (s.pod s.ev.part s.ev.ch).cfg = some c ∧ c.root = s.devid ∧
    (c.members.contains (match s.ev.pkt with
      | some q => q.src
      | none => s.devid) = true)) ∧
    (∃ (s : State) (c : PodCfg), (s.pod s.ev.part s.ev.ch).cfg = some c ∧ c.root ≠ s.devid ∧ s.ev.pkt = none) ∧
    (∃ (s : State) (c : PodCfg), (s.pod s.ev.part s.ev.ch).cfg = some c) ∧
    (∃ (s : State), s.ev.n = 1) ∧
    (∃ (s : State) (c : PodCfg), s.ev.n ≠ 1 ∧ (s.pod s.ev.part s.ev.ch).cfg = some c ∧ s.clk < s.ev.v.toNat) ∧
    (∃ (s : State), (∀ c, s.ev.pod = some c → c.window ≤ 2000)) ∧
    (∃ (s : State) (c : PodCfg), s.ev.pod = some c ∧ 2000 < c.window) :=
  ⟨⟨t0, _, ⟨8, false⟩, _, fits0, quiet0, okOf (by decide +kernel), by decide +kernel, by decide +kernel, quiet0,
    by decide +kernel⟩,
   ⟨(t0.setPod 0 1 { phase := true }).modTh (fun t => t.setArr (podKey 0 1) true false), _, ⟨8, false⟩, _,
     (fitsOf rfl), by decide +kernel, by decide +kernel, okOf (by decide +kernel), by decide +kernel,
     by decide +kernel, by decide +kernel, by decide +kernel⟩,
   ⟨tP {}, _, rfl, by decide +kernel, by decide +kernel⟩,
   ⟨(tE {}).setPod 0 0 { cfg := some { members := [0, 1], index := 0, lc := 1, window := 2000, allow := 0, root := 1 } }, _, rfl, by decide +kernel, by decide +kernel⟩,
   ⟨tP {}, _, rfl⟩,
   ⟨tP { n := 1 }, by decide +kernel⟩,
   ⟨{ tP { v := 9 } with clk := 3 }, _, by decide +kernel, rfl, by decide +kernel⟩,
   ⟨tE { pod := some { members := [0], index := 0, lc := 1, window := 2000, allow := 0, root := 0 } },
     (by intro c h; cases h; decide +kernel)⟩,
   ⟨tE { pod := some { members := [0], index := 0, lc := 1, window := 2001, allow := 0, root := 0 } }, _, rfl,
     by decide +kernel⟩⟩

set_option maxRecDepth 4000 in
theorem witness_DerivedResult :
    (∃ (s s1 s2 : State) (o : Un) (h : Word), s.fits false ∧ o.read s = .ok h s1 ∧ h.toNat < 4096 ∧
      s1.myPart.ftbase ≠ 0 ∧
    ((match (if s1.myPart.dvbase = 0 then none else s1.ruleOf s1.th.part h.toNat) with
      | none => writeS o.d 0 s1
      | some r => writeS o.d (BitVec.ofNat 64 (2 ^ 63 + r.depth * 2 ^ 20 + r.kind * 65536 + r.base)) s1) = .ok () s2)) ∧
    (∃ (s s1 s2 s3 s4 : State) (o : Un) (h : Word) (d : Desc) (pa n : Nat) (r : Rule), s.fits false ∧
      o.read s = .ok h s1 ∧ h.toNat < 4096 ∧ s1.myPart.ftbase ≠ 0 ∧ s1.myPart.dvbase ≠ 0 ∧
      s1.speculative s1.th = false ∧ descDefined h s1 = .ok (d, pa) s2 ∧ s2.ruleOf s2.th.part h.toNat = some r ∧
      refresh d r s2 = .ok n s3 ∧ writeS o.d (BitVec.ofNat 64 n) s3 = .ok () s4) ∧
    (∃ (s s1 s2 s3 s4 : State) (o : Src1) (h : Word) (d : Desc) (dpa pa n : Nat) (r : Rule), s.fits false ∧
      s.Quiet ∧ o.read s = .ok h s1 ∧ h.toNat < 4096 ∧ s1.myPart.ftbase ≠ 0 ∧ s1.myPart.dvbase ≠ 0 ∧ s1.Quiet ∧
      descDefined h (s1.modTh (fun t => { t with segNew := true })) = .ok (d, dpa) s2 ∧
      s2.ruleOf s2.th.part h.toNat = some r ∧ (∀ x ∈ s2.rules, ¬(x.part = s2.th.part ∧ x.base = h.toNat)) ∧
      entryAt h s2 = .ok pa s3 ∧ refresh d r s3 = .ok n s4) ∧
    (∃ (s s1 s2 s3 s4 s5 : State) (o : Src2) (h a : Word) (img dpa bpa pa : Nat) (d b : Desc), s.fits false ∧
      o.read s = .ok (h, a) s1 ∧ s1.Quiet ∧ h.toNat < 4096 ∧
      loadN a 64 (s1.modTh (fun t => { t with segNew := true })) = .ok img s2 ∧ s2.myPart.ftbase ≠ 0 ∧
      s2.myPart.dvbase ≠ 0 ∧ descDefined h s2 = .ok (d, dpa) s3 ∧
      descSeen (BitVec.ofNat 64 (bitsN ((natWords 8 img).getD 0 0).toNat 11 0)) s3 = .ok (b, bpa) s4 ∧
      ruleValid (natWords 8 img) d b = true ∧ entryAt h s4 = .ok pa s5 ∧
      (s5.chainOf s5.th.part (bitsN ((natWords 8 img).getD 0 0).toNat 11 0) 5).contains h.toNat = false ∧ d.s = 0 ∧
      d.base.toNat % 256 = 0 ∧
    (∀ x ∈ s5.chainOf s5.th.part (bitsN ((natWords 8 img).getD 0 0).toNat 11 0) 5,
      overlaps (s5.storage s5.th.part d) (s5.storageOf s5.th.part x) = false) ∧
    ((match s5.ruleOf s5.th.part (bitsN ((natWords 8 img).getD 0 0).toNat 11 0) with
      | some r => r.depth + 1
      | none => 1) + s5.below s5.th.part h.toNat 5 ≤ 4)) ∧
    (∃ (s : State) (n : Notice), s.notices.find? (fun n => n.id == s.ev.id) = some n) ∧
    (∃ (s : State), s.fabric.acks = []) ∧
    (∃ (s : State) (r : Rule) (d b : Desc) (x : Nat × Nat × Bool) (v : Nat),
      s.recomputing.find? (fun y => y.1 == s.ev.pa) = some x ∧ x.2.2 = false ∧ x.2.1 < 16 ∧
      s.ruleAt s.ev.pa = some r ∧ s.ruleDescs r = .ok (d, b) ∧
      (∀ f ∈ s.feedSet r d b s.ev.pa, s.isStale (f * 256) = false) ∧ s.lineBytes r d b s.ev.pa = .ok v) :=
  ⟨⟨tD [ru] [0x230] {}, _, _, ⟨4, 9, false⟩, _, (fitsOf rfl), okOf (by decide +kernel), by decide +kernel,
    by decide +kernel, okU (by decide +kernel)⟩,
   ⟨tD [ru] [0x230] {}, _, _, _, _, ⟨4, 9, false⟩, _, _, _, _, _, (fitsOf rfl), okOf (by decide +kernel),
     by decide +kernel, by decide +kernel, by decide +kernel, by decide +kernel, okOf (by decide +kernel),
     someOf (by decide +kernel), okOf (by decide +kernel), okU (by decide +kernel)⟩,
   ⟨tD [ru] [0x230] {}, _, _, _, _, ⟨9, false⟩, _, _, _, _, _, _, (fitsOf rfl),
     ⟨rfl, rfl, rfl, rfl, rfl, rfl, rfl, ⟨rfl, rfl, rfl, rfl⟩, rfl, rfl, rfl, rfl, rfl, rfl, rfl⟩,
     okOf (by decide +kernel), by decide +kernel, by decide +kernel, by decide +kernel,
     ⟨rfl, rfl, rfl, rfl, rfl, rfl, rfl, ⟨rfl, rfl, rfl, rfl⟩, rfl, rfl, rfl, rfl, rfl, rfl, rfl⟩,
     okOf (by decide +kernel), someOf (by decide +kernel), by decide +kernel, okOf (by decide +kernel),
     okOf (by decide +kernel)⟩,
   ⟨tD [] [] {}, _, _, _, _, _, ⟨9, 12, false, false⟩, _, _, _, _, _, _, _, _, (fitsOf rfl),
     okOf (by decide +kernel), ⟨rfl, rfl, rfl, rfl, rfl, rfl, rfl, ⟨rfl, rfl, rfl, rfl⟩, rfl, rfl, rfl, rfl, rfl,
     rfl, rfl⟩, by decide +kernel, okOf (by decide +kernel), by decide +kernel, by decide +kernel,
     okOf (by decide +kernel), okOf (by decide +kernel), by decide +kernel, okOf (by decide +kernel),
     by decide +kernel, by decide +kernel, by decide +kernel, by decide +kernel, by decide +kernel⟩,
   ⟨{ tD [ru] [0x230] { id := 1 } with notices := [{ id := 1, line := 0x230, waiting := some 0, domain := none, stamp := 0 }] }, _, rfl⟩,
   ⟨t0, by decide +kernel⟩,
   ⟨{ tD [ru] [] { pa := 0x230 } with recomputing := [(0x230, 0, false)] }, ru, d2, d1, (0x230, 0, false), 0,
     by decide +kernel, by decide +kernel, by decide +kernel, by decide +kernel,
     descsIs (x := 0x20080) (y :=
     0x20040) (descIs (by decide +kernel) (by decide +kernel) (by decide +kernel)) (descIs (by decide +kernel) (by decide +kernel) (by decide +kernel)), by decide +kernel, exAs (by decide +kernel) (by decide +kernel)⟩⟩

theorem witness_PhaseResult :
    (∃ (s : State) (ch : BitVec 6), s.fits false ∧ s.myCore.fend = false ∧ s.myCore.test = false ∧
      s.th.pendVec = none ∧ s.th.pendMau = none ∧ s.th.xarr = some ch.toNat ∧ s.th.opDone = true) ∧
    (∃ (s s1 : State) (ch : BitVec 6), s.fits false ∧ s.myCore.fend = false ∧ s.myCore.test = false ∧
      s.th.pendVec = none ∧ s.th.pendMau = none ∧ s.th.pendReduce = none ∧ s.th.xarr ≠ some ch.toNat ∧
      s.myCore.inph = false ∧ (∀ j < 4, 4 * s.cid + j ≠ s.cur → (s.thread (4 * s.cid + j)).entering = false) ∧
      barArrive ch.toNat (.phaseEntry ch.toNat) s = .ok () s1) ∧
    (∃ (s : State), s.fits false ∧ s.myCore.fend = false ∧ s.th.pendVec = none ∧ s.th.pendMau = none ∧
      s.inPhase s.cur = true ∧ s.myCore.armedSlots = []) ∧
    (∃ (s : State), s.fits false ∧ s.myCore.fend = false ∧ s.th.pendVec = none ∧ s.th.pendMau = none ∧
      s.myCore.inph = false) ∧
    (∃ (s s1 : State) (o : Mem) (v k : Word), s.fits false ∧ s.myCore.fend = false ∧ s.inPhase s.cur = true ∧
      s.speculative s.th = false ∧ o.storeEa s = .ok (v, k) s1 ∧ k.toNat ≤ 65535 ∧ s1.phaseClock s1.cid ≤ k.toNat) ∧
    (∃ (s s1 : State) (o : MemT) (d k t : Word), s.fits false ∧ s.myCore.fend = false ∧ s.inPhase s.cur = true ∧
      s.speculative s.th = false ∧ s.th.xsel = none ∧ o.storeEa s = .ok (d, k, t) s1 ∧ bitsN t.toNat 63 10 = 0 ∧
      s1.clusterOk s1.th.part (t.toNat / 8) = true ∧ k.toNat ≤ 65535 ∧ s1.phaseClock s1.cid < k.toNat ∧
      d.toNat % 8 = 0 ∧ d.toNat < s1.myCore.tcmMax * 0x10000 ∧ (∀ x ∈ s1.myCore.armedSlots, x.1 ≠ k.toNat)) ∧
    (∃ (s : State), (s.core s.ev.core).inph = true ∧ (s.core s.ev.core).phaseStart = s.ev.since) ∧
    (∃ (s : State) (src d : Nat), (s.core s.ev.core).inph = true ∧ (s.core s.ev.core).phaseStart = s.ev.since ∧
      (s.core s.ev.core).armedSlots.find? (fun x => x.1 == s.ev.n) = some (s.ev.n, src, d)) ∧
    (∃ (s : State), (s.core s.ev.core).inph = true ∧ (s.core s.ev.core).phaseStart = s.ev.since ∧
      (∀ x, (s.thread (s.core s.ev.core).phaseTid).wait = some x → x.why ≠ .armed)) :=
  ⟨⟨t0.modTh (fun t => { t with xarr := some 63, opDone := true }), 63, (fitsOf rfl), by decide +kernel,
    by decide +kernel, by decide +kernel, by decide +kernel, someOf (by decide +kernel), by decide +kernel⟩,
   ⟨t0, _, 0, fits0, by decide +kernel, by decide +kernel, by decide +kernel, by decide +kernel, by decide +kernel,
     by decide +kernel, by decide +kernel, by decide +kernel, okU (by decide +kernel)⟩,
   ⟨tX [] {}, (fitsOf rfl), by decide +kernel, by decide +kernel, by decide +kernel, by decide +kernel,
     by decide +kernel⟩,
   ⟨t0, fits0, by decide +kernel, by decide +kernel, by decide +kernel, by decide +kernel⟩,
   ⟨tX [] {}, _, ⟨8, 0, 65535, false, false⟩, _, _, (fitsOf rfl), by decide +kernel, by decide +kernel,
     by decide +kernel, okOf (by decide +kernel), by decide +kernel, by decide +kernel⟩,
   ⟨tX [] {}, _, ⟨4, 0, 0, 65535, false, false, false⟩, _, _, _, (fitsOf rfl), by decide +kernel,
     by decide +kernel, by decide +kernel, by decide +kernel, okOf (by decide +kernel), by decide +kernel,
     by decide +kernel, by decide +kernel, by decide +kernel, by decide +kernel, by decide +kernel,
     by decide +kernel⟩,
   ⟨tX [] {}, by decide +kernel, by decide +kernel⟩,
   ⟨tX [(9, 0, 0x40)] { n := 9 }, _, _, by decide +kernel, by decide +kernel, rfl⟩,
   ⟨tX [] {}, by decide +kernel, by decide +kernel, (by intro x h; exact (nomatch (h : none = some x)))⟩⟩

theorem witness_PreemptResult :
    (∃ (s : State), s.ev.n ≠ 1 ∧ (s.core s.ev.core).preempted = true) ∧
    (∃ (s : State), s.ev.n ≠ 1 ∧ (s.core s.ev.core).preempted = false ∧ s.preemptSet s.ev.core = none) ∧
    (∃ (s : State) (all : List Nat), s.ev.n ≠ 1 ∧ (s.core s.ev.core).preempted = false ∧
      s.preemptSet s.ev.core = some all) ∧
    (∃ (s : State), s.ev.n = 1 ∧ (s.core s.ev.core).preempted = true ∧ (s.core s.ev.core).saved = false ∧
      (∀ k < 4, s.quiet (4 * s.ev.core + k) = true)) ∧
    (∃ (s : State) (tid : Nat) (f : Flt) (pc : Word), (s.thread tid).occ = true ∧ (s.thread tid).stopped = false ∧
      (s.thread tid).level ≠ .F ∧ hact (s.thread tid) = false ∧ s.speculative (s.thread tid) = false ∧
      (s.thread tid).pendVec = some (f, pc)) ∧
    (∃ (s : State), (s.core s.ev.core).preempted = false) ∧
    (∃ (s : State), (s.core s.ev.core).preempted = true ∧ (s.core s.ev.core).saved = true) ∧
    (∃ (s : State), (s.core s.ev.core).preempted = true ∧ (s.core s.ev.core).saved = true) ∧
    (∃ (s : State) (tid : Nat), s.snaps = [] ∧ (s.thread tid).st = 6 ∧ (s.thread tid).vx = false) :=
  ⟨⟨(tE {}).modCore 0 (fun c => { c with preempted := true }), by decide +kernel, by decide +kernel⟩,
   ⟨tX [] {}, by decide +kernel, by decide +kernel, by decide +kernel⟩,
   ⟨tE {}, _, by decide +kernel, by decide +kernel, someOf (by decide +kernel)⟩,
   ⟨(tE { n := 1 }).modCore 0 (fun c => { c with preempted := true }), by decide +kernel, by decide +kernel,
     by decide +kernel, by decide +kernel⟩,
   ⟨t0.modTh (fun t => { t with pendVec := some (⟨0x15, 56⟩, 0x80) }), 0, _, _, by decide +kernel,
     by decide +kernel, by decide +kernel, by decide +kernel, by decide +kernel, rfl⟩,
   ⟨tE {}, by decide +kernel⟩,
   ⟨(tE {}).modCore 0 (fun c => { c with preempted := true, saved := true }), by decide +kernel, by decide +kernel⟩,
   ⟨(tE {}).modMyCore (fun c => { c with preempted := true, saved := true }), by decide +kernel, by decide +kernel⟩,
   ⟨t0.modTh (fun t => { t with st := 6 }), 0, by decide +kernel, by decide +kernel, by decide +kernel⟩⟩

theorem witness_EndResult :
    (∃ (s : State), s.ev.n = 0 ∧ (s.part s.ev.part).launches.find? (fun l => launchAddr l.addr == s.ev.v) = none) ∧
    (∃ (s : State) (l : Launch), s.ev.n = 0 ∧ s.ev.v ≠ 0 ∧ (s.part s.ev.part).endl = 0 ∧
      (s.part s.ev.part).launches.find? (fun l => launchAddr l.addr == s.ev.v) = some l) ∧
    (∃ (s : State), s.ev.n ≠ 0 ∧
    (∀ k ∈ s.launchSlots s.ev.part s.ev.v,
      s.quiet k = true ∧ s.phaseHeld (k / 4) = false)) ∧
    (∃ (s : State), s.ev.n < 16) :=
  ⟨⟨tE { v := 0x80 }, by decide +kernel, by decide +kernel⟩,
   ⟨tLn lau, _, by decide +kernel, by decide +kernel, by decide +kernel, someOf (by decide +kernel)⟩,
   ⟨tE { n := 1, v := 0x80 }, by decide +kernel, by decide +kernel⟩,
   ⟨tE { n := 15 }, by decide +kernel⟩⟩

theorem witness_HostResult :
    (∃ (s : State) (r : HostReq), s.ev.n = 0 ∧ s.ev.req = some r ∧ smGet [] s.host.queues (r.chan % 4) ≠ []) ∧
    (∃ (s : State) (d : HostDone) (core target : Nat) (y : Nat × HostReq), s.ev.n ≠ 0 ∧
      smGet none s.host.busy s.ev.ch = some (d, core, target) ∧ s.hostOver s.ev.ch core target = true ∧
      smGet [] s.host.queues s.ev.ch = [y]) ∧
    (∃ (s : State) (r : HostReq), s.ev.req = some r ∧ s.devstat.toNat.testBit 0 = true) ∧
    (∃ (s : State), bitsN (s.part s.ev.part).trctl.toNat 2 0 ≠ 0 ∧ s.ev.n = 0) ∧
    (∃ (s u : State) (r : HostReq) (ws : List Word) (core target : Nat), s.ev.n = 0 ∧ s.ev.req = some r ∧
      smGet [] s.host.queues (r.chan % 4) = [] ∧ s.ready5 = true ∧ (s.part r.part).launches.length < 256 ∧
      bitsN (s.part r.part).trctl.toNat 2 0 = 0 ∧ (s.setQueue (r.chan % 4) [(0, r)]).hostPerform 0 r = .ok (ws,
      core, target, u)) ∧
    (∃ (s : State) (r : HostReq) (f : HostFault), s.ev.n = 0 ∧ s.ev.req = some r ∧
      smGet [] s.host.queues (r.chan % 4) = [] ∧ s.ready5 = true ∧ (s.part r.part).launches.length < 256 ∧
      bitsN (s.part r.part).trctl.toNat 2 0 = 0 ∧ (s.setQueue (r.chan % 4) [(2, r)]).hostPerform 2 r = .error f) :=
  ⟨⟨tHq [(1, hq)] { req := some hq }, _, by decide +kernel, someOf (by decide +kernel), by decide +kernel⟩,
   ⟨(tHq [(1, hq)] { n := 1, ch := 1 }).setBusy 1 (some (hd, 0, 0)), _, _, _, _, by decide +kernel, rfl,
     by decide +kernel, rfl⟩,
   ⟨{ tE { req := some hq } with devstat := 1 }, _, rfl, by decide +kernel⟩,
   ⟨(tE {}).modPart 0 (fun q => { q with trctl := 7 }), by decide +kernel, by decide +kernel⟩,
   ⟨{ tHq [] { req := some { hq with chan := 1 } } with devstat := 0x20 }, _, { hq with chan := 1 }, _, _, _,
     by decide +kernel, rfl, by decide +kernel, by decide +kernel, by decide +kernel, by decide +kernel,
     exQuad (by decide +kernel)⟩,
   ⟨{ tHq [] { req := some { hq with addr := 0x40 } } with devstat := 0x20 }, { hq with addr := 0x40 }, _,
     by decide +kernel, rfl, by decide +kernel, by decide +kernel, by decide +kernel, by decide +kernel,
     exErr (by decide +kernel)⟩⟩

theorem witness_PartitionResult :
    (∃ (s : State) (a : Allot), s.ev.allot = some a) ∧
    (∃ (s : State), s.ev.n = 0) ∧
    (∃ (s : State) (cores : List Nat), s.ev.n ≠ 0 ∧
      cores = ((s.slotsOf s.ev.part (fun _ => true)).map (fun t => t / 4)).eraseDups ∧
      s.drained s.ev.part cores = true ∧ s.enginesDone s.ev.part (s.idleCores s.ev.part cores) = true) ∧
    (∃ (s : State), (s.part s.ev.part).dvbase ≠ 0) ∧
    (∃ (s : State), s.ev.n = 0 ∧
    (∀ k < 8, (s.core (8 * s.ev.cl + k)).mailbox = [] ∧
      (s.core (8 * s.ev.cl + k)).port = [] ∧ (s.core (8 * s.ev.cl + k)).spillq = []) ∧
        (s.cluster s.ev.cl).copyq = [] ∧ s.inFlightTo (s.cluster s.ev.cl).part s.ev.cl = false) ∧
    (∃ (s : State), s.ev.n ≠ 0 ∧
    (∀ k < 8, (s.core (8 * s.ev.cl + k)).mailbox = [] ∧
      (s.core (8 * s.ev.cl + k)).port = [] ∧ (s.core (8 * s.ev.cl + k)).spillq = []) ∧
        s.drained (s.cluster s.ev.cl).part ((List.range 8).map (fun k => 8 * s.ev.cl + k)) = true ∧
        s.inFlightTo (s.cluster s.ev.cl).part s.ev.cl = false) :=
  ⟨⟨tE { allot := some ⟨0, 0, 0, 0, 0, 0, 0, 0⟩ }, _, rfl⟩,
   ⟨tE {}, by decide +kernel⟩,
   ⟨(tE { n := 1 }).modCore 0 (fun c => { c with preempted := true, saved := true }), [0], by decide +kernel, rfl,
     by decide +kernel, by decide +kernel⟩,
   ⟨tD [] [] {}, by decide +kernel⟩,
   ⟨tE { cl := 1 }, by decide +kernel, by decide +kernel, by decide +kernel, by decide +kernel⟩,
   ⟨(List.range 8).foldl (fun (s : State) k => s.modCore (8 + k) (fun c => { c with preempted := true, saved := true })) (tE { n := 1, cl := 1 }), by decide +kernel, by decide +kernel, by decide +kernel, by decide +kernel⟩⟩

theorem witness_OperandRules :
    (∃ (s : State), s.myCore.test = false) ∧
    (∃ (s : State), s.myCore.test = false) ∧
    (∃ (s : State) (r : Reg), s.myCore.test = true ∧ 16 ≤ r.toNat) ∧
    (∃ (s : State), s.myCore.test = false ∧ s.th.pendVec = none) ∧
    (∃ (s : State), s.myCore.test = false) ∧
    (∃ (s : State), s.myCore.test = false) ∧
    (∃ (s : State) (r : Reg), s.myCore.test = false ∧ 0 < r.toNat ∧ r.toNat < 56) ∧
    (∃ (s : State) (x : Word) (xs : List Word), s.myCore.test = false ∧ s.th.pendVec = none ∧ s.th.q2 = x :: xs ∧
      s.myCore.q7 = []) ∧
    (∃ (s : State), s.myCore.test = false ∧ s.th.q1.length = 16 ∧ s.myCore.q7.length = 8 ∧ s.th.q0.length < 16) :=
  ⟨⟨t0, by decide +kernel⟩,
   ⟨t0, by decide +kernel⟩,
   ⟨State.reset, 16, by decide +kernel, by decide +kernel⟩,
   ⟨t0, by decide +kernel, by decide +kernel⟩,
   ⟨t0, by decide +kernel⟩,
   ⟨t0, by decide +kernel⟩,
   ⟨t0, 55, by decide +kernel, by decide +kernel, by decide +kernel⟩,
   ⟨t0.modTh (fun t => { t with q2 := [1, 2] }), 1, [2], by decide +kernel, by decide +kernel, rfl,
     by decide +kernel⟩,
   ⟨(t0.modTh (fun t => { t with q1 := List.replicate 16 0 })).modMyCore (fun c => { c with q7 := List.replicate 8 0 }), by decide +kernel, by decide +kernel, by decide +kernel, by decide +kernel⟩⟩

theorem witness_RegisterFrame :
    (∃ (s s1 s2 t : State) (i : Instr) (m : Sem Word) (d : Reg) (v : Word), intValue s i = some (m, d) ∧
      s.fits false ∧ m s = .ok v s1 ∧ writeS d v s1 = .ok () s2 ∧ exec i s = .next t) ∧
    (∃ (s s1 s2 t : State) (i : Instr) (m : Sem (Word × Flags)) (toF : Bool) (d : Reg) (v : Word) (fl : Flags),
      floatForm i = some (m, toF, d) ∧ s.fits false ∧ m s = .ok (v, fl) s1 ∧
      (if toF then writeF else writeS) d v (s1.raiseFlags s1.cur fl) = .ok () s2 ∧ exec i s = .next t) :=
  ⟨⟨t0, _, _, _, .add ⟨4, 5, 6, false, true⟩, _, _, _, rfl, fits0, okOf (by decide +kernel),
    okU (by decide +kernel), nextOf (by decide +kernel)⟩,
   ⟨t0, _, _, _, .fadd ⟨4, 5, 6, false, false⟩ 0, _, _, _, _, _, rfl, fits0, okOf (by decide +kernel),
     okU (by decide +kernel), nextOf (by decide +kernel)⟩⟩

theorem witness_LoadFrame :
    ∃ (s s1 s2 s3 s4 t : State) (i : Instr) (o : Mem) (n v : Nat) (ext : Nat →
      Word) (f : Bool) (ea : Word) (p : Place), loadForm i = some (o, n, ext, f) ∧ s.fits false ∧
      (f = true → s.myCore.test = false) ∧ o.loadEa s = .ok ea s1 ∧ check (.load n) ea s1 = .ok p s2 ∧
      loadPlace p ea n s2 = .ok v s3 ∧ (if f then writeF else writeS) o.d (ext v) s3 = .ok () s4 ∧
      exec i s = .next t :=
  ⟨t0, _, _, _, _, _, .ld ⟨4, 5, 0, false, false⟩, _, _, _, _, _, _, _, rfl, fits0, by decide +kernel,
    okOf (by decide +kernel), okOf (by decide +kernel), okOf (by decide +kernel), okU (by decide +kernel),
    nextOf (by decide +kernel)⟩

theorem witness_StoreFrame :
    ∃ (s s1 s2 s3 t : State) (i : Instr) (m : Sem (Word × Word)) (n : Nat) (v ea : Word) (p : Place),
      storeForm i = some (m, n) ∧ s.fits false ∧ m s = .ok (v, ea) s1 ∧ check (.store n) ea s1 = .ok p s2 ∧
      storePlace p n v.toNat s2 = .ok () s3 ∧ p = .tcm 0x40 ∧ exec i s = .next t :=
  ⟨t0, _, _, _, _, .sd ⟨6, 0, 0x40, false, false⟩, _, _, _, _, _, rfl, fits0, okOf (by decide +kernel),
    okOf (by decide +kernel), okU (by decide +kernel), by decide +kernel, nextOf (by decide +kernel)⟩

theorem witness_AccessChecks :
    (∃ (s s1 : State) (i : Instr) (o : Mem) (n : Nat) (ext : Nat → Word) (f : Bool) (ea : Word),
      loadForm i = some (o, n, ext, f) ∧ s.fits false ∧ (f = true → s.myCore.test = false) ∧
      o.loadEa s = .ok ea s1) ∧
    (∃ (s s1 : State) (i : Instr) (m : Sem (Word × Word)) (n : Nat) (v ea : Word), storeForm i = some (m, n) ∧
      s.fits false ∧ m s = .ok (v, ea) s1) ∧
    (∃ (ea : Word) (n : Nat), n ∈ [1, 2, 4, 8] ∧ ea.toNat % n = 0) ∧
    (∃ (i : Instr) (o : Mem) (n : Nat) (ext : Nat → Word) (f : Bool) (ea : Word) (s1 : State),
      loadForm i = some (o, n, ext, f) ∧ o.loadEa t0 = .ok ea s1 ∧ ea.toNat % n = 0 ∧ regionOf ea = .bad) ∧
    (∃ (s : State) (ea : Word) (off : Nat), regionOf ea = .tcm off ∧ off < s.myCore.tcmMax * 0x10000 ∧
      off < s.myCore.tcmUnits * 0x10000 ∧ s.myCore.test = false ∧ s.myCore.moving = none ∧
      s.tcmPoison s.cid off 8 = none) ∧
    (∃ (s : State) (ea : Word) (off : Nat), regionOf ea = .own off ∧ s.myCore.bankdir.toNat.testBit 31 = false ∧
      s.spadPoison s.kid off 8 = none) :=
  ⟨⟨t0, _, .ld ⟨4, 0, 0x41, false, false⟩, _, _, _, false, _, rfl, fits0, by decide +kernel,
    okOf (by decide +kernel)⟩,
   ⟨t0, _, .sd ⟨4, 0, 0x41, false, false⟩, _, _, _, _, rfl, fits0, okOf (by decide +kernel)⟩,
   ⟨0x40, 8, by decide +kernel, by decide +kernel⟩,
   ⟨.ld ⟨4, 0, 0x200000, false, false⟩, _, _, _, _, _, _, rfl, okAs (by decide +kernel) rfl, by decide +kernel,
     by decide +kernel⟩,
   ⟨t0, 0x5FFF8, _, rfl, by decide +kernel, by decide +kernel, by decide +kernel, by decide +kernel,
     by decide +kernel⟩,
   ⟨t0, 0x13FBFF8, _, rfl, by decide +kernel, by decide +kernel⟩⟩

theorem witness_StepKeepsMemory :
    (∃ (s t : State), Memory.wf s.mem ∧ step s = .next t) ∧
    (∃ (s t : State), s.memWf = true ∧ step s = .next t) :=
  ⟨⟨t0, _, by decide +kernel, nextOf (by decide +kernel)⟩,
   ⟨t0, _, by decide +kernel, nextOf (by decide +kernel)⟩⟩

theorem witness_RoundTrip :
    ∃ (i : Instr) (p : Parts), partsOf i = some p ∧ wellFormed i = true :=
  ⟨.flxch ⟨6, 9, 10, false, false, false⟩, _, rfl, by decide +kernel⟩

theorem witness_StepRuns :
    (∃ (s : State) (due : Nat) (i : Instr) (e : Ev) (rest : List (Nat × Instr × Ev)),
      s.agenda = (due, i, e) :: rest ∧ due ≤ s.clk) ∧
    (∃ (s : State) (k tid : Nat), (∀ x ∈ s.agenda.head?, s.clk < x.1) ∧ s.nextThread s.turn = some (k, tid) ∧
      (s.thread tid).segNew = false ∧ (s.thread tid).held = none) ∧
    (∃ (s : State), s.agenda = [] ∧ s.nextThread s.turn = none) ∧
    (∃ (s v u : State) (k tid : Nat) (c : Chain) (i : Instr) (w : Uses) (d : List Nat × List Nat),
      s.nextThread s.turn = some (k, tid) ∧ (s.thread tid).segNew = false ∧ (s.thread tid).held = none ∧
      v = { s with turn := k + 1 } ∧ v.fetch tid 5 Chain.empty (s.thread tid).pc = .ok (c, u) ∧
      decodeChain c = .ok i ∧ w = (u.thread tid).uses i (u.thread tid).pc (pcAfter (u.thread tid).pc c.n) ∧
      d = u.displaced tid w ∧ (u.thread tid).firstOwed w = none ∧ (u.thread tid).firstFramed w = none ∧
      u.spillWait (tid / 4) (d.1 ++ d.2) = none ∧ u.poisonedUse tid (usesOf i) = none ∧
      u.displacedShort tid w = false) ∧
    (∃ (s : State) (i : Instr) (n : Nat) (isF : Bool), decoded [0xF405, 0x00C3] = some i ∧
      (s.thread 0).firstOwed ((s.thread 0).uses i 0 4) = none ∧
      (s.thread 0).firstFramed ((s.thread 0).uses i 0 4) = some (n, isF)) ∧
    (∃ (s : State) (i : Instr) (n : Nat), decoded [0xF405, 0x00C3] = some i ∧
      (s.thread 0).firstOwed ((s.thread 0).uses i 0 4) = some n) ∧
    (∃ (t : State) (tid : Nat) (w : Wait), (t.thread tid).wait = some w ∧ (t0.thread tid).wait = none ∧
      (t0.thread tid).segNew = false) ∧
    (∃ (s : State) (tid : Nat) (a : Word), s.fetch tid 5 Chain.empty (s.thread tid).pc = .error (.inr (a,
      .page))) :=
  ⟨⟨{ State.reset with agenda := [(0, .powerUp, {})] }, _, _, _, _, rfl, by decide +kernel⟩,
   ⟨t0, _, _, (by intro x h; exact (nomatch (h : none = some x))), tupSome (by decide +kernel), by decide +kernel,
     by decide +kernel⟩,
   ⟨State.reset, by decide +kernel, by decide +kernel⟩,
   ⟨tN, _, _, _, _, _, _, _, _, tupSome (by decide +kernel), by decide +kernel, by decide +kernel, rfl,
     exPair (by decide +kernel), exOk (by decide +kernel), rfl, rfl, by decide +kernel, by decide +kernel,
     by decide +kernel, by decide +kernel, by decide +kernel⟩,
   ⟨t0.modTh (fun t => { t with sregs := [(5, .framed)] }), _, _, _, rfl, by decide +kernel,
     tupSome (by decide +kernel)⟩,
   ⟨t0.modTh (fun t => { t with sregs := [(5, .owed 0 7)] }), _, _, rfl, someOf (by decide +kernel)⟩,
   ⟨t0.modTh (fun t => { t with wait := some ⟨.port 58, 0⟩ }), 0, _, rfl, by decide +kernel, by decide +kernel⟩,
   ⟨t0.modTh (fun t => { t with pc := 0x200000 }), 0, 0x200000, rfl⟩⟩

theorem witness_Completion :
    (∃ (s : State) (o : Bin), s.fits false ∧ s.Ready [o.a, o.b] [o.d]) ∧
    (∃ (s : State) (o : Un), s.fits false ∧ s.Ready [o.a] [o.d]) ∧
    (∃ (s : State) (o : Imm), s.fits false ∧ s.Ready [o.a] [o.d]) ∧
    (∃ (s : State) (d : Reg), s.fits false ∧ s.Ready [] [d]) ∧
    (∃ (s : State) (o : Src1), s.fits true ∧ s.Ready [o.a] []) ∧
    (∃ (s : State) (o : Src2), s.fits true ∧ s.Ready [o.a, o.b] []) ∧
    (∃ (s : State) (o : Mem), s.fits false ∧ s.Ready [o.base] [o.d]) ∧
    (∃ (s : State) (o : Mem), s.fits false ∧ s.myCore.test = false ∧ s.Ready [o.base] []) ∧
    (∃ (s : State) (o : Mem), s.fits false ∧ s.speculative s.th = false ∧ s.Ready [o.d, o.base] []) ∧
    (∃ (s : State) (o : Mem), s.fits false ∧ s.myCore.test = false ∧ s.speculative s.th = false ∧
      s.Ready [o.base] []) ∧
    (∃ (s : State) (d : Reg) (num : Word), s.fits false ∧ s.Ready [] [d] ∧
      (sysReadLevel num.toNat).toNat ≤ s.th.level.toNat) ∧
    (∃ (s : State) (d : Reg), s.fits false ∧ s.Ready [] [d] ∧ s.th.capture.left = 0 ∧ s.th.vuq = [] ∧
      s.th.pendVec = none ∧ s.mauBusy s.cur = false) ∧
    (∃ (s : State) (o : Src1), s.fits false ∧ s.Ready [o.a] [] ∧ s.speculative s.th = false) ∧
    (∃ (s : State), s.fits false ∧ s.myCore.test = false ∧ s.th.rm < 5) ∧
    (∃ (s : State), s.fits false ∧ s.myCore.test = false ∧ s.th.rm < 5) ∧
    (∃ (s : State) (o : Bin), s.fits false ∧ s.Ready [o.a, o.b] [o.d]) ∧
    (∃ (s : State) (o : Un), s.fits false ∧ s.Ready [o.a] [o.d]) ∧
    (∃ (s : State) (o : Bin), s.fits false ∧ s.Ready [o.a, o.b, o.d] [o.d]) ∧
    (∃ (s : State), s.fits false ∧ s.th.rm < 5 ∧ s.th.vx = true ∧ s.th.stopped = false ∧ s.vuRoom) ∧
    (∃ (s : State), s.fits false ∧ s.myCore.test = false ∧ s.th.rm < 5 ∧ s.speculative s.th = false ∧
      s.myCore.mauWaiting.length < 8 ∧ s.th.capture.left = 0) ∧
    (∃ (s : State) (ea : Word) (off : Nat), s.Local ea 8 off ∧ s.tcmPoison s.cid off 8 = none) ∧
    (∃ (s : State), (sysWriteLevel 0x011).toNat ≤ s.th.level.toNat ∧
      (sysWriteLevel 0x208).toNat ≤ (s.modTh (fun t => { t with level := .F })).th.level.toNat) ∧
    (∃ (s : State) (rs : List (Reg × Bool)), s.vecFine (.vlds ⟨1, 5, 6, 0, 0, false, false⟩) ∧
      vecScalars (.vlds ⟨1, 5, 6, 0, 0, false, false⟩) = some rs ∧ (∀ r ∈ rs, r.1.toNat < 58)) ∧
    (∃ (s : State) (o : Src3), s.Ready [o.a, o.b, o.c] [] ∧ s.myCore.mauWaiting.length < 8) :=
  ⟨⟨t0, ⟨63, 5, 6, false, true⟩, fits0, ⟨by decide +kernel, by decide +kernel, by decide +kernel⟩⟩,
   ⟨t0, ⟨63, 5, true⟩, fits0, ⟨by decide +kernel, by decide +kernel, by decide +kernel⟩⟩,
   ⟨t0, ⟨63, 5, 1, true⟩, fits0, ⟨by decide +kernel, by decide +kernel, by decide +kernel⟩⟩,
   ⟨t0, 56, fits0, ⟨by decide +kernel, by decide +kernel, by decide +kernel⟩⟩,
   ⟨t0, ⟨5, true⟩, fits0, ⟨by decide +kernel, by decide +kernel, by decide +kernel⟩⟩,
   ⟨t0, ⟨5, 6, true, false⟩, fits0, ⟨by decide +kernel, by decide +kernel, by decide +kernel⟩⟩,
   ⟨t0, ⟨4, 0, 0x40, false, false⟩, fits0, ⟨by decide +kernel, by decide +kernel, by decide +kernel⟩⟩,
   ⟨t0, ⟨4, 0, 0x40, false, false⟩, fits0, by decide +kernel,
     ⟨by decide +kernel, by decide +kernel, by decide +kernel⟩⟩,
   ⟨t0, ⟨6, 0, 0x40, false, false⟩, fits0, by decide +kernel,
     ⟨by decide +kernel, by decide +kernel, by decide +kernel⟩⟩,
   ⟨t0, ⟨6, 0, 0x40, false, false⟩, fits0, by decide +kernel, by decide +kernel,
     ⟨by decide +kernel, by decide +kernel, by decide +kernel⟩⟩,
   ⟨t0, 4, 0x101, fits0, ⟨by decide +kernel, by decide +kernel, by decide +kernel⟩, by decide +kernel⟩,
   ⟨t0, 4, fits0, ⟨by decide +kernel, by decide +kernel, by decide +kernel⟩, by decide +kernel, by decide +kernel,
     by decide +kernel, by decide +kernel⟩,
   ⟨t0, ⟨5, true⟩, fits0, ⟨by decide +kernel, by decide +kernel, by decide +kernel⟩, by decide +kernel⟩,
   ⟨t0, fits0, by decide +kernel, by decide +kernel⟩,
   ⟨t0, fits0, by decide +kernel, by decide +kernel⟩,
   ⟨t0, ⟨4, 5, 6, false, true⟩, fits0, ⟨by decide +kernel, by decide +kernel, by decide +kernel⟩⟩,
   ⟨t0, ⟨4, 5, true⟩, fits0, ⟨by decide +kernel, by decide +kernel, by decide +kernel⟩⟩,
   ⟨t0, ⟨4, 5, 6, true, true⟩, fits0, ⟨by decide +kernel, by decide +kernel, by decide +kernel⟩⟩,
   ⟨t0.modTh (fun t => { t with vx := true }), (fitsOf rfl), by decide +kernel, by decide +kernel,
     by decide +kernel, by unfold State.vuRoom; decide +kernel⟩,
   ⟨t0, fits0, by decide +kernel, by decide +kernel, by decide +kernel, by decide +kernel, by decide +kernel⟩,
   ⟨t0, 0x5FFF8, 0x5FFF8, ⟨rfl, by decide +kernel, by decide +kernel, by decide +kernel, by decide +kernel⟩,
     by decide +kernel⟩,
   ⟨t0, by decide +kernel, by decide +kernel⟩,
   ⟨t0, _, by unfold State.vecFine; decide +kernel, rfl, by decide +kernel⟩,
   ⟨t0, ⟨5, 6, 7, false, true, false⟩, ⟨by decide +kernel, by decide +kernel, by decide +kernel⟩,
     by decide +kernel⟩⟩

end Sys2Proof.Tests
end

section
/-! The checks of an access that fail, what a load or a store answers then, and what a load from TCM or from the own
scratchpad reads (R3, R103, R104, R114). -/

namespace Sys2Proof.Machine

variable {s s1 s2 : State}

/-! ### An instruction whose body traps -/

/-- Nothing of a body that traps takes effect: the fault is raised in the state before the instruction (R114). -/
theorem plain_raise {b : Sem Unit} {flt : Flt} (h : s.fits false) (hb : b s = .error (.trap flt) s1) :
    plain b s = .next (s.raise s.cur flt) := by
  unfold plain Sem.run
  rw [bind_ok (loopGuard_ok false h), bind_error hb]

/-! ### Loads and stores by their form -/

/-- A load of any mnemonic is `loadF` or `loadS` of its form. -/
theorem exec_of_loadForm {i : Instr} {o : Mem} {n : Nat} {ext : Nat → Word} {f : Bool}
    (h : loadForm i = some (o, n, ext, f)) : exec i s = if f then loadF n o s else loadS n ext o s := by
  unfold loadForm at h
  split at h <;> cases h <;> rfl

/-- A store of any mnemonic reads its operands by `m`, then stores `n` bytes. -/
theorem exec_of_storeForm {i : Instr} {m : Sem (Word × Word)} {n : Nat} (h : storeForm i = some (m, n)) :
    exec i s = plain (do let x ← m; storeN x.2 n x.1.toNat) s := by
  unfold storeForm at h
  split at h <;> cases h <;> rfl

theorem loadN_check_error {ea : Word} {n : Nat} {e : Stop} (h : check (.load n) ea s = .error e s1) :
    loadN ea n s = .error e s1 := bind_error h

theorem storeN_check_error {ea : Word} {n v : Nat} {e : Stop} (h : check (.store n) ea s = .error e s1) :
    storeN ea n v s = .error e s1 := bind_error h

/-- A load whose check fails raises that fault and does nothing else. -/
theorem exec_load_check_trap {i : Instr} {o : Mem} {n : Nat} {ext : Nat → Word} {f : Bool} {ea : Word} {flt : Flt}
    (hform : loadForm i = some (o, n, ext, f)) (hfit : s.fits false) (htest : f = true → s.myCore.test = false)
    (hea : o.loadEa s = .ok ea s1) (hcheck : check (.load n) ea s1 = .error (.trap flt) s2) :
    exec i s = .next (s.raise s.cur flt) := by
  have hload := loadN_check_error hcheck
  rw [exec_of_loadForm hform]
  cases f with
  | false => exact plain_raise hfit ((bind_ok hea).trans (bind_error hload))
  | true => exact plain_raise hfit ((bind_ok (noTest_ok (htest rfl))).trans ((bind_ok hea).trans (bind_error hload)))

/-- A store whose check fails raises that fault and does nothing else. -/
theorem exec_store_check_trap {i : Instr} {m : Sem (Word × Word)} {n : Nat} {v ea : Word} {flt : Flt}
    (hform : storeForm i = some (m, n)) (hfit : s.fits false) (hm : m s = .ok (v, ea) s1)
    (hcheck : check (.store n) ea s1 = .error (.trap flt) s2) : exec i s = .next (s.raise s.cur flt) := by
  rw [exec_of_storeForm hform]
  exact plain_raise hfit ((bind_ok hm).trans (storeN_check_error hcheck))

/-! ### The checks of R103 -/

theorem check_misaligned {k : AccKind} {ea : Word} (hk : k.aligned = true) (h : ea.toNat % k.bytes ≠ 0) :
    check k ea s = .error (.trap ⟨cMISALIGN, ea⟩) s := by
  unfold check
  rw [if_pos (by simp [hk, h])]
  rfl

theorem placeOf_bad {k : AccKind} {ea : Word} (h : regionOf ea = .bad) :
    placeOf k ea s = .error (.trap ⟨cPROT, ea⟩) s := by
  rw [placeOf, get_bind, h]
  rfl

/-- An aligned access stops at a place that stops. -/
theorem check_placeOf_error {k : AccKind} {ea : Word} {e : Stop} (ha : ea.toNat % k.bytes = 0)
    (hp : placeOf k ea s = .error e s1) : check k ea s = .error e s1 := by
  unfold check
  rw [if_neg (by simp [ha])]
  exact bind_error hp

theorem check_bad {k : AccKind} {ea : Word} (ha : ea.toNat % k.bytes = 0) (h : regionOf ea = .bad) :
    check k ea s = .error (.trap ⟨cPROT, ea⟩) s := check_placeOf_error ha (placeOf_bad h)

/-- The checks behind the place are those of stores and of full-empty instructions: an aligned load falls at its place. -/
theorem check_load_of_placeOf {ea : Word} {n : Nat} {p : Place} (ha : ea.toNat % n = 0)
    (hp : placeOf (.load n) ea s = .ok p s1) : check (.load n) ea s = .ok p s1 := by
  unfold check
  rw [if_neg (by simp [AccKind.load, ha])]
  refine (bind_ok hp).trans ?_
  cases p <;> rfl

theorem placeOf_tcm {ea : Word} {n off : Nat} (h : regionOf ea = .tcm off) (ht : s.myCore.test = false)
    (hmax : off < s.myCore.tcmMax * 0x10000) : placeOf (.load n) ea s = .ok (.tcm off) s := by
  rw [placeOf, get_bind, h]
  simp [AccKind.load, ht, Nat.not_le.2 hmax]

theorem placeOf_own {ea : Word} {n off : Nat} (h : regionOf ea = .own off)
    (hb : s.myCore.bankdir.toNat.testBit 31 = false) : placeOf (.load n) ea s = .ok (.spad s.kid off) s := by
  rw [placeOf, get_bind, h]
  simp [hb]

/-! ### What a load reads (R104) -/

theorem unitFree_of_not_moving {off : Nat} (h : s.myCore.moving = none) : unitFree off s = .ok () s := by
  simp [unitFree, get_bind, Core.unitMoving, h]

theorem refusePoison_none : refusePoison none s = .ok () s := rfl

theorem meshAccess_own {off n : Nat} : meshAccess s.kid off n s = .ok 0 s := by
  rw [meshAccess, get_bind, if_pos rfl]
  rfl

/-- A load from the resident units of the TCM reads the bytes there. -/
theorem loadPlace_tcm {ea : Word} {n off : Nat} (hunits : off < s.myCore.tcmUnits * 0x10000)
    (hmove : s.myCore.moving = none) (hpoison : s.tcmPoison s.cid off n = none) :
    loadPlace (.tcm off) ea n s = .ok (readB s.myCore.tcm off n) s := by
  rw [loadPlace, get_bind]
  dsimp only
  rw [bind_ok (unitFree_of_not_moving hmove), if_neg (by simp [Nat.not_le.2 hunits])]
  rw [get_bind, hpoison, bind_ok refusePoison_none]
  rfl

/-- A load from the own scratchpad reads the bytes there. -/
theorem loadPlace_own {ea : Word} {n off : Nat} (hpoison : s.spadPoison s.kid off n = none) :
    loadPlace (.spad s.kid off) ea n s = .ok (s.myCluster.read off n) s := by
  rw [loadPlace, get_bind]
  dsimp only
  rw [bind_ok meshAccess_own, get_bind, hpoison, bind_ok refusePoison_none, if_pos rfl]
  rfl

/-- An aligned load reads what stands at the place of its address. -/
theorem loadN_of_place {ea : Word} {n v : Nat} {p : Place} (ha : ea.toNat % n = 0)
    (hp : placeOf (.load n) ea s = .ok p s1) (hv : loadPlace p ea n s1 = .ok v s2) : loadN ea n s = .ok v s2 :=
  (bind_ok (check_load_of_placeOf ha hp)).trans hv

/-- Settles O53: a failed check traps before anything else of R102 and R104, so the fault is raised in the old state; a
load that passes the checks reads at the place they give. -/
theorem accessChecks : Obligations.AccessChecks := by
  unfold Obligations.AccessChecks
  refine ⟨fun s s1 i o n ext f ea hform hfit htest hea => ⟨fun hmis => ?_, fun hal hbad => ?_⟩,
    fun s s1 i m n v ea hform hfit hm => ⟨fun hmis => ?_, fun hal hbad => ?_⟩,
    fun s ea n off _ hal => ⟨fun htcm hmax hunits htest hmove hpoison => ?_, fun hown hbank hpoison => ?_⟩⟩
  · exact exec_load_check_trap hform hfit htest hea (check_misaligned rfl hmis)
  · exact exec_load_check_trap hform hfit htest hea (check_bad hal hbad)
  · exact exec_store_check_trap hform hfit hm (check_misaligned rfl hmis)
  · exact exec_store_check_trap hform hfit hm (check_bad hal hbad)
  · exact loadN_of_place hal (placeOf_tcm htcm htest hmax) (loadPlace_tcm hunits hmove hpoison)
  · exact loadN_of_place hal (placeOf_own hown hbank) (loadPlace_own hpoison)

end Sys2Proof.Machine
end

section
/-! Pinning, line operations and prefetches at the place of their address (R75, R108 to R110). -/

namespace Sys2Proof.Machine

variable {s s1 s2 s3 s4 : State}

/-! ### What these instructions have in common -/

theorem unitFree_of_still {off : Nat} (h : s.myCore.unitMoving off = false) : unitFree off s = .ok () s := by
  simp [unitFree, get_bind, h]

/-- A place off the TCM unit that moves does not wait (R72). -/
theorem placeFree_of_still {p : Place} (h : ∀ off, p = .tcm off → s.myCore.unitMoving off = false) :
    placeFree p s = .ok () s := by
  cases p with
  | tcm off => exact unitFree_of_still (h off rfl)
  | _ => rfl

/-! ### PIN and UNPIN -/

theorem exec_pin_uncached {o : Mem} {ea : Word} {p : Place} (hfit : s.fits false) (hea : o.loadEa s = .ok ea s1)
    (hp : linePlace ea s1 = .ok p s2) (hl : s2.lineOf p = none) (hw : writeS o.d 4 s2 = .ok () s3) :
    exec (.pin o) s = .next s3.done := by
  refine plain_ok hfit ((bind_ok hea).trans ((bind_ok hp).trans ?_))
  rw [get_bind, hl]
  exact hw

theorem exec_unpin_uncached {o : Mem} {ea : Word} {p : Place} (hfit : s.fits false) (hea : o.loadEa s = .ok ea s1)
    (hp : linePlace ea s1 = .ok p s2) (hl : s2.lineOf p = none) (hw : writeS o.d 4 s2 = .ok () s3) :
    exec (.unpin o) s = .next s3.done := by
  refine plain_ok hfit ((bind_ok hea).trans ((bind_ok hp).trans ?_))
  rw [get_bind, hl]
  exact hw

/-- The code that PIN answers for a line in the L1 (R75). -/
def State.pinCode (s : State) (line : Nat) (tcm : Bool) : Nat :=
  if s.myCore.isPinned line tcm then 1
  else if 16 - s.myCore.tcmUnits ≤ s.myCore.pinnedIn line + 1 then 2
  else if smGet 0 s.myCore.quota s.th.part ≤ smGet 0 s.myCore.used s.th.part then 3 else 0

/-- The line is pinned and counted for the thread's partition. -/
def State.pinned (s : State) (line : Nat) (tcm : Bool) : State :=
  s.modMyCore (fun c => { c.setPin line tcm true with
    used := smSet 0 c.used s.th.part (smGet 0 c.used s.th.part + 1) })

/-- PIN of a line that is there, or has come, pins it where its code is 0. -/
theorem exec_pin_line {o : Mem} {ea : Word} {p : Place} {line : Nat} {tcm : Bool} (hfit : s.fits false)
    (hea : o.loadEa s = .ok ea s1) (hp : linePlace ea s1 = .ok p s2) (hl : s2.lineOf p = some (line, tcm))
    (hfault : s2.th.lineFault = none) (hfresh : tcm = false → s2.isStale (line * 64) = false)
    (hstill : ∀ off, p = .tcm off → s2.myCore.unitMoving off = false) (hneed : l1Need line tcm false s2 = .ok () s3)
    (hw : writeS o.d (BitVec.ofNat 64 (s3.pinCode line tcm))
      (if s3.pinCode line tcm = 0 then s3.pinned line tcm else s3) = .ok () s4) :
    exec (.pin o) s = .next s4.done := by
  have hstale : ¬(s2.isStale (line * 64) && !tcm) = true := by
    cases tcm with
    | true => simp
    | false => simp [hfresh rfl]
  refine plain_ok hfit ((bind_ok hea).trans ((bind_ok hp).trans ?_))
  rw [get_bind, hl]
  dsimp only
  rw [hfault]
  dsimp only
  rw [if_neg hstale, bind_ok (placeFree_of_still hstill), bind_ok hneed, get_bind]
  by_cases hpin : s3.myCore.isPinned line tcm = true
  · have hcode : s3.pinCode line tcm = 1 := if_pos hpin
    rw [hcode] at hw
    rwa [if_pos hpin]
  by_cases hset : 16 - s3.myCore.tcmUnits ≤ s3.myCore.pinnedIn line + 1
  · have hcode : s3.pinCode line tcm = 2 := (if_neg hpin).trans (if_pos hset)
    rw [hcode] at hw
    rwa [if_neg hpin, if_pos hset]
  by_cases hquota : smGet 0 s3.myCore.quota s3.th.part ≤ smGet 0 s3.myCore.used s3.th.part
  · have hcode : s3.pinCode line tcm = 3 := (if_neg hpin).trans ((if_neg hset).trans (if_pos hquota))
    rw [hcode] at hw
    rwa [if_neg hpin, if_neg hset, if_pos hquota]
  have hcode : s3.pinCode line tcm = 0 := (if_neg hpin).trans ((if_neg hset).trans (if_neg hquota))
  rw [hcode, if_pos rfl] at hw
  rw [if_neg hpin, if_neg hset, if_neg hquota]
  exact hw

/-- UNPIN of a pinned line releases it, of another answers 1. -/
theorem exec_unpin_line {o : Mem} {ea : Word} {p : Place} {line : Nat} {tcm : Bool} (hfit : s.fits false)
    (hea : o.loadEa s = .ok ea s1) (hp : linePlace ea s1 = .ok p s2) (hl : s2.lineOf p = some (line, tcm))
    (hstill : ∀ off, p = .tcm off → s2.myCore.unitMoving off = false)
    (hw : (if s2.myCore.isPinned line tcm then
        writeS o.d 0 (s2.modMyCore (fun c => { c.setPin line tcm false with
          used := smSet 0 c.used s2.th.part (smGet 0 c.used s2.th.part - 1) }))
      else writeS o.d 1 s2) = .ok () s3) : exec (.unpin o) s = .next s3.done := by
  refine plain_ok hfit ((bind_ok hea).trans ((bind_ok hp).trans ?_))
  rw [get_bind, hl]
  dsimp only
  rw [bind_ok (placeFree_of_still hstill), get_bind, ite_sem]
  exact hw

/-! ### CLEAN, INVAL and FLUSH -/

theorem lineInstr_uncached {op : Nat} {o : Line} {ea : Word} {p : Place} (hfit : s.fits false)
    (hea : o.ea s = .ok ea s1) (hp : linePlace ea s1 = .ok p s2) (hl : s2.lineOf p = none) :
    lineInstr op o s = .next s2.done := by
  refine plain_ok hfit ((bind_ok hea).trans ((bind_ok hp).trans ?_))
  rw [get_bind, hl]
  rfl

/-- A line that the operation need not write back: it completes at once (R109). -/
theorem lineInstr_line {op : Nat} {o : Line} {ea : Word} {p : Place} {line : Nat} {tcm : Bool} (hfit : s.fits false)
    (hea : o.ea s = .ok ea s1) (hp : linePlace ea s1 = .ok p s2) (hl : s2.lineOf p = some (line, tcm))
    (hstill : ∀ off, p = .tcm off → s2.myCore.unitMoving off = false) (hdone : s2.th.opDone = false)
    (hclean : op = 1 ∨ s2.myCore.l1.any (fun x => x.line == line && x.tcm == tcm && x.dirty) = false) :
    lineInstr op o s = .next (s2.l1Op s2.cid op line tcm).done := by
  refine plain_ok hfit ((bind_ok hea).trans ((bind_ok hp).trans ?_))
  rw [get_bind, hl]
  dsimp only
  rw [bind_ok (placeFree_of_still hstill), get_bind]
  have hwait : ¬(s2.myCore.l1.any (fun x => x.line == line && x.tcm == tcm && x.dirty) && op != 1) = true := by
    rcases hclean with rfl | h
    · simp
    · simp [h]
  rw [hdone, if_neg (by decide), if_neg hwait]
  rfl

/-! ### PREF -/

/-- PREF sets going what it can, or drops an address that would fault (R110). -/
theorem exec_pref {o : Line} {ea : Word} {hint : BitVec 1} (hfit : s.fits false) (hea : o.ea s = .ok ea s1)
    (h : prefetch hint ea s1 = .ok () s2 ∨ (∃ e s', prefetch hint ea s1 = .error e s') ∧ s2 = s1) :
    exec (.pref hint o) s = .next s2.done := by
  refine plain_ok hfit ((bind_ok hea).trans ?_)
  rw [get_bind]
  rcases h with h | ⟨⟨e, s', h⟩, rfl⟩
  · rw [h]; rfl
  · rw [h]; rfl

/-- Settles O8: PIN, UNPIN, CLEAN, INVAL and FLUSH by whether an L1 holds the line of their place, and PREF by whether
its address faults. -/
theorem lineResult : Obligations.LineResult := by
  unfold Obligations.LineResult
  refine ⟨fun s s1 s2 s3 o ea p hfit hea hp hl hw =>
      ⟨exec_pin_uncached hfit hea hp hl hw, exec_unpin_uncached hfit hea hp hl hw⟩,
    fun s s1 s2 s3 s4 o ea p line tcm code hfit hea hp hl hfault hfresh hstill hneed hcode hw => ?_,
    fun s s1 s2 s3 o ea p line tcm hfit hea hp hl hstill hw => exec_unpin_line hfit hea hp hl hstill hw,
    fun s s1 s2 o ea p hfit hea hp hl => ⟨lineInstr_uncached hfit hea hp hl, lineInstr_uncached hfit hea hp hl,
      lineInstr_uncached hfit hea hp hl⟩,
    fun s s1 s2 o ea p line tcm hfit hea hp hl hstill hdone =>
      ⟨lineInstr_line hfit hea hp hl hstill hdone (.inl rfl), fun hclean =>
        ⟨lineInstr_line hfit hea hp hl hstill hdone (.inr hclean),
          lineInstr_line hfit hea hp hl hstill hdone (.inr hclean)⟩⟩,
    fun s s1 s2 o ea hint hfit hea h => exec_pref hfit hea h⟩
  subst hcode
  exact exec_pin_line hfit hea hp hl hfault hfresh hstill hneed hw

end Sys2Proof.Machine
end

section
/-! The cluster's vector unit: how its heads start, starve and complete (R67, R226, R227, R241, R316). -/

namespace Sys2Proof.Machine

variable {s u : State}

/-! ### What a posted step leaves on the agenda -/

theorem State.mem_insert_iff (i : Instr) (e : Ev) (due : Nat) (l : List (Nat × Instr × Ev)) (x : Nat × Instr × Ev) :
    x ∈ State.post.insert i e due l ↔ x = (due, i, e) ∨ x ∈ l := by
  induction l with
  | nil => simp [State.post.insert]
  | cons y ys ih =>
    unfold State.post.insert
    split
    · rw [List.mem_cons, ih, List.mem_cons]
      exact or_left_comm
    · exact List.mem_cons

/-- The step posted and those that stood there before. -/
theorem State.mem_post_agenda (s : State) (d : Nat) (i : Instr) (e : Ev) (x : Nat × Instr × Ev) :
    x ∈ (s.post d i e).agenda ↔ x = (s.clk + d, i, e) ∨ x ∈ s.agenda := State.mem_insert_iff i e _ _ x

/-! ### The entries that a head pops (R67) -/

/-- The entries of port `p` among the first `k` scalar sources. -/
def popsOf (xs : List (Nat × Word)) (p k : Nat) : Nat := ((xs.take k).filter (fun x => x.1 == p)).length

@[simp] theorem popsOf_zero (xs : List (Nat × Word)) (p : Nat) : popsOf xs p 0 = 0 := rfl

theorem popsOf_cons (x : Nat × Word) (xs : List (Nat × Word)) (p k : Nat) :
    popsOf (x :: xs) p (k + 1) = (if x.1 = p then 1 else 0) + popsOf xs p k := by
  unfold popsOf
  rw [List.take_succ_cons, List.filter_cons]
  by_cases h : x.1 = p
  · simp [h, Nat.add_comm]
  · simp [h]

/-- The thread without the q0 and q1 entries that the scalar sources name. -/
def Thread.popped (t : Thread) (xs : List (Nat × Word)) : Thread :=
  { t with q0 := t.q0.drop (popsOf xs 56 xs.length), q1 := t.q1.drop (popsOf xs 57 xs.length) }

/-- The value of a source of port `p` that finds `q0` and `q1`. -/
def headOf (q0 q1 : List Word) (p : Nat) (v : Word) : Word :=
  if p = 56 then q0.headD 0 else if p = 57 then q1.headD 0 else v

theorem Thread.vuTake_cons (t : Thread) (x : Nat × Word) (xs : List (Nat × Word)) :
    t.vuTake (x :: xs) = (((t.popped [x]).vuTake xs).1,
      (x.1, headOf t.q0 t.q1 x.1 x.2) :: ((t.popped [x]).vuTake xs).2) := by
  obtain ⟨p, v⟩ := x
  simp only [Thread.vuTake]
  by_cases h0 : p = 56
  · subst h0
    simp [Thread.popped, popsOf, headOf]
  by_cases h1 : p = 57
  · subst h1
    simp [Thread.popped, popsOf, headOf]
  simp [Thread.popped, popsOf, headOf, h0, h1]

theorem Thread.popped_popped (t : Thread) (x : Nat × Word) (xs : List (Nat × Word)) :
    (t.popped [x]).popped xs = t.popped (x :: xs) := by
  simp only [Thread.popped, List.drop_drop, List.length_cons, List.length_nil, popsOf_cons, popsOf_zero, Nat.add_zero]

/-- Taking the scalar sources pops the named entries and changes nothing else of the thread. -/
theorem Thread.vuTake_fst (t : Thread) (xs : List (Nat × Word)) : (t.vuTake xs).1 = t.popped xs := by
  induction xs generalizing t with
  | nil => rfl
  | cons x xs ih => rw [Thread.vuTake_cons, ih, Thread.popped_popped]

theorem Thread.vuTake_length (t : Thread) (xs : List (Nat × Word)) : (t.vuTake xs).2.length = xs.length := by
  induction xs generalizing t with
  | nil => rfl
  | cons x xs ih => rw [Thread.vuTake_cons, List.length_cons, ih, List.length_cons]

/-- Source `k` takes the entry behind those that the sources before it pop. -/
theorem Thread.vuTake_get (t : Thread) (xs : List (Nat × Word)) (k : Nat) (x : Nat × Word) (h : xs[k]? = some x) :
    (t.vuTake xs).2[k]? = some (x.1, headOf (t.q0.drop (popsOf xs 56 k)) (t.q1.drop (popsOf xs 57 k)) x.1 x.2) := by
  induction xs generalizing t k with
  | nil => simp at h
  | cons y ys ih =>
    rw [Thread.vuTake_cons]
    cases k with
    | zero =>
      obtain rfl : y = x := by simpa using h
      rfl
    | succ k =>
      rw [List.getElem?_cons_succ, ih (t.popped [y]) k h]
      simp [Thread.popped, popsOf_cons]

theorem headOf_drop (q0 q1 : List Word) (m n p : Nat) (v : Word) : headOf (q0.drop m) (q1.drop n) p v =
    if p = 56 then q0.getD m 0 else if p = 57 then q1.getD n 0 else v := by
  simp [headOf, List.headD_eq_head?_getD, List.head?_drop]

/-! ### The start of a head (R226, R241) -/

/-- The head of `tid` runs as `c`: it occupies a lane group until it completes. -/
def State.vuRun (s : State) (tid : Nat) (t : Thread) (c : VuCmd) (rest : List VuCmd) : State :=
  ((s.work ({ s with cur := tid }.vecCount c) Config.sliceWeight).setThread tid
    { t with vuq := c :: rest, vuWait := none }).post ({ s with cur := tid }.vecTime c)
      .vuInstructionComplete { tid := tid, since := s.clk }

/-- A head that starts takes its entries; then it is discarded, its thread having a pending vector fault, or it runs. -/
theorem State.vuStart_head {tid : Nat} {c : VuCmd} {rest : List VuCmd} (h : (s.thread tid).vuq = c :: rest) :
    s.vuStart tid =
      if (s.thread tid).pendVec.isSome then s.setThread tid ((s.thread tid).popped c.scalars).vuPop
      else s.vuRun tid ((s.thread tid).popped c.scalars)
        { c with scalars := ((s.thread tid).vuTake c.scalars).2, running := true, started := s.clk } rest := by
  unfold State.vuStart
  dsimp only
  rw [h]
  dsimp only
  rw [Thread.vuTake_fst]
  rfl

@[simp] theorem State.vuStart_clk (s : State) (tid : Nat) : (s.vuStart tid).clk = s.clk := by
  cases h : (s.thread tid).vuq with
  | nil => unfold State.vuStart; dsimp only; rw [h]
  | cons c rest =>
    rw [State.vuStart_head h]
    split <;> rfl

/-! ### Filling the lane groups (R187, R226) -/

theorem wrr_eq_none {n ptr : Nat} {ready : Nat → Bool} {weight : Nat → Nat} {credit : SMap Nat}
    (h : ∀ j < n, ready j = false) : wrr n ptr ready weight credit = none := by
  have hnone : (List.range n).filter ready = [] := by simpa using h
  unfold wrr
  rw [hnone]
  rfl

/-- No group is free, or no head may start. -/
theorem State.vuFill_idle {cl n : Nat} (h : 8 ≤ s.groupsBusy cl ∨ ∀ j < 32, s.vuReady (32 * cl + j) = false) :
    s.vuFill cl n = s := by
  cases n with
  | zero => rfl
  | succ n =>
    unfold State.vuFill
    by_cases hbusy : 8 ≤ s.groupsBusy cl
    · rw [if_pos hbusy]
    · rw [if_neg hbusy]
      dsimp only
      rw [wrr_eq_none (h.resolve_left hbusy)]

/-- A free group takes the head that the weighted round robin chooses. -/
theorem State.vuFill_start {cl n j ptr : Nat} {credit : SMap Nat} (hfree : s.groupsBusy cl < 8)
    (hwrr : wrr 32 (s.cluster cl).vuPtr (fun j => s.vuReady (32 * cl + j)) (fun j => s.vuWeight (32 * cl + j))
      (s.cluster cl).vuCredit = some (j, credit, ptr)) :
    s.vuFill cl (n + 1) = ((s.setCluster cl { s.cluster cl with vuCredit := credit, vuPtr := ptr }).vuStart
      (32 * cl + j)).vuFill cl n := by
  rw [State.vuFill, if_neg (Nat.not_le.2 hfree)]
  dsimp only
  rw [hwrr]

@[simp] theorem State.vuFill_clk (s : State) (cl n : Nat) : (s.vuFill cl n).clk = s.clk := by
  induction n generalizing s with
  | zero => rfl
  | succ n ih =>
    unfold State.vuFill
    split
    · rfl
    · dsimp only
      split
      · rfl
      · rw [ih, State.vuStart_clk, State.setCluster_clk]

/-! ### Heads that lack an entry (R67) -/

/-- The time limit of a head that lacks an entry begins, unless it runs already. -/
def State.starve (s : State) (tid : Nat) : State :=
  match s.vuStarved tid, (s.thread tid).vuWait with
  | some _, none => (s.modThread tid (fun t => { t with vuWait := some s.clk })).post (2 ^ 24)
      .vuPopStallTimeout { tid := tid, since := s.clk }
  | _, _ => s

/-- The first `n` slots of a cluster. -/
def State.starveTo (s : State) (cl n : Nat) : State :=
  (List.range n).foldl (fun (s : State) j => s.starve (32 * cl + j)) s

theorem exec_vuInstructionStart (s : State) :
    exec .vuInstructionStart s = .next ((s.vuFill s.ev.cl 32).starveTo s.ev.cl 32) := rfl

theorem State.starveTo_succ (s : State) (cl n : Nat) :
    s.starveTo cl (n + 1) = (s.starveTo cl n).starve (32 * cl + n) := by
  simp [State.starveTo, List.range_succ]

/-- A head begins to starve. -/
def State.starves (s : State) (tid : Nat) : Prop := (s.vuStarved tid).isSome = true ∧ (s.thread tid).vuWait = none

theorem State.starve_of_starves {tid : Nat} (h : s.starves tid) :
    s.starve tid = (s.modThread tid (fun t => { t with vuWait := some s.clk })).post (2 ^ 24)
      .vuPopStallTimeout { tid := tid, since := s.clk } := by
  obtain ⟨hport, hwait⟩ := h
  obtain ⟨p, hp⟩ := Option.isSome_iff_exists.1 hport
  unfold State.starve
  rw [hp, hwait]

theorem State.starve_of_not {tid : Nat} (h : ¬s.starves tid) : s.starve tid = s := by
  unfold State.starve
  split
  · rename_i p hp hwait
    exact absurd ⟨by rw [hp]; rfl, hwait⟩ h
  · rfl

/-- Only the thread itself matters to whether its head starves. -/
theorem State.starves_congr {tid : Nat} (h : u.thread tid = s.thread tid) : u.starves tid ↔ s.starves tid := by
  unfold State.starves State.vuStarved
  rw [h]

/-- What `starve` leaves alone: everything but its own thread and the agenda, which keeps its steps. -/
structure State.StarveFrame (s u : State) (tids : Nat → Prop) : Prop where
  clk : u.clk = s.clk
  mem : u.mem = s.mem
  cores : u.cores = s.cores
  clusters : u.clusters = s.clusters
  threads : ∀ k, ¬tids k → u.thread k = s.thread k
  agenda : ∀ x ∈ s.agenda, x ∈ u.agenda

theorem State.starve_frame (s : State) (tid : Nat) : s.StarveFrame (s.starve tid) (· = tid) := by
  by_cases h : s.starves tid
  · rw [State.starve_of_starves h]
    exact ⟨rfl, rfl, rfl, rfl,
      fun k hk => (State.thread_post _ _ _ _ _).trans (State.thread_modThread_other _ _ _ _ hk),
      fun x hx => (State.mem_post_agenda _ _ _ _ x).2 (.inr hx)⟩
  · rw [State.starve_of_not h]
    exact ⟨rfl, rfl, rfl, rfl, fun _ _ => rfl, fun _ hx => hx⟩

theorem State.starveTo_frame (s : State) (cl n : Nat) :
    s.StarveFrame (s.starveTo cl n) (fun k => ∃ j < n, k = 32 * cl + j) := by
  induction n with
  | zero => exact ⟨rfl, rfl, rfl, rfl, fun _ _ => rfl, fun _ hx => hx⟩
  | succ n ih =>
    have hlast := (s.starveTo cl n).starve_frame (32 * cl + n)
    rw [State.starveTo_succ]
    refine ⟨hlast.clk.trans ih.clk, hlast.mem.trans ih.mem, hlast.cores.trans ih.cores,
      hlast.clusters.trans ih.clusters, fun k hk => ?_, fun x hx => hlast.agenda x (ih.agenda x hx)⟩
    rw [hlast.threads k (fun e => hk ⟨n, Nat.lt_succ_self n, e⟩)]
    exact ih.threads k (fun ⟨j, hj, e⟩ => hk ⟨j, Nat.lt_succ_of_lt hj, e⟩)

/-- A head that begins to starve has its time limit of 2^24 clk. -/
theorem State.starveTo_starves {cl n j : Nat} (hj : j < n) (h : s.starves (32 * cl + j)) :
    (s.starveTo cl n).thread (32 * cl + j) = { s.thread (32 * cl + j) with vuWait := some s.clk } ∧
    (s.clk + 2 ^ 24, Instr.vuPopStallTimeout, ({ tid := 32 * cl + j, since := s.clk } : Ev)) ∈
      (s.starveTo cl n).agenda := by
  induction n with
  | zero => exact absurd hj (Nat.not_lt_zero j)
  | succ n ih =>
    have hframe := s.starveTo_frame cl n
    have hlast := (s.starveTo cl n).starve_frame (32 * cl + n)
    rw [State.starveTo_succ]
    by_cases hjn : j < n
    · obtain ⟨hthread, hagenda⟩ := ih hjn
      exact ⟨(hlast.threads _ (by omega)).trans hthread, hlast.agenda _ hagenda⟩
    obtain rfl : j = n := by omega
    have hsame : (s.starveTo cl j).thread (32 * cl + j) = s.thread (32 * cl + j) :=
      hframe.threads _ (fun ⟨i, hi, e⟩ => by omega)
    rw [State.starve_of_starves ((State.starves_congr hsame).2 h), hframe.clk]
    refine ⟨?_, (State.mem_post_agenda _ _ _ _ _).2 (.inl ?_)⟩
    · rw [State.thread_post, State.thread_modThread_self, hsame]
    · rw [State.modThread_clk, hframe.clk]

/-- A head that does not begin to starve leaves its thread as it was. -/
theorem State.starveTo_thread_of_not {cl n j : Nat} (h : ¬s.starves (32 * cl + j)) :
    (s.starveTo cl n).thread (32 * cl + j) = s.thread (32 * cl + j) := by
  induction n with
  | zero => rfl
  | succ n ih =>
    rw [State.starveTo_succ]
    by_cases hjn : j = n
    · subst hjn
      rw [State.starve_of_not (fun hs => h ((State.starves_congr ih).1 hs)), ih]
    · rw [((s.starveTo cl n).starve_frame _).threads _ (by omega), ih]

/-! ### Completion and time limit (R226, R227, R241) -/

/-- The state in which the running head has its effect: its thread runs at the level of its issue, its flags apart. -/
def State.vuTurn (s : State) (tid : Nat) (c : VuCmd) : State :=
  { s with cur := tid }.modThread tid (fun t => { t with level := c.level, fctl := t.fctl &&& 0xE0 })

section Completion
variable {c : VuCmd} {rest : List VuCmd} (hq : (s.thread s.ev.tid).vuq = c :: rest) (hrun : c.running = true)
  (hstart : c.started = s.ev.since)
include hq hrun hstart

theorem exec_vuInstructionComplete_ok {s1 : State} (h : vecBody c (s.vuTurn s.ev.tid c) = .ok () s1) :
    exec .vuInstructionComplete s = .next ((s1.modThread s.ev.tid (fun t => { t with
      level := (s.thread s.ev.tid).level,
      fctl := (s.thread s.ev.tid).fctl ||| ((s1.thread s.ev.tid).fctl &&& 0x1F) }.vuPop)).keepVec s.ev.tid c
        ((s1.thread s.ev.tid).fctl &&& 0x1F)) := by
  show execVuInstructionComplete s = _
  unfold State.vuTurn at h
  unfold execVuInstructionComplete event
  dsimp only
  rw [hq]
  dsimp only
  rw [if_neg (by simp [hrun, hstart]), h]

theorem exec_vuInstructionComplete_trap {s1 : State} {f : Flt}
    (h : vecBody c (s.vuTurn s.ev.tid c) = .error (.trap f) s1) :
    exec .vuInstructionComplete s =
      .next ((s.modThread s.ev.tid (fun t => (t.vecFault f c.pc).vuPop)).keepVec s.ev.tid c 0) := by
  show execVuInstructionComplete s = _
  unfold State.vuTurn at h
  unfold execVuInstructionComplete event
  dsimp only
  rw [hq]
  dsimp only
  rw [if_neg (by simp [hrun, hstart]), h]

end Completion

theorem exec_vuPopStallTimeout {c : VuCmd} {rest : List VuCmd} {p : Nat} (hq : (s.thread s.ev.tid).vuq = c :: rest)
    (hport : s.vuStarved s.ev.tid = some p) (hwait : (s.thread s.ev.tid).vuWait = some s.ev.since) :
    exec .vuPopStallTimeout s = .next (s.setThread s.ev.tid
      ((s.thread s.ev.tid).vecFault ⟨cQSTALL, BitVec.ofNat 64 p⟩ c.pc).vuPop) := by
  show execVuPopStallTimeout s = _
  unfold execVuPopStallTimeout event
  dsimp only
  rw [hq, hport]
  dsimp only
  rw [if_pos hwait]

/-! ### Times (R227) -/

/-- Without streams an instruction of the common latency takes 4 clk and one for each slice of VL. -/
theorem State.vecTime_registers {c : VuCmd} {o : VBin} (hins : c.ins = .vadd o ∨ c.ins = .vsub o ∨ c.ins = .vmul o ∨
    c.ins = .vfma o ∨ c.ins = .vsel o) (hstreams : s.th.streamsIn c c.regs = []) :
    s.vecTime c = 4 + (c.vl + (if c.fmt = 1 then 32 else 16) - 1) / (if c.fmt = 1 then 32 else 16) := by
  have hcount : s.vecCount c = (c.vl + (if c.fmt = 1 then 32 else 16) - 1) / (if c.fmt = 1 then 32 else 16) := by
    unfold State.vecCount
    rw [hstreams]
  rw [← hcount]
  unfold State.vecTime
  dsimp only
  rw [hstreams]
  rcases hins with h | h | h | h | h <;> rw [h] <;> exact Nat.zero_add _

/-! ### The VU's steps together -/

/-- VU_INSTRUCTION_START: the lane groups take heads; of the others, those that lack an entry begin to wait. -/
theorem vuInstructionStart_completes (s : State) : Completes .vuInstructionStart s (fun t =>
    let u := s.vuFill s.ev.cl 32
    t.mem = u.mem ∧ t.cores = u.cores ∧ t.clusters = u.clusters ∧ ∀ j < 32,
      let tid := 32 * s.ev.cl + j
      ((u.vuStarved tid).isSome = true → (u.thread tid).vuWait = none →
        t.thread tid = { u.thread tid with vuWait := some s.clk } ∧
        (s.clk + 2 ^ 24, Instr.vuPopStallTimeout, ({ tid := tid, since := s.clk } : Ev)) ∈ t.agenda) ∧
      ((u.vuStarved tid = none ∨ (u.thread tid).vuWait ≠ none) → t.thread tid = u.thread tid)) := by
  have hframe := (s.vuFill s.ev.cl 32).starveTo_frame s.ev.cl 32
  refine ⟨_, exec_vuInstructionStart s, hframe.mem, hframe.cores, hframe.clusters, fun j hj => ⟨fun hport hwait => ?_,
    fun h => State.starveTo_thread_of_not (fun ⟨hport, hwait⟩ => ?_)⟩⟩
  · have h := State.starveTo_starves hj ⟨hport, hwait⟩
    rwa [State.vuFill_clk] at h
  · rcases h with h | h
    · simp [h] at hport
    · exact h hwait

/-- A head that starts: discarded with its pops, or running with the values popped. -/
theorem State.vuStart_cases {tid : Nat} {c : VuCmd} {rest : List VuCmd} (h : (s.thread tid).vuq = c :: rest) :
    ((s.thread tid).pendVec.isSome = true →
      s.vuStart tid = s.setThread tid ((s.thread tid).popped c.scalars).vuPop) ∧
    ((s.thread tid).pendVec = none → ∃ xs : List (Nat × Word), xs.length = c.scalars.length ∧
      (∀ k x, c.scalars[k]? = some x → xs[k]? = some (x.1,
        if x.1 = 56 then (s.thread tid).q0.getD (popsOf c.scalars 56 k) 0
        else if x.1 = 57 then (s.thread tid).q1.getD (popsOf c.scalars 57 k) 0 else x.2)) ∧
      s.vuStart tid = s.vuRun tid ((s.thread tid).popped c.scalars)
        { c with scalars := xs, running := true, started := s.clk } rest) := by
  rw [State.vuStart_head h]
  refine ⟨fun hp => if_pos hp, fun hp => ⟨((s.thread tid).vuTake c.scalars).2, Thread.vuTake_length _ _,
    fun k x hx => ?_, if_neg (by simp [hp])⟩⟩
  rw [Thread.vuTake_get _ _ _ _ hx, headOf_drop]

/-- Settles O26: the start from the round robin, the pops and the time limit of each head; the completion from what the
instruction's effect answers. -/
theorem vuEvents : Obligations.VuEvents := by
  unfold Obligations.VuEvents
  exact ⟨vuInstructionStart_completes, fun s cl n h => State.vuFill_idle h,
    fun s cl n j ptr credit hfree hwrr => State.vuFill_start hfree hwrr,
    fun s tid c rest h => State.vuStart_cases h,
    fun s s1 c rest hq hrun hstart h => exec_vuInstructionComplete_ok hq hrun hstart h,
    fun s s1 c rest f hq hrun hstart h => exec_vuInstructionComplete_trap hq hrun hstart h,
    fun s tid c f => ⟨_, rfl⟩,
    fun s c rest p hq hport hwait => exec_vuPopStallTimeout hq hport hwait,
    fun s c o hins hstreams => State.vecTime_registers hins hstreams⟩

end Sys2Proof.Machine
end

section
/-! What ends a wait (R67, R106, R107, R109, R118, R310), and what a register fill (R63) and a write by firmware (R112)
reach. -/

namespace Sys2Proof.Machine

variable {s s1 : State}

/-! ### Scratchpad accesses over the mesh (R103, R310) -/

/-- Bytes of the scratchpads that lie in one window are bytes of that cluster. -/
theorem State.spadsRead_window (s : State) (cl off n : Nat) (h : off % 0x400000 + n ≤ 0x400000) :
    s.spadsRead cl off n = (s.cluster (cl + off / 0x400000)).read (off % 0x400000) n := by
  induction n generalizing off with
  | zero => rfl
  | succ n ih =>
    cases n with
    | zero => rfl
    | succ n =>
      have hdiv : (off + 1) / 0x400000 = off / 0x400000 := by omega
      have hmod : (off + 1) % 0x400000 = off % 0x400000 + 1 := by omega
      rw [State.spadsRead, ih (off + 1) (by omega), hdiv, hmod]
      rfl

theorem exec_scratchpadAccessArrival_store {x : SpadStore} (h : s.ev.spad = some x) :
    exec .scratchpadAccessArrival s = .next ((s.spadWrite x.cl x.off x.bytes x.val.toNat).modThread x.tid
      (fun t => { t with meshOut := t.meshOut - 1 })) := by
  show execScratchpadAccessArrival s = _
  unfold execScratchpadAccessArrival event
  dsimp only
  rw [h]

theorem exec_scratchpadAccessArrival_load {a b c : Nat} (h : s.ev.spad = none)
    (hw : (s.thread s.ev.tid).wait = some ⟨.mesh a b c, s.ev.since⟩) :
    exec .scratchpadAccessArrival s = .next (s.modThread s.ev.tid (fun t =>
      { t with meshVal := some (s.spadsRead s.ev.cl s.ev.off s.ev.n) })) := by
  show execScratchpadAccessArrival s = _
  unfold execScratchpadAccessArrival event
  dsimp only
  rw [h]
  dsimp only
  rw [hw]
  exact congrArg Host.Outcome.next (if_pos rfl)

/-! ### Lines (R106, R109) -/

@[simp] theorem clearChip_ev (s : State) (cs : List Host.Cell) : (s.clearChip cs).ev = s.ev := by
  unfold State.clearChip; split <;> rfl

@[simp] theorem sliceUse_ev (s : State) (l : Nat) (f : SliceLine → SliceLine) : (s.sliceUse l f).ev = s.ev := by
  unfold State.sliceUse
  split
  · rfl
  · dsimp only
    split
    · rfl
    · split
      · rfl
      · split <;> rfl

@[simp] theorem chipPut_ev (s : State) (cs : List Host.Cell) : (s.chipPut cs).ev = s.ev :=
  (foldl_same (fun t : State => t.ev) _ (fun _ _ => sliceUse_ev _ _ _) _ _).trans (clearChip_ev _ _)

@[simp] theorem poisonAlong_ev (s : State) (c l : Nat) (out : Bool) : (s.poisonAlong c l out).ev = s.ev := by
  unfold State.poisonAlong; split <;> rfl

@[simp] theorem writeBack_ev (s : State) (c l : Nat) : (s.writeBack c l).ev = s.ev :=
  (poisonAlong_ev _ _ _ _).trans (chipPut_ev _ _)

@[simp] theorem fillLine_ev (s : State) (c l : Nat) : (s.fillLine c l).ev = s.ev :=
  (poisonAlong_ev _ _ _ _).trans (sliceUse_ev _ _ _)

@[simp] theorem sliceLoad_ev (s : State) (pa n : Nat) : (s.sliceLoad pa n).ev = s.ev := sliceUse_ev _ _ _

/-- A line that comes into an L1 leaves the step under way as it is. -/
@[simp] theorem l1Install_ev (s : State) (c l : Nat) (tcm dirty : Bool) : (s.l1Install c l tcm dirty).ev = s.ev := by
  unfold State.l1Install
  dsimp only
  split
  · rfl
  · split <;> split <;> simp [apply_ite State.ev]

/-- The line is in the L1: the access that waits for it goes on. -/
theorem exec_l1MissReturn_wakes {tcm : Bool} (hw : ((s.l1Install s.ev.core s.ev.pa s.ev.ok false).thread
    s.ev.tid).wait = some ⟨.miss s.ev.pa tcm, s.ev.since⟩) :
    exec .l1MissReturn s = .next ((s.l1Install s.ev.core s.ev.pa s.ev.ok false).modThread s.ev.tid
      (fun t => { t with opDone := true })) := by
  show execL1MissReturn s = _
  unfold execL1MissReturn event
  dsimp only
  rw [l1Install_ev, hw]
  exact congrArg Host.Outcome.next (if_pos ⟨rfl, rfl⟩)

/-- A set with a way free takes the line and loses none. -/
theorem Core.l1Evict_room (c : Core) (x : L1Line)
    (h : (c.l1.filter (fun y => y.line % 1024 == x.line % 1024)).length < 16 - c.tcmUnits) :
    c.l1Evict x = ({ c with l1 := x :: c.l1 }, none) := if_pos h

theorem exec_cacheLineOperationPerformed_wakes {a b c : Nat} {d : Bool}
    (hw : (s.thread s.ev.tid).wait = some ⟨.lineOp a b c d, s.ev.since⟩) :
    exec .cacheLineOperationPerformed s = .next ((s.lineOpAll s.ev.core s.ev.n s.ev.idx s.ev.pa s.ev.ok).modThread
      s.ev.tid (fun t => { t with opDone := true })) := by
  show execCacheLineOperationPerformed s = _
  unfold execCacheLineOperationPerformed event
  dsimp only
  rw [hw]
  exact congrArg Host.Outcome.next (if_pos rfl)

/-! ### Time limits (R67, R107, R118) -/

theorem State.leaveBank_granule {tid cl g : Nat} {ea : Word} {keep : Bool} {since : Nat}
    (hw : (s.thread tid).wait = some ⟨.granule cl g ea keep, since⟩) :
    s.leaveBank tid = s.modCluster cl (fun k => { k with feWait := k.feWait.filter (fun x => x.2 != tid) }) := by
  unfold State.leaveBank
  rw [hw]

theorem Thread.queued_eq_false {t : Thread} (h : t.q0 = [] ∧ t.q1 = [] ∧ t.q2 = [] ∧ t.q3 = []) : t.queued = false := by
  obtain ⟨h0, h1, h2, h3⟩ := h
  simp [Thread.queued, h0, h1, h2, h3]

/-- A quiet thread has nothing queued and no work under way. -/
theorem State.Quiet.drained {tid : Nat} (h : { s with cur := tid }.Quiet) :
    (s.thread tid).vuq = [] ∧ (s.thread tid).capture.left = 0 ∧ (s.thread tid).queued = false ∧
    (s.speculative (s.thread tid) || decide ((s.thread tid).entries ≠ []) || decide ((s.thread tid).redfOut ≠ 0) ||
      decide ((s.thread tid).vuq ≠ []) || s.mauBusy tid || (s.thread tid).remoteBusy ||
      decide ((s.thread tid).meshOut ≠ 0)) = false := by
  have hvu : (s.thread tid).vuq = [] := h.vu
  have hspec : s.speculative (s.thread tid) = false := h.spec
  have hentries : (s.thread tid).entries = [] := h.entries
  have hredf : (s.thread tid).redfOut = 0 := h.redf
  have hmau : s.mauBusy tid = false := h.mau
  have hremote : (s.thread tid).remoteBusy = false := h.remote
  have hstores : (s.thread tid).meshOut = 0 := h.stores
  exact ⟨hvu, h.capture, Thread.queued_eq_false h.ports,
    by simp [hvu, hspec, hentries, hredf, hmau, hremote, hstores]⟩

/-- A quiet thread has no pending fault. -/
theorem State.Quiet.noPending {tid : Nat} (h : { s with cur := tid }.Quiet) :
    (s.thread tid).pendVec = none ∧ (s.thread tid).pendMau = none ∧ (s.thread tid).pendRemote = none ∧
    (s.thread tid).pendReduce = none := ⟨h.vec, h.mauFault, h.remoteFault, h.reduce⟩

/-- An LDFE with nothing outstanding leaves its bank and suspends. -/
theorem exec_ldfeSuspendTimeout_suspends {cl g : Nat} {ea : Word} {keep : Bool}
    (hw : (s.thread s.ev.tid).wait = some ⟨.granule cl g ea keep, s.ev.since⟩)
    (hdone : (s.thread s.ev.tid).opDone = false) (hlevel : (s.thread s.ev.tid).level ≠ .F)
    (hphase : s.inPhase s.ev.tid = false) (hquiet : { s with cur := s.ev.tid }.Quiet) :
    exec .ldfeSuspendTimeout s = .next
      ((s.modCluster cl (fun k => { k with feWait := k.feWait.filter (fun x => x.2 != s.ev.tid) })).suspendSlot
        s.ev.tid 3 4 (ea &&& ~~~15#64).toNat (s.thread s.ev.tid).level.toNat (s.thread s.ev.tid).pc
        (s.thread s.ev.tid).loopst) := by
  show execLdfeSuspendTimeout s = _
  unfold execLdfeSuspendTimeout event
  dsimp only
  rw [hw]
  dsimp only
  obtain ⟨hvu, hcapture, hqueued, hwork⟩ := hquiet.drained
  obtain ⟨hvec, hmau, hremote, hreduce⟩ := hquiet.noPending
  rw [if_neg (by simp [hdone, hlevel]), hphase, if_neg Bool.false_ne_true, if_neg (by simp [hqueued, hvu]),
    if_neg (not_not_intro hcapture), hwork, if_neg Bool.false_ne_true, hvec, hmau, hremote, hreduce]
  dsimp only
  rw [hqueued, if_neg Bool.false_ne_true, State.leaveBank_granule hw]

/-- Firmware waits on in its slot (log 33). -/
theorem exec_ldfeSuspendTimeout_firmware (h : (s.thread s.ev.tid).level = .F) :
    exec .ldfeSuspendTimeout s = .next s := by
  show execLdfeSuspendTimeout s = _
  unfold execLdfeSuspendTimeout event
  dsimp only
  split
  · rw [h]
    simp
  · rfl

theorem exec_queueStallTimeout_port {r : Nat} (hw : (s.thread s.ev.tid).wait = some ⟨.port r, s.ev.since⟩) :
    exec .queueStallTimeout s = .next (s.raise s.ev.tid ⟨cQSTALL, BitVec.ofNat 64 r⟩) := by
  show execQueueStallTimeout s = _
  unfold execQueueStallTimeout event
  dsimp only
  rw [hw]
  exact congrArg Host.Outcome.next (if_pos rfl)

theorem exec_wfiTimeout_wakes (hw : (s.thread s.ev.tid).wait = some ⟨.wfi, s.ev.since⟩) :
    exec .wfiTimeout s = .next (s.modThread s.ev.tid (fun t => { t with opDone := true })) := by
  have hend : s.endWfi s.ev.tid = s.modThread s.ev.tid (fun t => { t with opDone := true }) := by
    unfold State.endWfi
    rw [hw]
  show execWfiTimeout s = _
  unfold execWfiTimeout event
  dsimp only
  rw [hw, ← hend]
  exact congrArg Host.Outcome.next (if_pos rfl)

/-! ### Register fills (R63) -/

/-- The register filled holds the value and is the most recently used. -/
def State.filled (s : State) (n : Nat) (isF : Bool) (v : Word) : State :=
  (s.modTh (fun t => { (if isF then t.setF n v else t.setS n v) with wait := none, opDone := false })).modMyCore
    (fun c => { c with lru := c.lru.filter (fun x => x != lruCode (s.cur % 4) n isF) ++
      [lruCode (s.cur % 4) n isF] })

/-- A fill for which no value gives way. -/
theorem fillReg_free {n : Nat} {isF : Bool} {keep : List Nat} {v : Word}
    (hload : fillLoad (frameSlot s.th.frame n isF) s = .ok v s1)
    (hnone : s1.victims s1.cid 1 isF (lruCode (s1.cur % 4) n isF :: keep) = []) :
    fillReg n isF keep s = .ok () (s1.filled n isF v) := by
  unfold fillReg
  rw [get_bind, bind_ok hload, get_bind]
  dsimp only
  rw [hnone]
  rfl

theorem State.victimsShort_eq_false {cid : Nat} {isF : Bool} {keep : List Nat} (h : s.entriesUsed cid isF < 128) :
    s.victimsShort cid 1 isF keep = false := by
  unfold State.victimsShort
  rw [decide_eq_false_iff_not]
  omega

theorem exec_registerFill_free {v : Word}
    (hnone : s.victims (s.ev.tid / 4) 1 s.ev.ok (lruCode (s.ev.tid % 4) s.ev.n s.ev.ok :: s.ev.nums) = [])
    (hroom : s.spillWait (s.ev.tid / 4) [] = none) (hused : s.entriesUsed (s.ev.tid / 4) s.ev.ok < 128)
    (hload : fillLoad (frameSlot (s.thread s.ev.tid).frame s.ev.n s.ev.ok)
      { s with cur := s.ev.tid, pc := (s.thread s.ev.tid).pc } = .ok v s1)
    (hnone1 : s1.victims s1.cid 1 s.ev.ok (lruCode (s1.cur % 4) s.ev.n s.ev.ok :: s.ev.nums) = []) :
    exec .registerFill s = .next (s1.filled s.ev.n s.ev.ok v) := by
  show execRegisterFill s = _
  have hfill : fillReg s.ev.n s.ev.ok s.ev.nums { s with cur := s.ev.tid, pc := (s.thread s.ev.tid).pc } =
      .ok () (s1.filled s.ev.n s.ev.ok v) := fillReg_free hload hnone1
  unfold execRegisterFill
  dsimp only
  rw [hnone, hroom]
  dsimp only
  rw [State.victimsShort_eq_false hused, if_neg (by decide)]
  unfold Sem.run
  rw [hfill]

theorem regionOf_tcm {off : Nat} (h : off < 0x200000) : regionOf (BitVec.ofNat 64 off) = .tcm off := by
  have hoff : (BitVec.ofNat 64 off).toNat = off := by
    rw [BitVec.toNat_ofNat]
    omega
  unfold regionOf
  rw [hoff]
  exact if_pos h

theorem framePlace_tcm {p cid off : Nat} {k : Acc} (hwin : off < 0x200000)
    (hmax : off + 8 ≤ (s.core cid).tcmMax * 0x10000) :
    s.framePlace p cid k (BitVec.ofNat 64 off) = .ok (.tcm off) := by
  unfold State.framePlace
  rw [regionOf_tcm hwin]
  exact if_pos hmax

/-- A load of `n` bytes in a resident unit of the TCM that does not move reads the bytes there. -/
theorem loadPlace_unit {ea : Word} {off n : Nat} (hunits : off < s.myCore.tcmUnits * 0x10000)
    (hstill : s.myCore.unitMoving off = false) (hpoison : s.tcmPoison s.cid off n = none) :
    loadPlace (.tcm off) ea n s = .ok (readB s.myCore.tcm off n) s := by
  have hlocal : ¬(decide (off ≥ s.myCore.tcmUnits * 0x10000) && !s.myCore.test) = true := by
    simp [Nat.not_le.2 hunits]
  rw [loadPlace, get_bind]
  dsimp only
  rw [bind_ok (unitFree_of_still hstill), if_neg hlocal, get_bind, hpoison, bind_ok refusePoison_none]
  rfl

/-- A frame slot in a resident unit of the TCM. -/
theorem fillLoad_tcm {off : Nat} (hpoison : s.tcmPoison s.cid off 8 = none) (hstill : s.myCore.unitMoving off = false)
    (hmax : off + 8 ≤ s.myCore.tcmMax * 0x10000) (hunits : off + 8 ≤ s.myCore.tcmUnits * 0x10000)
    (hwin : off < 0x200000) :
    fillLoad (BitVec.ofNat 64 off) s = .ok (s.frameSee s.cur (BitVec.ofNat 64 off)) s := by
  unfold fillLoad
  rw [get_bind, framePlace_tcm hwin hmax]
  dsimp only
  rw [bind_ok (loadPlace_unit (by omega) hstill hpoison), get_bind]
  rfl

/-! ### Writes by firmware (R112) -/

/-- What firmware's write does at its target. -/
def State.writeTarget (s : State) (v : Word) : RegTarget → State
  | .sys tid num => { s with cur := tid }.sysWrite num v
  | .engine tid num => if num < 7 then s.modThread tid (fun t => { t with ce := smSet 0 t.ce num v }) else s
  | .cluster cl off => s.ctlWrite cl off v
  | .partition p off => s.blockWriteF p off v

theorem exec_registerWrite_target {x : RegTarget} (h : s.ev.target = some x) :
    exec .registerWrite s = .next (s.writeTarget s.ev.v x) := by
  show execRegisterWrite s = _
  unfold execRegisterWrite event
  dsimp only
  rw [h]
  cases x <;> rfl

/-- Settles O29: each wait by its own event, the fill by the load of its slot, the write by its target. -/
theorem waitEvents : Obligations.WaitEvents := by
  unfold Obligations.WaitEvents
  refine ⟨fun s x h => exec_scratchpadAccessArrival_store h,
    fun s a b c h hw => exec_scratchpadAccessArrival_load h hw,
    fun s cl off n h => s.spadsRead_window cl off n h,
    fun s tcm hw => exec_l1MissReturn_wakes hw,
    fun c x h => c.l1Evict_room x h,
    fun s a b c d hw => exec_cacheLineOperationPerformed_wakes hw,
    fun s cl g ea keep hw hdone hlevel hphase hquiet =>
      exec_ldfeSuspendTimeout_suspends hw hdone hlevel hphase hquiet,
    fun s h => exec_ldfeSuspendTimeout_firmware h,
    fun s r hw => exec_queueStallTimeout_port hw,
    fun s hw => exec_wfiTimeout_wakes hw,
    fun s s1 v hnone hroom hused hload hnone1 => exec_registerFill_free hnone hroom hused hload hnone1,
    fun s off hpoison hstill hmax hunits hwin => fillLoad_tcm hpoison hstill hmax hunits hwin,
    fun s tid num h => exec_registerWrite_target h,
    fun s cl off h => exec_registerWrite_target h,
    fun s p off h => exec_registerWrite_target h,
    fun s tid num h hnum =>
      ⟨_, (exec_registerWrite_target h).trans (congrArg Host.Outcome.next (if_pos hnum)), ?_, rfl⟩⟩
  rw [State.thread_modThread_self]
  exact smGet_smSet_self _ _ _ _

end Sys2Proof.Machine
end

section
/-! Integer instructions: what each computes from its operands, and where it goes (R79 to R86). -/

namespace Sys2Proof.Machine

variable {s : State}

/-! ### The values of R81 to R84 in arithmetic on integers and naturals -/

theorem boolW_decide (p : Prop) [Decidable p] : boolW (decide p) = if p then 1 else 0 := by
  by_cases h : p <;> simp [boolW, h]

theorem sltW_eq (a b : Word) : sltW a b = if a.toInt < b.toInt then 1 else 0 := boolW_decide _

theorem sltuW_eq (a b : Word) : sltuW a b = if a.toNat < b.toNat then 1 else 0 := boolW_decide _

theorem minW_eq (a b : Word) : minW a b = if a.toInt < b.toInt then a else b := by
  simp [minW, BitVec.slt_iff_toInt_lt]

theorem maxW_eq (a b : Word) : maxW a b = if a.toInt < b.toInt then b else a := by
  simp [maxW, BitVec.slt_iff_toInt_lt]

theorem minuW_eq (a b : Word) : minuW a b = if a.toNat < b.toNat then a else b := by
  simp [minuW, BitVec.ult_iff_toNat_lt]

theorem maxuW_eq (a b : Word) : maxuW a b = if a.toNat < b.toNat then b else a := by
  simp [maxuW, BitVec.ult_iff_toNat_lt]

/-- The low half of a product does not depend on the sign (R81). -/
theorem mul_eq_ofInt (a b : Word) : a * b = BitVec.ofInt 64 (a.toInt * b.toInt) := by
  rw [BitVec.ofInt_mul, BitVec.ofInt_toInt, BitVec.ofInt_toInt]

theorem boolW_beq (a b : Word) : boolW (a == b) = if a = b then 1 else 0 := by
  by_cases h : a = b <;> simp [boolW, h]

/-! ### Integer instructions: the value of the operands goes to the destination (R80, R82) -/

theorem intBin_of_binValue {f g : Word → Word → Word} {o : Bin} {m : Sem Word} {d : Reg}
    (hg : ∀ a b, g a b = f a b) (h : binValue o f = some (m, d)) : intBin g o s = plain (m >>= writeS d) s := by
  obtain rfl : g = f := funext fun a => funext (hg a)
  cases h
  simp only [intBin, bind_assoc, pure_bind]

theorem intUn_of_unValue {f : Word → Word} {o : Un} {m : Sem Word} {d : Reg}
    (h : unValue o f = some (m, d)) : intUn f o s = plain (m >>= writeS d) s := by
  cases h
  simp only [intUn, bind_assoc, pure_bind]

theorem intImm_of_immValue {f g : Word → Word → Word} {o : Imm} {m : Sem Word} {d : Reg}
    (hg : ∀ a b, g a b = f a b) (h : immValue o f = some (m, d)) : intImm g o s = plain (m >>= writeS d) s := by
  obtain rfl : g = f := funext fun a => funext (hg a)
  cases h
  simp only [intImm, bind_assoc, pure_bind]

/-- An integer instruction of any mnemonic computes its value and writes it. -/
theorem exec_of_intValue {i : Instr} {m : Sem Word} {d : Reg} (h : intValue s i = some (m, d)) :
    exec i s = plain (m >>= writeS d) s := by
  unfold intValue at h
  split at h
  -- The arms of `intValue` in its order: two source registers to h_23, one to h_30, an immediate to h_43, LI, ADDPC.
  case h_9 => exact intBin_of_binValue sltW_eq h
  case h_10 => exact intBin_of_binValue sltuW_eq h
  case h_11 => exact intBin_of_binValue mul_eq_ofInt h
  case h_14 => exact intBin_of_binValue minW_eq h
  case h_15 => exact intBin_of_binValue maxW_eq h
  case h_16 => exact intBin_of_binValue minuW_eq h
  case h_17 => exact intBin_of_binValue maxuW_eq h
  case h_1 | h_2 | h_3 | h_4 | h_5 | h_6 | h_7 | h_8 | h_12 | h_13 | h_18 | h_19 | h_20 | h_21 | h_22 | h_23 =>
    exact intBin_of_binValue (fun _ _ => rfl) h
  case h_24 | h_25 | h_26 | h_27 | h_28 | h_29 | h_30 => exact intUn_of_unValue h
  case h_38 => exact intImm_of_immValue sltW_eq h
  case h_39 => exact intImm_of_immValue sltuW_eq h
  case h_40 => exact intImm_of_immValue mul_eq_ofInt h
  case h_41 => exact intImm_of_immValue minW_eq h
  case h_42 => exact intImm_of_immValue maxW_eq h
  case h_43 => exact intImm_of_immValue (g := fun a b => boolW (a == b)) boolW_beq h
  case h_31 | h_32 | h_33 | h_34 | h_35 | h_36 | h_37 => exact intImm_of_immValue (fun _ _ => rfl) h
  case h_44 | h_45 => cases h; rfl
  case h_46 => exact nomatch h

/-- Settles O1: an integer instruction of any mnemonic is `plain` of its value and a write, and its value is that of the
tables. -/
theorem integerResult : Obligations.IntegerResult := by
  unfold Obligations.IntegerResult
  intro s s1 s2 i m d v hi hfit hm hw
  rw [exec_of_intValue hi]
  exact plain_ok hfit ((bind_ok hm).trans hw)

end Sys2Proof.Machine
end

section
/-! Branches and jumps (R88 to R91, R97). -/

namespace Sys2Proof.Machine

variable {s s1 : State}

/-! ### Branches: the condition of the operands, then the target or the next instruction (R88, R89, R97) -/

theorem bne_cond (a b : Word) : (a != b) = decide (a ≠ b) := by
  by_cases h : a = b <;> simp [h]

theorem bltz_cond (a : Word) : a.msb = decide (a.toInt < 0) := BitVec.msb_eq_toInt

theorem bgez_cond (a : Word) : (!a.msb) = decide (0 ≤ a.toInt) := by
  simp [BitVec.msb_eq_toInt, ← decide_not]

theorem bge_cond (a b : Word) : (!a.slt b) = decide (b.toInt ≤ a.toInt) := by
  simp [BitVec.slt_eq_decide, ← decide_not]

theorem bgeu_cond (a b : Word) : (!a.ult b) = decide (b.toNat ≤ a.toNat) := by
  simp [BitVec.ult_eq_decide, ← decide_not]

theorem branchZ_of_zCond {c g : Word → Bool} {o : Src1} {off off' : Word} {m : Sem Bool}
    (hg : ∀ a, g a = c a) (h : zCond o off' c = some (m, off)) :
    branchZ g o off' s = transfer (m >>= fun x => branchTo x off) s := by
  obtain rfl : g = c := funext hg
  cases h
  simp only [branchZ, bind_assoc, pure_bind]

theorem branchC_of_cCond {c g : Word → Word → Bool} {o : Src2} {off off' : Word} {m : Sem Bool}
    (hg : ∀ a b, g a b = c a b) (h : cCond o off' c = some (m, off)) :
    branchC g o off' s = transfer (m >>= fun x => branchTo x off) s := by
  obtain rfl : g = c := funext fun a => funext (hg a)
  cases h
  simp only [branchC, bind_assoc, pure_bind]

/-- A branch of any mnemonic takes its condition, then its way. -/
theorem exec_of_branchCond {i : Instr} {m : Sem Bool} {off : Word} (h : branchCond i = some (m, off)) :
    exec i s = transfer (m >>= fun c => branchTo c off) s := by
  unfold branchCond at h
  split at h
  · exact branchZ_of_zCond (g := fun a => a == 0) (fun a => Bool.beq_eq_decide_eq a 0) h
  · exact branchZ_of_zCond (g := fun a => a != 0) (fun a => bne_cond a 0) h
  · exact branchZ_of_zCond bltz_cond h
  · exact branchZ_of_zCond bgez_cond h
  · exact branchC_of_cCond (g := fun a b => a == b) Bool.beq_eq_decide_eq h
  · exact branchC_of_cCond (g := fun a b => a != b) bne_cond h
  · exact branchC_of_cCond (g := BitVec.slt) (fun _ _ => rfl) h
  · exact branchC_of_cCond bge_cond h
  · exact branchC_of_cCond (g := BitVec.ult) (fun _ _ => rfl) h
  · exact branchC_of_cCond bgeu_cond h
  · cases h; rfl
  · exact nomatch h

theorem branchTo_apply (c : Bool) (off : Word) : branchTo c off s =
    .ok () (if c then (s.modTh (fun t => t.leaveLoop (s.pc + 2 * off))).taken (s.pc + 2 * off)
      else s.modTh (fun t => t.goto s.nextPc)) := by
  cases c <;> rfl

/-- Settles O2: a branch of any mnemonic is `transfer` of its condition and `branchTo`. -/
theorem branchResult : Obligations.BranchResult := by
  unfold Obligations.BranchResult
  intro s s1 i m off c hi hfit hm
  rw [exec_of_branchCond hi]
  exact transfer_ok hfit ((bind_ok hm).trans (branchTo_apply c off))

/-! ### Jumps (R90, R91) -/

/-- Nothing of a control transfer that traps takes effect (R114). -/
theorem transfer_raise {b : Sem Unit} {flt : Flt} (h : s.fits true) (hb : b s = .error (.trap flt) s1) :
    transfer b s = .next (s.raise s.cur flt) := by
  unfold transfer Sem.run
  rw [bind_ok (loopGuard_ok true h), hb]

/-- The link register can be named in test mode too. -/
theorem writeS_link (v : Word) : writeS 1 v s = .ok () (s.modTh (fun t => t.setS 1 v)) :=
  writeS_reg 1 v (by decide) (fun _ => by decide)

theorem exec_jal {off : Word} (hfit : s.fits true) :
    exec (.jal off) s = .next ((s.modTh (fun t => t.setS 1 s.nextPc)).taken (s.pc + 2 * off)) :=
  transfer_ok hfit (bind_ok (writeS_link s.nextPc))

theorem exec_jr {o : Line} {a : Word} (hfit : s.fits true) (hea : o.ea s = .ok a s1) (heven : a.toNat % 2 = 0) :
    exec (.jr o) s = .next (s1.taken a) := by
  refine transfer_ok hfit ((bind_ok hea).trans ?_)
  rw [if_neg (by omega)]
  rfl

theorem exec_jalr {o : Line} {a : Word} (hfit : s.fits true) (hea : o.ea s = .ok a s1) (heven : a.toNat % 2 = 0) :
    exec (.jalr o) s = .next ((s1.modTh (fun t => t.setS 1 s.nextPc)).taken a) := by
  refine transfer_ok hfit ((bind_ok hea).trans ?_)
  rw [if_neg (by omega)]
  exact bind_ok (writeS_link s.nextPc)

theorem exec_jr_odd {o : Line} {a : Word} (hfit : s.fits true) (hea : o.ea s = .ok a s1) (hodd : a.toNat % 2 = 1) :
    exec (.jr o) s = .next (s.raise s.cur ⟨cMISALIGN, a⟩) := by
  refine transfer_raise (s1 := s1) hfit ((bind_ok hea).trans ?_)
  rw [if_pos hodd]
  rfl

theorem exec_jalr_odd {o : Line} {a : Word} (hfit : s.fits true) (hea : o.ea s = .ok a s1) (hodd : a.toNat % 2 = 1) :
    exec (.jalr o) s = .next (s.raise s.cur ⟨cMISALIGN, a⟩) := by
  refine transfer_raise (s1 := s1) hfit ((bind_ok hea).trans ?_)
  rw [if_pos hodd]
  rfl

/-- Settles O3: each jump reads its target, links, and goes on there; an odd target traps before the link. -/
theorem jumpResult : Obligations.JumpResult := by
  unfold Obligations.JumpResult
  exact ⟨fun s off hfit => exec_jal hfit,
    fun s s1 o a hfit hea heven => ⟨exec_jr hfit hea heven, exec_jalr hfit hea heven⟩,
    fun s s1 o a hfit hea hodd => ⟨exec_jr_odd hfit hea hodd, exec_jalr_odd hfit hea hodd⟩⟩

end Sys2Proof.Machine
end

section
/-! The hardware loop: LOOP and its rules, and the back-edge at the end of an instruction (R93 to R96). -/

namespace Sys2Proof.Machine

variable {s : State}

/-! ### LOOP (R94, R96) -/

/-- LOOP's rules hold: the body is activated, or skipped where the count is zero. -/
theorem exec_loop {a : Reg} {len : Word} (hfit : s.fits true) (hidle : loopActive s.th.loopst = false)
    (hlow : 1 ≤ len.toInt) (hhigh : len.toInt ≤ 511) (hreg : a.toNat < 56)
    (htest : s.myCore.test = true → a.toNat < 16) :
    exec (.loop a len) s = .next
      (if a.toNat = 0 ∨ s.th.getS a.toNat = 0 then s.taken (s.nextPc + 2 * len)
       else s.modTh (fun t => { t.goto s.nextPc with
         loopst := loopWord a.toNat len.toNat (s.nextPc + 2 * len) })) := by
  have hrules : ¬(loopActive s.th.loopst || decide (len.toInt ≤ 0 ∨ 511 < len.toInt) ||
      decide (56 ≤ a.toNat)) = true := by
    simp only [hidle, Bool.false_or, Bool.or_eq_true, decide_eq_true_eq]
    omega
  refine transfer_ok hfit ?_
  rw [if_neg hrules]
  refine (bind_ok (readS_reg a hreg htest)).trans ?_
  rw [ite_sem]
  by_cases h0 : a.toNat = 0
  · rw [if_pos h0, if_pos rfl, if_pos (.inl h0)]
    rfl
  rw [if_neg h0]
  by_cases hn : s.th.getS a.toNat = 0
  · rw [if_pos hn, if_pos (.inr hn)]
    rfl
  · rw [if_neg hn, if_neg (not_or.2 ⟨h0, hn⟩)]
    rfl

/-- A LOOP against one of its rules is illegal (R96). -/
theorem exec_loop_illegal {a : Reg} {len : Word} (hfit : s.fits true)
    (h : loopActive s.th.loopst = true ∨ len.toInt ≤ 0 ∨ 511 < len.toInt ∨ 56 ≤ a.toNat) :
    exec (.loop a len) s = .next (s.raise s.cur ⟨cILLEGAL, s.baseInfo⟩) := by
  have hrules : (loopActive s.th.loopst || decide (len.toInt ≤ 0 ∨ 511 < len.toInt) ||
      decide (56 ≤ a.toNat)) = true := by
    simp only [Bool.or_eq_true, decide_eq_true_eq, or_assoc]
    exact h
  refine transfer_raise (s1 := s) hfit ?_
  rw [if_pos hrules]
  rfl

/-! ### The end of an instruction in a loop body (R93, R94) -/

theorem State.post_th (s : State) (d : Nat) (i : Instr) (e : Ev) : (s.post d i e).th = s.th := rfl

theorem State.backEdge_iff : s.backEdge ↔ (inBody s.th.loopst s.pc && s.nextPc == loopEnd s.th.loopst) = true := by
  simp [State.backEdge]

theorem Thread.advance_ends {t : Thread} {pc next : Word}
    (hedge : (inBody t.loopst pc && next == loopEnd t.loopst) = true)
    (hcount : (t.getS (loopReg t.loopst)).toNat ≤ 1) : t.advance pc next =
      { t.setS (loopReg t.loopst) 0 with loopst := 0, pc := next, wait := none, opDone := false } :=
  (if_pos hedge).trans (if_pos hcount)

theorem Thread.advance_repeats {t : Thread} {pc next : Word}
    (hedge : (inBody t.loopst pc && next == loopEnd t.loopst) = true)
    (hcount : 1 < (t.getS (loopReg t.loopst)).toNat) : t.advance pc next =
      (t.setS (loopReg t.loopst) (t.getS (loopReg t.loopst) - 1)).goto (loopStart t.loopst) :=
  (if_pos hedge).trans (if_neg (Nat.not_le.2 hcount))

theorem Thread.advance_on {t : Thread} {pc next : Word}
    (hedge : ¬(inBody t.loopst pc && next == loopEnd t.loopst) = true) : t.advance pc next = t.goto next :=
  if_neg hedge

/-- A long body's back-edge: the thread advances and pauses, and its pause ends 3 clk later. -/
theorem State.complete_long (hedge : s.backEdge) (hlen : 32 < loopLen s.th.loopst) : s.complete =
    ((s.modTh (fun t => t.advance s.pc s.nextPc)).modTh (fun t => { t with paused := true, fbuf := [] })).post 3
      .pauseExpiry { tid := s.cur } := by
  have h := State.backEdge_iff.1 hedge
  exact if_pos (by simp [h, hlen])

/-- At the end of an instruction the running thread has advanced; where it pauses, that is all there is to it. -/
theorem State.th_complete (s : State) : s.complete.th = s.th.advance s.pc s.nextPc ∨
    s.complete.th = { s.th.advance s.pc s.nextPc with paused := true, fbuf := [] } := by
  have hadv := s.th_modTh (fun t => t.advance s.pc s.nextPc)
  unfold State.complete
  dsimp only
  split
  · right
    rw [State.post_th, State.th_modTh, hadv]
  · exact .inl hadv

/-- A count of 0 or 1 ends the loop at its back-edge. -/
theorem State.complete_ends (hedge : s.backEdge) (hcount : (s.th.getS (loopReg s.th.loopst)).toNat ≤ 1) :
    s.complete.th.getS (loopReg s.th.loopst) = 0 ∧ s.complete.th.loopst = 0 ∧ s.complete.th.pc = s.nextPc := by
  have hadv := Thread.advance_ends (State.backEdge_iff.1 hedge) hcount
  have hzero := Thread.getS_setS s.th (loopReg s.th.loopst) 0
  rcases s.th_complete with h | h <;> rw [h, hadv] <;> exact ⟨hzero, rfl, rfl⟩

/-- A larger count is decremented at the back-edge, and the body starts again. -/
theorem State.complete_repeats (hedge : s.backEdge) (hcount : 1 < (s.th.getS (loopReg s.th.loopst)).toNat) :
    s.complete.th.getS (loopReg s.th.loopst) = s.th.getS (loopReg s.th.loopst) - 1 ∧
    s.complete.th.loopst = s.th.loopst ∧ s.complete.th.pc = loopStart s.th.loopst := by
  have hadv := Thread.advance_repeats (State.backEdge_iff.1 hedge) hcount
  have hless := Thread.getS_setS s.th (loopReg s.th.loopst) (s.th.getS (loopReg s.th.loopst) - 1)
  rcases s.th_complete with h | h <;> rw [h, hadv] <;> exact ⟨hless, rfl, rfl⟩

theorem State.complete_pauses (hedge : s.backEdge) (hlen : 32 < loopLen s.th.loopst) :
    s.complete.th.paused = true ∧ (s.clk + 3, Instr.pauseExpiry, ({ tid := s.cur } : Ev)) ∈ s.complete.agenda := by
  rw [State.complete_long hedge hlen]
  refine ⟨?_, (State.mem_post_agenda _ _ _ _ _).2 (.inl rfl)⟩
  rw [State.post_th, State.th_modTh]

theorem State.complete_on (hedge : ¬s.backEdge) :
    s.complete.th.pc = s.nextPc ∧ s.complete.th.loopst = s.th.loopst := by
  have hadv := Thread.advance_on (mt State.backEdge_iff.2 hedge)
  rcases s.th_complete with h | h <;> rw [h, hadv] <;> exact ⟨rfl, rfl⟩

/-- Settles O4: LOOP by its rules; the back-edge by the count, and its pause by the length of the body. -/
theorem loopResult : Obligations.LoopResult := by
  unfold Obligations.LoopResult
  refine ⟨fun s a len hfit hidle hlow hhigh hreg htest => exec_loop hfit hidle hlow hhigh hreg htest,
    fun s a len hfit h => exec_loop_illegal hfit h, fun s n hn hedge => ?_,
    fun s hedge hlen => State.complete_pauses hedge hlen, fun s hedge => State.complete_on hedge⟩
  subst hn
  exact ⟨State.complete_ends hedge, State.complete_repeats hedge⟩

end Sys2Proof.Machine
end

section
/-! The elements of a field: LDX, STX, MAPX and UNMAPX (R87, R154). -/

namespace Sys2Proof.Machine

variable {s s1 s2 s3 s4 s5 : State}

theorem exec_ldx {o : MemT} {h t ea : Word} {dpa q v : Nat} {d : Desc} {p : Place} (hfit : s.fits false)
    (htest : s.myCore.test = false) (hread : Src2.read ⟨o.base, o.t, o.ub, o.ut⟩ s = .ok (h, t) s1)
    (hplace : elemPlace h (t + o.off) s1 = .ok (ea, dpa, d, q) s2)
    (hcheck : check { kind := .load, bytes := d.size } ea s2 = .ok p s3)
    (hload : loadPlace p ea d.size s3 = .ok v s4)
    (hwrite : writeF o.d (BitVec.ofNat 64 (d.pick q v)) s4 = .ok () s5) : exec (.ldx o) s = .next s5.done := by
  refine plain_ok hfit ((bind_ok (noTest_ok htest)).trans ((bind_ok hread).trans ((bind_ok hplace).trans ?_)))
  exact (bind_ok hcheck).trans ((bind_ok hload).trans hwrite)

/-- The bits of its byte that an element takes: a half of it where the format is I4, else all of it. -/
def elemMask (d : Desc) (q : Nat) : Byte := if d.fmt = 5 then (if q % 2 = 0 then 0x0F else 0xF0) else 0xFF

/-- The store of element `q` of a field with raw value `x` at its place. -/
def storeElem (d : Desc) (dpa q : Nat) (x : Nat) : Place → Sem Unit
  | .chip pa => do
    noteStored (.chip pa) d.size (elemMask d q)
    bufferCells pa ((cellsOf pa d.size (d.place q 0 x)).map (fun c => (c.1, c.2, elemMask d q))) [dpa]
      [⟨dpa, q, pa, x % 2 ^ 64⟩]
  | p => storePlace p d.size (d.place q 0 x)

theorem exec_stx {o : MemT} {h t ea : Word} {dpa q : Nat} {d : Desc} {p : Place} (hfit : s.fits false)
    (htest : s.myCore.test = false) (hread : Src2.read ⟨o.base, o.t, o.ub, o.ut⟩ s = .ok (h, t) s1)
    (hkill : killF o.d o.ud s1 = .ok () s2) (hplace : elemPlace h (t + o.off) s2 = .ok (ea, dpa, d, q) s3)
    (hcheck : check (.store d.size) ea s3 = .ok p s4)
    (hstore : storeElem d dpa q (s.th.getF o.d.toNat).toNat p s4 = .ok () s5) :
    exec (.stx o) s = .next s5.done := by
  refine plain_ok hfit ((bind_ok (noTest_ok htest)).trans ((bind_ok (readF_ok o.d htest)).trans
    ((bind_ok hread).trans ((bind_ok hkill).trans ((bind_ok hplace).trans ((bind_ok hcheck).trans ?_))))))
  cases p <;> exact hstore

/-- MAPX and UNMAPX give the index that `f` makes of theirs by the descriptor of the field. -/
theorem mapInstr_ok {f : Desc → Nat → Nat} {o : Bin} {x h : Word} {d : Desc} {dpa : Nat} (hfit : s.fits false)
    (hread : o.read s = .ok (x, h) s1) (hdesc : descDefined h s1 = .ok (d, dpa) s2)
    (hwrite : writeS o.d (BitVec.ofNat 64 (f d x.toNat)) s2 = .ok () s3) : mapInstr f o s = .next s3.done :=
  plain_ok hfit ((bind_ok hread).trans ((bind_ok hdesc).trans hwrite))

/-- Settles O9: LDX and STX by the place of their element, MAPX and UNMAPX by the map of the descriptor. -/
theorem elementResult : Obligations.ElementResult := by
  unfold Obligations.ElementResult
  refine ⟨fun s s1 s2 s3 s4 s5 o h t ea dpa q v d p hfit htest hread hplace hcheck hload hwrite =>
      exec_ldx hfit htest hread hplace hcheck hload hwrite,
    fun s s1 s2 s3 s4 s5 o h t ea dpa q v d p hfit htest hread hkill hplace hcheck hv hstore => ?_,
    fun s s1 s2 s3 o x h d dpa inv hfit hread hdesc hwrite => ?_⟩
  · subst hv
    refine exec_stx hfit htest hread hkill hplace hcheck ?_
    cases p <;> exact hstore
  · cases inv with
    | false => exact mapInstr_ok hfit hread hdesc hwrite
    | true => exact mapInstr_ok hfit hread hdesc hwrite

end Sys2Proof.Machine
end

section
/-! The machine after reset (R95, R165, R225, R276, R402, R425, R427, R431). -/

namespace Sys2Proof.Machine

theorem reset_core (c : Nat) : State.reset.core c = {} := rfl

/-- The bounds of the TCM and its units, as SYSR finds them (R74). -/
theorem State.sysRead_tcm (s : State) : s.sysRead 0x020 = BitVec.ofNat 64 (b2n s.myCore.refused * 2 ^ 28 +
    s.myCore.tcmMax * 2 ^ 16 + s.myCore.tcmMin * 2 ^ 8 + s.myCore.tcmUnits) := rfl

theorem reset_sysRead_tcm (t : Nat) : { State.reset with cur := t }.sysRead 0x020 = 0x0E0206 := by
  have hcore : { State.reset with cur := t }.myCore = {} := reset_core _
  rw [State.sysRead_tcm, hcore]
  rfl

/-- Settles O54: after reset every thread, core and partition reads as its record's defaults. -/
theorem resetValues : Obligations.ResetValues := by
  unfold Obligations.ResetValues
  refine ⟨reset_wf, rfl, rfl, rfl, rfl, rfl, fun t => ?_⟩
  exact ⟨rfl, rfl, rfl, rfl, rfl, rfl, rfl, rfl, rfl, rfl, rfl, rfl, rfl, reset_sysRead_tcm t, rfl, rfl, rfl, rfl,
    fun r => ⟨rfl, rfl⟩⟩

end Sys2Proof.Machine
end

section
/-! Field instructions that a core performs itself, and the end of an exchange (R146, R147, R149 to R153). -/

namespace Sys2Proof.Machine

variable {s s1 s2 s3 s4 : State}

/-! ### What the field instructions have in common -/

/-- A guard whose condition fails: the instruction goes on with `n`. -/
theorem guard_passes {α : Type} {p : Prop} [Decidable p] {m n : Sem α} (hp : ¬p) : (if p then m else n) s = n s := by
  rw [if_neg hp]

theorem handleOk_ok {h : Word} (hh : h.toNat < 4096) (ht : s.myPart.ftbase ≠ 0) : handleOk h s = .ok () s := by
  rw [handleOk, get_bind]
  exact guard_passes (not_or.2 ⟨Nat.not_le.2 hh, ht⟩)

theorem bufferEntry_ok {e : Entry} (h : entryCount s.th.entries < 480) :
    bufferEntry e s = .ok () (s.modTh (fun t => { t with entries := t.entries ++ [e] })) := by
  have hroom : areaRoom s = .ok () s := by
    rw [areaRoom, get_bind]
    exact guard_passes (Nat.not_le.2 h)
  exact (bind_ok hroom).trans rfl

/-! ### Definition, relabelling, test and release (R146, R147, R151 to R153) -/

theorem exec_fldef {o : Src2} {h a : Word} {img dpa : Nat} {old : Desc} (hfit : s.fits false)
    (hread : o.read s = .ok (h, a) s1) (hh : h.toNat < 4096) (ht : s1.myPart.ftbase ≠ 0)
    (himg : loadN a 64 s1 = .ok img s2) (hold : descSeen h s2 = .ok (old, dpa) s3) (hfree : old.state = 0)
    (hvalid : (Desc.ofNat img).valid = true)
    (hstore : storeN (descAddr s3.myPart.ftbase h.toNat) 64 (img + 2 ^ 120) s3 = .ok () s4) :
    exec (.fldef o) s = .next s4.done := by
  have himage : ¬(!(Desc.ofNat img).valid) = true := by simp [hvalid]
  refine plain_ok hfit ((bind_ok hread).trans ((bind_ok (handleOk_ok hh ht)).trans ((bind_ok himg).trans ?_)))
  exact (bind_ok hold).trans ((guard_passes (not_not_intro hfree)).trans ((guard_passes himage).trans hstore))

theorem exec_flperm {o : Src2} {h a : Word} {d : Desc} {l : List Nat} {dpa pa : Nat} (hfit : s.fits false)
    (hread : o.read s = .ok (h, a) s1) (hdesc : descDefined h s1 = .ok (d, dpa) s2)
    (hbound : s2.isBound s2.th.part h.toNat d = false) (hlist : readList a d.n s2 = .ok l s3)
    (hperm : Desc.isPerm l d.n = true) (hplace : descStore h s3 = .ok pa s4)
    (hroom : entryCount s4.th.entries < 480) :
    exec (.flperm o) s = .next (s4.modTh (fun t => { t with entries := t.entries ++ [.perm pa l] })).done := by
  have hlegal : ¬(!Desc.isPerm l d.n) = true := by simp [hperm]
  refine plain_ok hfit ((bind_ok hread).trans ((bind_ok hdesc).trans ?_))
  exact (guard_passes (ne_true_of_eq_false hbound)).trans ((bind_ok hlist).trans
    ((guard_passes hlegal).trans ((bind_ok hplace).trans (bufferEntry_ok hroom))))

theorem exec_flstat {o : Un} {h : Word} {d : Desc} {pa : Nat} (hfit : s.fits false) (hread : o.read s = .ok h s1)
    (hdesc : descSeen h s1 = .ok (d, pa) s2)
    (hwrite : writeS o.d (if d.state = 0 then 0
      else BitVec.ofNat 64 (d.state * 2 ^ 56 + d.fmt * 2 ^ 48 + d.s * 2 ^ 40 + d.n * 2 ^ 32 + d.shift)) s2 = .ok () s3) :
    exec (.flstat o) s = .next s3.done :=
  plain_ok hfit ((bind_ok hread).trans ((bind_ok hdesc).trans hwrite))

theorem exec_flfree {o : Src1} {h : Word} {d : Desc} {dpa pa : Nat} (hfit : s.fits false)
    (hread : o.read s = .ok h s1) (hdesc : descDefined h s1 = .ok (d, dpa) s2)
    (hbound : s2.isBound s2.th.part h.toNat d = false) (hplace : descStore h s2 = .ok pa s3)
    (hstore : bufferStore (pa + 15) 1 0 [pa] s3 = .ok () s4) : exec (.flfree o) s = .next s4.done := by
  refine plain_ok hfit ((bind_ok hread).trans ((bind_ok hdesc).trans ?_))
  exact (guard_passes (ne_true_of_eq_false hbound)).trans ((bind_ok hplace).trans hstore)

/-- Where a physical bit lies: 0 near, 1 local beyond the near bits, 2 spread (R153). -/
def Desc.bitClass (d : Desc) (p : Nat) : Nat := if p < d.near then 0 else if p < d.l then 1 else 2

/-- What FLMAP answers for a logical bit: its physical bit and the class of that, or bit 63 alone (R153). -/
def Desc.flmapWord (d : Desc) (j : Nat) : Word :=
  if d.n ≤ j then 0x8000000000000000 else BitVec.ofNat 64 (d.mapBit j + 256 * d.bitClass (d.mapBit j))

theorem exec_flmap {o : Bin} {h j : Word} {d : Desc} {pa : Nat} (hfit : s.fits false)
    (hread : o.read s = .ok (h, j) s1) (hdesc : descDefined h s1 = .ok (d, pa) s2)
    (hwrite : writeS o.d (d.flmapWord j.toNat) s2 = .ok () s3) : exec (.flmap o) s = .next s3.done := by
  refine plain_ok hfit ((bind_ok hread).trans ((bind_ok hdesc).trans ?_))
  refine (ite_sem _ _ _).trans ?_
  by_cases hj : d.n ≤ j.toNat
  · rw [Desc.flmapWord, if_pos hj] at hwrite
    exact (if_pos hj).trans hwrite
  · rw [Desc.flmapWord, if_neg hj, Nat.add_comm, Nat.mul_comm] at hwrite
    exact (if_neg hj).trans hwrite

/-! ### The end of an exchange (R149, R150) -/

/-- A send that failed halts the field and ends the exchange with its fault. -/
theorem exec_flxchCopyPhase_failed {c : MauCmd} (hc : s.findMau s.ev.core s.ev.id = some c) (hstage : c.stage = 1)
    (hstatus : s.ev.status ≠ 0) :
    exec .flxchCopyPhase s = .next ((s.haltField c false).axisEnd c (some ⟨s.ev.status, s.ev.v⟩)) := by
  show execFlxchCopyPhase s = _
  unfold execFlxchCopyPhase event
  dsimp only
  rw [hc]
  dsimp only
  rw [if_neg (not_not_intro hstage), if_pos hstatus]

/-- With the sends acknowledged and the elements there, every block is copied and the command ends. -/
theorem exec_flxchCopyPhase_done {u : State} {c : MauCmd} {d : Desc} {pa : Nat} {sig : Option Nat} {n : Flags}
    (hc : s.findMau s.ev.core s.ev.id = some c) (hstage : c.stage = 1) (hstatus : s.ev.status = 0)
    (hdesc : s.cmdDesc c (c.arg 0) = .ok (d, pa)) (hsends : c.sends = 0)
    (hcount : 2 ^ (d.l - 1) ≤ smGet 0 (s.part c.part).exch (c.arg 0).toNat)
    (hsig : (s.putShift pa (d.withBits true true false true)).sigma c d = .ok sig)
    (hcopy : (s.putShift pa (d.withBits true true false true)).runPairs
      (copyBlock c d pa (c.arg 2) (ownBit d sig)) (List.range d.blocks) = (u, n, none)) :
    exec .flxchCopyPhase s = .next (((u.putShift pa (d.withBits true false false true)).modPart c.part (fun q =>
      { q with exch := smSet 0 q.exch (c.arg 0).toNat 0 })).axisEnd c none) := by
  have hgo : ¬(c.sends ≠ 0 ∨ smGet 0 (s.part c.part).exch (c.arg 0).toNat < 2 ^ (d.l - 1)) :=
    not_or.2 ⟨not_not_intro hsends, Nat.not_lt.2 hcount⟩
  show execFlxchCopyPhase s = _
  unfold execFlxchCopyPhase event
  dsimp only
  rw [hc]
  dsimp only
  rw [if_neg (not_not_intro hstage), if_neg (not_not_intro hstatus), hdesc]
  dsimp only
  rw [if_neg hgo, hsig]
  dsimp only
  rw [hcopy]

theorem exec_flxchPartnerTimeout {c : MauCmd} {d : Desc} {pa : Nat} (hc : s.findMau s.ev.core s.ev.id = some c)
    (hstage : c.stage = 1) (hstart : c.started = s.ev.since) (hdesc : s.cmdDesc c (c.arg 0) = .ok (d, pa)) :
    exec .flxchPartnerTimeout s = .next (
      if smGet 0 (s.part c.part).exch (c.arg 0).toNat < 2 ^ (d.l - 1) then
        (s.haltField c false).axisEnd c (some (badField 12 (c.arg 0)))
      else s) := by
  show execFlxchPartnerTimeout s = _
  unfold execFlxchPartnerTimeout event
  dsimp only
  rw [hc]
  dsimp only
  rw [hdesc]
  simp only [hstage, hstart, and_self, decide_true, Bool.true_and, decide_eq_true_eq]

/-- Settles O33: each field instruction by the operations that its body performs in order, each step of an exchange by
the checks of its command that are met. -/
theorem fieldResult : Obligations.FieldResult := by
  unfold Obligations.FieldResult
  refine ⟨fun s s1 s2 s3 s4 o h a img dpa old hfit hread hh ht himg hold hfree hvalid hstore =>
      exec_fldef hfit hread hh ht himg hold hfree hvalid hstore,
    fun s s1 s2 s3 s4 o h a d l dpa pa hfit hread hdesc hbound hlist hperm hplace hroom =>
      exec_flperm hfit hread hdesc hbound hlist hperm hplace hroom,
    fun s s1 s2 s3 o h d pa hfit hread hdesc hwrite => exec_flstat hfit hread hdesc hwrite,
    fun s s1 s2 s3 s4 o h d dpa pa hfit hread hdesc hbound hplace hstore =>
      exec_flfree hfit hread hdesc hbound hplace hstore,
    fun s s1 s2 s3 o h j d pa hfit hread hdesc hwrite => exec_flmap hfit hread hdesc hwrite,
    fun s u c d pa sig n hc hstage hstatus hdesc hsends hcount ⟨hsig, hcopy⟩ =>
      exec_flxchCopyPhase_done hc hstage hstatus hdesc hsends hcount hsig hcopy,
    fun s c hc hstage hstatus => exec_flxchCopyPhase_failed hc hstage hstatus,
    fun s c d pa hc hstage hstart hdesc => exec_flxchPartnerTimeout hc hstage hstart hdesc⟩

end Sys2Proof.Machine
end

section
/-! Rounding to an integer, exact sums, and the lanes of a word (R159 to R163, R219). -/

namespace Sys2Proof.Machine

/-! ### Rounding to an integer -/

theorem roundInt_nearest_even (neg : Bool) (m k : Nat) : (roundInt 0 neg m k).1 =
    m / 2 ^ k + if 2 ^ k < 2 * (m % 2 ^ k) ∨ 2 * (m % 2 ^ k) = 2 ^ k ∧ m / 2 ^ k % 2 = 1 then 1 else 0 := by
  simp [roundInt, b2n, Nat.shiftRight_eq_div_pow]

theorem roundInt_toward_zero (neg : Bool) (m k : Nat) : (roundInt 1 neg m k).1 = m / 2 ^ k :=
  Nat.shiftRight_eq_div_pow m k

theorem roundInt_down (neg : Bool) (m k : Nat) : (roundInt 2 neg m k).1 =
    m / 2 ^ k + if neg = true ∧ m % 2 ^ k ≠ 0 then 1 else 0 := by
  simp [roundInt, b2n, Nat.shiftRight_eq_div_pow]

theorem roundInt_up (neg : Bool) (m k : Nat) : (roundInt 3 neg m k).1 =
    m / 2 ^ k + if neg = false ∧ m % 2 ^ k ≠ 0 then 1 else 0 := by
  simp [roundInt, b2n, Nat.shiftRight_eq_div_pow]

theorem roundInt_nearest_away (neg : Bool) (m k : Nat) : (roundInt 4 neg m k).1 =
    m / 2 ^ k + if 2 ^ k ≤ 2 * (m % 2 ^ k) ∧ m % 2 ^ k ≠ 0 then 1 else 0 := by
  simp [roundInt, b2n, Nat.shiftRight_eq_div_pow]

theorem roundInt_inexact (mode : Nat) (neg : Bool) (m k : Nat) :
    (roundInt mode neg m k).2 = true ↔ m % 2 ^ k ≠ 0 := bne_iff_ne

/-- The multiple of `p` not above `m`. -/
theorem floor_bounds (m : Nat) {p : Nat} (hp : 0 < p) : m / p * p ≤ m ∧ m < (m / p + 1) * p :=
  ⟨Nat.div_mul_le_self m p, Nat.mul_comm p _ ▸ Nat.lt_mul_div_succ m hp⟩

/-- The multiple of `p` not below `m`. -/
theorem ceil_bounds (m : Nat) {p : Nat} (hp : 0 < p) :
    m ≤ (m / p + if m % p ≠ 0 then 1 else 0) * p ∧ (m / p + if m % p ≠ 0 then 1 else 0) * p < m + p := by
  have hsplit := Nat.div_add_mod' m p
  have hrest := Nat.mod_lt m hp
  rw [Nat.add_mul]
  split <;> simp only [Nat.one_mul, Nat.zero_mul] <;> omega

/-- RNE: within half a unit of the value, and even at a tie (R161). -/
theorem roundInt_nearest_even_bounds (neg : Bool) (m k : Nat) :
    2 * ((roundInt 0 neg m k).1 * 2 ^ k) ≤ 2 * m + 2 ^ k ∧ 2 * m ≤ 2 * ((roundInt 0 neg m k).1 * 2 ^ k) + 2 ^ k ∧
      (2 * ((roundInt 0 neg m k).1 * 2 ^ k) = 2 * m + 2 ^ k ∨ 2 * m = 2 * ((roundInt 0 neg m k).1 * 2 ^ k) + 2 ^ k →
        (roundInt 0 neg m k).1 % 2 = 0) := by
  have hsplit := Nat.div_add_mod' m (2 ^ k)
  have hrest := Nat.mod_lt m (Nat.two_pow_pos k)
  rw [roundInt_nearest_even, Nat.add_mul]
  split <;> simp only [Nat.one_mul, Nat.zero_mul] <;> omega

/-- RMM: within half a unit of the value, and above it at a tie (R161). -/
theorem roundInt_nearest_away_bounds (neg : Bool) (m k : Nat) :
    2 * ((roundInt 4 neg m k).1 * 2 ^ k) ≤ 2 * m + 2 ^ k ∧ 2 * m < 2 * ((roundInt 4 neg m k).1 * 2 ^ k) + 2 ^ k := by
  have hsplit := Nat.div_add_mod' m (2 ^ k)
  have hrest := Nat.mod_lt m (Nat.two_pow_pos k)
  rw [roundInt_nearest_away, Nat.add_mul]
  split <;> simp only [Nat.one_mul, Nat.zero_mul] <;> omega

/-- RTZ: the magnitude goes down (R161). -/
theorem roundInt_toward_zero_bounds (neg : Bool) (m k : Nat) :
    (roundInt 1 neg m k).1 * 2 ^ k ≤ m ∧ m < ((roundInt 1 neg m k).1 + 1) * 2 ^ k := by
  rw [roundInt_toward_zero]
  exact floor_bounds m (Nat.two_pow_pos k)

/-- RDN: the magnitude of a negative value goes up, of another down (R161). -/
theorem roundInt_down_bounds (neg : Bool) (m k : Nat) :
    if neg then m ≤ (roundInt 2 neg m k).1 * 2 ^ k ∧ (roundInt 2 neg m k).1 * 2 ^ k < m + 2 ^ k
    else (roundInt 2 neg m k).1 * 2 ^ k ≤ m ∧ m < ((roundInt 2 neg m k).1 + 1) * 2 ^ k := by
  rw [roundInt_down]
  cases neg with
  | true => simpa using ceil_bounds m (Nat.two_pow_pos k)
  | false => simpa using floor_bounds m (Nat.two_pow_pos k)

/-- RUP: the magnitude of a negative value goes down, of another up (R161). -/
theorem roundInt_up_bounds (neg : Bool) (m k : Nat) :
    if neg then (roundInt 3 neg m k).1 * 2 ^ k ≤ m ∧ m < ((roundInt 3 neg m k).1 + 1) * 2 ^ k
    else m ≤ (roundInt 3 neg m k).1 * 2 ^ k ∧ (roundInt 3 neg m k).1 * 2 ^ k < m + 2 ^ k := by
  rw [roundInt_up]
  cases neg with
  | true => simpa using floor_bounds m (Nat.two_pow_pos k)
  | false => simpa using ceil_bounds m (Nat.two_pow_pos k)

/-! ### Exact sums -/

/-- A finite term under a lower exponent. -/
theorem Val.sint_lower (neg : Bool) (m : Nat) {e q q' : Int} (hq : q' ≤ q) (he : q ≤ e) :
    Val.sint neg m e q' = Val.sint neg m e q * 2 ^ (q - q').toNat := by
  have hexp : (e - q').toNat = (e - q).toNat + (q - q').toNat := by omega
  have hscale : ((m <<< (e - q').toNat : Nat) : Int) = (m <<< (e - q).toNat : Nat) * 2 ^ (q - q').toNat := by
    rw [Nat.shiftLeft_eq, Nat.shiftLeft_eq, hexp, Nat.pow_add, ← Nat.mul_assoc]
    exact_mod_cast rfl
  cases neg with
  | true =>
    show -((m <<< (e - q').toNat : Nat) : Int) = -((m <<< (e - q).toNat : Nat) : Int) * 2 ^ (q - q').toNat
    rw [hscale, Int.neg_mul]
  | false => exact hscale

/-- A finite term as its sign, magnitude and exponent. -/
abbrev Term := Bool × Nat × Int

/-- The integer of the sum of finite terms, in units of 2^q. -/
def scaledSum (ts : List Term) (q : Int) : Int := (ts.map (fun x => Val.sint x.1 x.2.1 x.2.2 q)).sum

theorem scaledSum_lower {ts : List Term} {q q' : Int} (hq : q' ≤ q) (hlow : ∀ x ∈ ts, q ≤ x.2.2) :
    scaledSum ts q' = scaledSum ts q * 2 ^ (q - q').toNat := by
  induction ts with
  | nil => simp [scaledSum]
  | cons x ts ih =>
    obtain ⟨hx, hts⟩ := List.forall_mem_cons.1 hlow
    have ih := ih hts
    simp only [scaledSum, List.map_cons, List.sum_cons] at ih ⊢
    rw [ih, Val.sint_lower _ _ hq hx, Int.add_mul]

theorem scaledSum_append (ts : List Term) (x : Term) (q : Int) :
    scaledSum (ts ++ [x]) q = scaledSum ts q + Val.sint x.1 x.2.1 x.2.2 q := by
  simp [scaledSum]

/-- What a total of finite terms holds of them. -/
structure Total.Of (a : Total) (ts : List Term) : Prop where
  any : a.any = true ↔ ts ≠ []
  low : ∀ x ∈ ts, a.q ≤ x.2.2
  sum : a.sum = scaledSum ts a.q
  allNeg : a.allNeg = ts.all (fun x => x.1)
  allPos : a.allPos = ts.all (fun x => !x.1)
  finite : a.pinf = false ∧ a.ninf = false ∧ a.nan = false ∧ a.inv = false

theorem Total.of_nil : Total.Of {} [] :=
  ⟨by simp, by simp, rfl, rfl, rfl, rfl, rfl, rfl, rfl⟩

/-- The exponent after one more finite term. -/
def Total.lower (a : Total) (e : Int) : Int := if a.any then min a.q e else e

theorem Total.add_fin (a : Total) (n : Bool) (m : Nat) (e : Int) : a.add (.fin n m e, false) =
    { a with any := true, q := a.lower e, allNeg := a.allNeg && n, allPos := a.allPos && !n,
             sum := (if a.any then a.sum * 2 ^ (a.q - a.lower e).toNat else 0) + Val.sint n m e (a.lower e) } := by
  simp [Total.add, Total.lower]

/-- One more finite term is added exactly. -/
theorem Total.Of.add {a : Total} {ts : List Term} (h : a.Of ts) (x : Term) :
    (a.add (.fin x.1 x.2.1 x.2.2, false)).Of (ts ++ [x]) := by
  rw [Total.add_fin]
  have hsum : (if a.any then a.sum * 2 ^ (a.q - a.lower x.2.2).toNat else 0) = scaledSum ts (a.lower x.2.2) := by
    by_cases hany : a.any = true
    · have hle : a.lower x.2.2 ≤ a.q := by
        rw [Total.lower, if_pos hany]
        exact Int.min_le_left _ _
      rw [if_pos hany, h.sum, scaledSum_lower hle h.low]
    · obtain rfl : ts = [] := by simpa using mt h.any.2 hany
      rw [if_neg hany]
      rfl
  have hlow : ∀ y ∈ ts, a.lower x.2.2 ≤ y.2.2 := by
    intro y hy
    have hany : a.any = true := h.any.2 (List.ne_nil_of_mem hy)
    have hold := h.low y hy
    rw [Total.lower, if_pos hany]
    omega
  have hx : a.lower x.2.2 ≤ x.2.2 := by
    unfold Total.lower
    split <;> omega
  refine ⟨by simp, fun y hy => ?_, ?_, ?_, ?_, h.finite⟩
  · rcases List.mem_append.1 hy with hy | hy
    · exact hlow y hy
    · exact List.mem_singleton.1 hy ▸ hx
  · rw [scaledSum_append, ← hsum]
  · simp [h.allNeg]
  · simp [h.allPos]

/-- The total that a sum of finite terms builds. -/
theorem Total.Of.fold {a : Total} {old : List Term} (h : a.Of old) (ts : List Term) :
    ((ts.map (fun x => (Val.fin x.1 x.2.1 x.2.2, false))).foldl Total.add a).Of (old ++ ts) := by
  induction ts generalizing a old with
  | nil => rwa [List.append_nil]
  | cons x ts ih =>
    rw [List.append_cons]
    exact ih (h.add x)

/-- The value of a total of finite terms; a zero sum of terms of both signs is negative under RDN only (R163). -/
theorem Total.Of.value {a : Total} {ts : List Term} (h : a.Of ts) (hts : ts ≠ []) (mode : Nat) :
    a.value mode = if scaledSum ts a.q = 0 then
        (.fin (ts.all (fun x => x.1) || (ts.any (fun x => x.1) && decide (mode = 2))) 0 0, false)
      else (.fin (decide (scaledSum ts a.q < 0)) (scaledSum ts a.q).natAbs a.q, false) := by
  obtain ⟨hpinf, hninf, hnan, hinv⟩ := h.finite
  have hpos : a.allPos = !ts.any (fun x => x.1) := by rw [h.allPos, List.not_any_eq_all_not]
  unfold Total.value
  rw [hpinf, hninf, hnan, hinv, h.any.2 hts, h.sum, h.allNeg, hpos]
  cases ts.all (fun x => x.1) <;> cases ts.any (fun x => x.1) <;> rfl

/-- A sum of finite terms is exact (R160). -/
theorem sumVals_finite (mode : Nat) {ts : List Term} (hts : ts ≠ []) : ∃ q : Int, (∀ x ∈ ts, q ≤ x.2.2) ∧
    sumVals mode (ts.map (fun x => (.fin x.1 x.2.1 x.2.2, false))) = if scaledSum ts q = 0 then
        (.fin (ts.all (fun x => x.1) || (ts.any (fun x => x.1) && decide (mode = 2))) 0 0, false)
      else (.fin (decide (scaledSum ts q < 0)) (scaledSum ts q).natAbs q, false) :=
  have h := Total.of_nil.fold ts
  ⟨_, h.low, h.value hts mode⟩

/-! ### Lanes of a word -/

/-- Lane k of a number, `w` bits wide. -/
theorem bitsN_lane {w : Nat} (hw : 0 < w) (n k : Nat) : bitsN n (w * k + w - 1) (w * k) = n / (2 ^ w) ^ k % 2 ^ w := by
  have hwidth : w * k + w - 1 + 1 - w * k = w := by omega
  rw [bitsN, hwidth, Nat.shiftRight_eq_div_pow, Nat.pow_mul]

/-- The number with digits `ds` to base `b`, the lowest first. -/
def ofDigits (b : Nat) (ds : List Nat) : Nat := ds.foldr (fun d acc => d + b * acc) 0

theorem ofDigits_cons (b d : Nat) (ds : List Nat) : ofDigits b (d :: ds) = d + b * ofDigits b ds := rfl

theorem ofDigits_append_single (b : Nat) (ds : List Nat) (d : Nat) :
    ofDigits b (ds ++ [d]) = ofDigits b ds + d * b ^ ds.length := by
  induction ds with
  | nil => simp [ofDigits]
  | cons x ds ih =>
    rw [List.cons_append, ofDigits_cons, ih, ofDigits_cons, List.length_cons, Nat.pow_succ', Nat.mul_add, Nat.add_assoc,
      Nat.mul_left_comm]

/-- A number of n digits is below the n-th power of its base. -/
theorem ofDigits_lt {b : Nat} {ds : List Nat} (hds : ∀ d ∈ ds, d < b) : ofDigits b ds < b ^ ds.length := by
  induction ds with
  | nil => exact Nat.one_pos
  | cons d ds ih =>
    obtain ⟨hd, hds⟩ := List.forall_mem_cons.1 hds
    rw [ofDigits_cons, List.length_cons, Nat.pow_succ']
    calc d + b * ofDigits b ds < b + b * ofDigits b ds := Nat.add_lt_add_right hd _
      _ = b * (ofDigits b ds + 1) := by rw [Nat.mul_succ, Nat.add_comm]
      _ ≤ b * b ^ ds.length := Nat.mul_le_mul_left b (ih hds)

/-- Digit k of a number given by its digits. -/
theorem ofDigits_div_pow_mod {b : Nat} {ds : List Nat} (hds : ∀ d ∈ ds, d < b) (k : Nat) :
    ofDigits b ds / b ^ k % b = ds.getD k 0 := by
  induction ds generalizing k with
  | nil => simp [ofDigits]
  | cons d ds ih =>
    obtain ⟨hd, hds⟩ := List.forall_mem_cons.1 hds
    rw [ofDigits_cons]
    cases k with
    | zero => simp [Nat.mod_eq_of_lt hd]
    | succ k =>
      rw [Nat.pow_succ', ← Nat.div_div_eq_div_mul, Nat.add_mul_div_left _ _ (by omega), Nat.div_eq_of_lt hd,
        Nat.zero_add, ih hds, List.getD_cons_succ]

/-- A sum of digits, each at its own place. -/
theorem ofDigits_map_range (b n : Nat) (g : Nat → Nat) :
    ofDigits b ((List.range n).map g) = ((List.range n).map (fun k => g k * b ^ k)).sum := by
  induction n with
  | zero => rfl
  | succ n ih =>
    rw [List.range_succ, List.map_append, List.map_append, List.sum_append, List.map_singleton,
      ofDigits_append_single, ih]
    simp

theorem ofLanes_eq (f : Fmt) (rs : List Nat) :
    ofLanes f rs = BitVec.ofNat 64 (ofDigits (2 ^ f.bits) (rs.map (· % 2 ^ f.bits))) := by
  simp only [ofLanes, ofDigits, List.foldr_map, Nat.mul_comm]

theorem intLanes_eq (n w : Nat) (f : Nat → Int) : intLanes n w f =
    BitVec.ofNat 64 (ofDigits (2 ^ w) ((List.range n).map (fun k => (f k % (2 ^ w : Nat)).toNat))) := by
  rw [ofDigits_map_range, List.sum_eq_foldl, List.foldl_map, intLanes]
  simp only [Nat.pow_mul]

theorem bitsN_word_lane {w : Nat} {ds : List Nat} (hw : 0 < w) (hds : ∀ d ∈ ds, d < 2 ^ w)
    (hfit : ds.length * w ≤ 64) (k : Nat) :
    bitsN (BitVec.ofNat 64 (ofDigits (2 ^ w) ds)).toNat (w * k + w - 1) (w * k) = ds.getD k 0 := by
  have hlt : ofDigits (2 ^ w) ds < 2 ^ 64 := calc
    ofDigits (2 ^ w) ds < (2 ^ w) ^ ds.length := ofDigits_lt hds
    _ = 2 ^ (ds.length * w) := by rw [← Nat.pow_mul, Nat.mul_comm]
    _ ≤ 2 ^ 64 := Nat.pow_le_pow_right (by decide) hfit
  rw [BitVec.toNat_ofNat, Nat.mod_eq_of_lt hlt, bitsN_lane hw, ofDigits_div_pow_mod hds]

theorem varLanes_fit (v : BitVec 2) : varLanes v * (varFmt v).bits ≤ 64 := by
  revert v
  decide

theorem Fmt.bits_pos (f : Fmt) : 0 < f.bits := by
  cases f <;> decide

/-- A lane of a packed result is the code computed for it (R159, R219). -/
theorem laneOf_lanes (v : BitVec 2) (f : Nat → Nat × Flags) {k : Nat} (hk : k < varLanes v) :
    laneOf (varFmt v) (lanes v f).1 k = (f k).1 % 2 ^ (varFmt v).bits := by
  have hword : (lanes v f).1 = BitVec.ofNat 64 (ofDigits (2 ^ (varFmt v).bits)
      ((List.range (varLanes v)).map (fun k => (f k).1 % 2 ^ (varFmt v).bits))) := by
    simp [lanes, joinLanes, ofLanes_eq, Function.comp_def]
  rw [laneOf, hword, bitsN_word_lane (varFmt v).bits_pos]
  · simp [hk]
  · simpa using fun k _ => Nat.mod_lt (f k).1 (Nat.two_pow_pos (varFmt v).bits)
  · simpa using varLanes_fit v

theorem intLanes_digit_lt (w : Nat) (f : Nat → Int) (k : Nat) : (f k % (2 ^ w : Nat)).toNat < 2 ^ w := by
  have hpos : (0 : Int) < (2 ^ w : Nat) := by exact_mod_cast Nat.two_pow_pos w
  have hlt := Int.emod_lt_of_pos (f k) hpos
  omega

theorem bitsN_intLanes {n w k : Nat} (f : Nat → Int) (hw : 0 < w) (hfit : n * w ≤ 64) (hk : k < n) :
    bitsN (intLanes n w f).toNat (w * k + w - 1) (w * k) = (f k % (2 ^ w : Nat)).toNat := by
  rw [intLanes_eq, bitsN_word_lane hw]
  · simp [hk]
  · simpa using fun k _ => intLanes_digit_lt w f k
  · simpa using hfit

theorem intLanes_lt (n w : Nat) (f : Nat → Int) : (intLanes n w f).toNat < 2 ^ (n * w) := by
  have hlt := ofDigits_lt (b := 2 ^ w) (ds := (List.range n).map (fun k => (f k % (2 ^ w : Nat)).toNat))
    (by simpa using fun k _ => intLanes_digit_lt w f k)
  rw [List.length_map, List.length_range, ← Nat.pow_mul, Nat.mul_comm] at hlt
  rw [intLanes_eq, BitVec.toNat_ofNat]
  exact Nat.lt_of_le_of_lt (Nat.mod_le _ _) hlt

/-- Settles O24: each mode by the bounds of its rounding, sums by the total that they build, lanes by the digits of the
word that they make up. -/
theorem numberRules : Obligations.NumberRules := by
  unfold Obligations.NumberRules
  exact ⟨fun neg m k => ⟨roundInt_nearest_even_bounds neg m k, roundInt_toward_zero_bounds neg m k,
      roundInt_down_bounds neg m k, roundInt_up_bounds neg m k, roundInt_nearest_away_bounds neg m k,
      fun mode => roundInt_inexact mode neg m k⟩,
    fun mode ts hts => sumVals_finite mode hts,
    fun v f k hk => laneOf_lanes v f hk,
    fun n w f k hw hfit hk => bitsN_intLanes f hw hfit hk,
    fun n w f _ => intLanes_lt n w f⟩

end Sys2Proof.Machine
end

section
/-! Float comparison, classes, conversions and draws, and the rounding modes that are refused (R161, R172, R218, R221,
R223). -/

namespace Sys2Proof.Machine

variable {α : Type} {s s1 s2 : State}

/-! ### RM 5 to 7 (R161) -/

theorem roundMode_ok (h : s.th.rm < 5) : roundMode s = .ok s.th.rm s := by
  rw [roundMode, get_bind, if_neg (Nat.not_le.2 h)]
  rfl

theorem roundMode_illegal (h : 5 ≤ s.th.rm) : roundMode s = .error (.trap ⟨cILLEGAL, s.baseInfo⟩) s := by
  rw [roundMode, get_bind, if_pos h]
  rfl

/-- What the refusal of a rounding mode reads: the mode and the base parcel. -/
structure State.SameMode (s u : State) : Prop where
  rm : u.th.rm = s.th.rm
  info : u.baseInfo = s.baseInfo

theorem State.SameMode.self : s.SameMode s := ⟨rfl, rfl⟩

theorem State.SameMode.trans (h : s.SameMode s1) (h' : s1.SameMode s2) : s.SameMode s2 :=
  ⟨h'.rm.trans h.rm, h'.info.trans h.info⟩

/-- A change of the thread that leaves FCTL alone. -/
theorem State.sameMode_modTh {f : Thread → Thread} (h : (f s.th).fctl = s.th.fctl) : s.SameMode (s.modTh f) :=
  ⟨by rw [State.th_modTh, Thread.rm, h, Thread.rm], rfl⟩

theorem State.sameMode_modMyCore (f : Core → Core) : s.SameMode (s.modMyCore f) := ⟨rfl, rfl⟩

theorem killF_sameMode (r : Reg) (u : Bool) : ∃ s1, killF r u s = .ok () s1 ∧ s.SameMode s1 := by
  refine ⟨_, killF_ok r u, ?_⟩
  split
  · exact State.sameMode_modTh rfl
  · exact .self

theorem killS_sameMode {r : Reg} {u : Bool} (h : killS r u s = .ok () s1) : s.SameMode s1 := by
  rw [killS_ok] at h
  cases h
  split
  · exact State.sameMode_modTh rfl
  · exact .self

/-- A pop takes an entry of a queue, of the thread for q0 to q3, of the core for q4 to q7. -/
theorem popPort_sameMode {n : Nat} {v : Word} (h : s.popPort n = some (v, s1)) : s.SameMode s1 := by
  unfold State.popPort at h
  split at h
  case h_1 | h_2 =>
    split at h <;> cases h
    exact State.sameMode_modTh rfl
  case h_3 | h_4 =>
    split at h
    · split at h <;> cases h
      exact State.sameMode_modTh rfl
    · exact nomatch h
  case h_5 | h_6 | h_7 | h_8 =>
    split at h <;> cases h
    exact State.sameMode_modMyCore _

theorem readS_sameMode {r : Reg} {v : Word} (h : readS r s = .ok v s1) : s.SameMode s1 := by
  obtain ⟨-, -, rfl⟩ | ⟨-, -, -, rfl⟩ | ⟨-, hpop⟩ := readS_cases h
  · exact .self
  · exact .self
  · exact popPort_sameMode hpop

theorem read_un_sameMode {o : Un} {a : Word} (h : o.read s = .ok a s1) : s.SameMode s1 := by
  obtain ⟨a', u, hread, h⟩ := bind_inv h
  obtain ⟨_, u', hkill, h⟩ := bind_inv h
  cases h
  exact (readS_sameMode hread).trans (killS_sameMode hkill)

theorem readF_un_sameMode (o : Un) (h : s.myCore.test = false) : ∃ a s1, o.readF s = .ok a s1 ∧ s.SameMode s1 := by
  obtain ⟨u, hkill, hsame⟩ := killF_sameMode (s := s) o.a o.ua
  exact ⟨_, u, (bind_ok (readF_ok o.a h)).trans (bind_ok hkill), hsame⟩

theorem readF_bin_sameMode (o : Bin) (h : s.myCore.test = false) : ∃ x s1, o.readF s = .ok x s1 ∧ s.SameMode s1 := by
  obtain ⟨u, hkill, hsame⟩ := killF_sameMode (s := s) o.a o.ua
  obtain ⟨u', hkill', hsame'⟩ := killF_sameMode (s := u) o.b o.ub
  exact ⟨_, u', (bind_ok (readF_ok o.a h)).trans ((bind_ok (readF_ok o.b h)).trans ((bind_ok hkill).trans
    (bind_ok hkill'))), hsame.trans hsame'⟩

/-- A body that has read its operands stops at its rounding mode. -/
theorem roundMode_bind_illegal {f : Nat → Sem α} (hsame : s.SameMode s1) (hrm : 5 ≤ s.th.rm) :
    (roundMode >>= f) s1 = .error (.trap ⟨0x01, s.baseInfo⟩) s1 := by
  have hill := roundMode_illegal (hsame.rm ▸ hrm)
  rw [hsame.info] at hill
  exact bind_error hill

section Refused
variable (hfit : s.fits false) (htest : s.myCore.test = false) (hrm : 5 ≤ s.th.rm)
include hfit htest hrm

theorem floatBin_illegal (g : Nat → Word → Word → Word × Flags) (o : Bin) :
    floatBin g o s = .next (s.raise s.cur ⟨0x01, s.baseInfo⟩) := by
  obtain ⟨x, u, hread, hsame⟩ := readF_bin_sameMode o htest
  exact plain_raise hfit ((bind_ok hread).trans (roundMode_bind_illegal hsame hrm))

theorem floatUn_illegal (g : Nat → Word → Word × Flags) (o : Un) :
    floatUn g o s = .next (s.raise s.cur ⟨0x01, s.baseInfo⟩) := by
  obtain ⟨x, u, hread, hsame⟩ := readF_un_sameMode o htest
  exact plain_raise hfit ((bind_ok hread).trans (roundMode_bind_illegal hsame hrm))

theorem floatFma_illegal (negP negD : Bool) (o : Bin) (v : BitVec 2) :
    floatFma negP negD o v s = .next (s.raise s.cur ⟨0x01, s.baseInfo⟩) := by
  obtain ⟨x, u, hread, hsame⟩ := readF_bin_sameMode o htest
  exact plain_raise hfit ((bind_ok (readF_ok o.d htest)).trans
    ((bind_ok hread).trans (roundMode_bind_illegal hsame hrm)))

theorem exec_cmac_illegal (o : Bin) : exec (.cmac o) s = .next (s.raise s.cur ⟨0x01, s.baseInfo⟩) := by
  obtain ⟨x, u, hread, hsame⟩ := readF_bin_sameMode o htest
  exact plain_raise hfit ((bind_ok (readF_ok o.d htest)).trans
    ((bind_ok hread).trans (roundMode_bind_illegal hsame hrm)))

theorem exec_fcvti_illegal (o : Un) : exec (.fcvti o) s = .next (s.raise s.cur ⟨0x01, s.baseInfo⟩) := by
  obtain ⟨x, u, hread, hsame⟩ := readF_un_sameMode o htest
  exact plain_raise hfit ((bind_ok hread).trans (roundMode_bind_illegal hsame hrm))

theorem exec_fcvtf_illegal {o : Un} {a : Word} (hread : o.read s = .ok a s1) :
    exec (.fcvtf o) s = .next (s.raise s.cur ⟨0x01, s.baseInfo⟩) :=
  plain_raise hfit ((bind_ok (noTest_ok htest)).trans ((bind_ok hread).trans
    (roundMode_bind_illegal (read_un_sameMode hread) hrm)))

theorem exec_fcvt_illegal (o : Un) {src dst : BitVec 3} (hok : convOk src.toNat dst.toNat = true)
    (hrounds : convRounds src.toNat dst.toNat = true) :
    exec (.fcvt o src dst) s = .next (s.raise s.cur ⟨0x01, s.baseInfo⟩) := by
  obtain ⟨x, u, hread, hsame⟩ := readF_un_sameMode o htest
  refine plain_raise (s1 := u) hfit ((bind_ok hread).trans ((guard_passes (by simp [hok])).trans ?_))
  rw [if_pos hrounds]
  exact roundMode_bind_illegal hsame hrm

/-- Every float instruction that rounds, whatever its operands. -/
theorem exec_rounding_illegal (o : Bin) (u : Un) (v : BitVec 2) :
    ∀ i ∈ [Instr.fadd o v, .fsub o v, .fmul o v, .fdiv o v, .fma o v, .fms o v, .fnma o v, .cmac o, .fsqrt u v,
      .frnd u v, .fcvti u], exec i s = .next (s.raise s.cur ⟨0x01, s.baseInfo⟩) := by
  have hbin := fun g => floatBin_illegal hfit htest hrm g o
  have hun := fun g => floatUn_illegal hfit htest hrm g u
  have hfma := fun p d => floatFma_illegal hfit htest hrm p d o v
  simp only [List.forall_mem_cons]
  exact ⟨hbin _, hbin _, hbin _, hbin _, hfma _ _, hfma _ _, hfma _ _, exec_cmac_illegal hfit htest hrm o, hun _, hun _,
    exec_fcvti_illegal hfit htest hrm u, nofun⟩

end Refused

/-! ### FCMP and FCLASS (R218) -/

/-- The bit of each lane at its place. -/
theorem foldr_bits (n : Nat) (f : Nat → Bool × Flags) :
    ((List.range n).map f).foldr (fun r acc => b2n r.1 + 2 * acc) 0 =
      ((List.range n).map (fun k => b2n (f k).1 * 2 ^ k)).sum := by
  rw [← ofDigits_map_range, ofDigits, List.foldr_map, List.foldr_map]

/-- A C32 comparison combines both components into one bit, EQ by and; the others give a bit a lane. -/
theorem fcmp_value (v c : BitVec 2) (r : Nat → Bool × Flags) :
    (if v = 1 then
      b2n (if v = 1 then
          (if c = 0 then ((List.range (varLanes v)).map r).all (fun r => r.1)
            else ((List.range (varLanes v)).map r).any (fun r => r.1))
        else false)
      else ((List.range (varLanes v)).map r).foldr (fun r acc => b2n r.1 + 2 * acc) 0) =
    if v = 1 then (if c = 0 then b2n ((r 0).1 && (r 1).1) else b2n ((r 0).1 || (r 1).1))
      else ((List.range (varLanes v)).map (fun k => b2n (r k).1 * 2 ^ k)).sum := by
  by_cases hv : v = 1
  · have hlanes : (List.range (varLanes v)).map r = [r 0, r 1] := by subst hv; rfl
    rw [if_pos hv, if_pos hv, if_pos hv, hlanes]
    split <;> simp
  · rw [if_neg hv, if_neg hv, foldr_bits]

theorem exec_fcmp {o : Bin} {v c : BitVec 2} {a b : Word} (hfit : s.fits false) (hread : o.readF s = .ok (a, b) s1)
    (hw : (let r := fun k => condVal c.toNat (laneVal (varFmt v) a k) (laneVal (varFmt v) b k)
      let n := varLanes v
      writeS o.d (BitVec.ofNat 64 (if v = 1 then (if c = 0 then b2n ((r 0).1 && (r 1).1) else b2n ((r 0).1 || (r 1).1))
          else ((List.range n).map (fun k => b2n (r k).1 * 2 ^ k)).sum))
        (s1.raiseFlags s1.cur ((List.range n).foldl (fun x k => x ||| (r k).2) 0))) = .ok () s2) :
    exec (.fcmp o v c) s = .next s2.done := by
  refine plain_ok hfit ((bind_ok hread).trans ?_)
  dsimp only at hw ⊢
  rw [List.foldl_map, fcmp_value]
  exact hw

theorem exec_fclass {o : Un} {v : BitVec 2} {a : Word} (hfit : s.fits false) (hread : o.readF s = .ok a s1)
    (hw : writeS o.d (BitVec.ofNat 64 ((List.range (varLanes v)).foldl (fun r k =>
      r + 2 ^ (classOf (varFmt v) (laneOf (varFmt v) a k)) * 2 ^ (16 * k)) 0)) s1 = .ok () s2) :
    exec (.fclass o v) s = .next s2.done :=
  plain_ok hfit ((bind_ok hread).trans hw)

/-! ### FCVT (R221) -/

theorem exec_fcvt {o : Un} {src dst : BitVec 3} {a : Word} (hfit : s.fits false) (hread : o.readF s = .ok a s1)
    (hok : convOk src.toNat dst.toNat = true) (hrm : convRounds src.toNat dst.toNat = true → s1.th.rm < 5)
    (hw : (let r := convElem src.toNat dst.toNat s1.myCore.tbl4
            (if convRounds src.toNat dst.toNat then s1.th.rm else 0) (a.toNat % 2 ^ fmtBits src.toNat)
           writeF o.d (BitVec.ofNat 64 r.1) (s1.raiseFlags s1.cur r.2)) = .ok () s2) :
    exec (.fcvt o src dst) s = .next s2.done := by
  refine plain_ok hfit ((bind_ok hread).trans ((guard_passes (by simp [hok])).trans ?_))
  by_cases hrounds : convRounds src.toNat dst.toNat = true
  · rw [if_pos hrounds] at hw ⊢
    exact (bind_ok (roundMode_ok (hrm hrounds))).trans hw
  · rw [if_neg hrounds] at hw ⊢
    exact hw

/-! ### FRNG (R223) -/

theorem overflowCode_le (p mode : Nat) (neg : Bool) :
    overflowCode p mode neg ≤ 255 * 2 ^ (p - 1) + b2n neg * 2 ^ (p + 7) := by
  unfold overflowCode
  dsimp only
  omega

/-- A code of a format with `p` bits of precision has one sign bit, eight exponent bits and p - 1 fraction bits. -/
theorem roundIeee_lt {p : Nat} (hp : 0 < p) (mode : Nat) (x : Val) : (roundIeee p mode x).1 < 2 ^ (p + 8) := by
  obtain ⟨u, rfl⟩ : ∃ u, p = u + 1 := ⟨p - 1, by omega⟩
  have hsign : 2 ^ (u + 1 + 7) = 256 * 2 ^ u := by rw [Nat.add_assoc, Nat.pow_add, Nat.mul_comm]
  have hall : 2 ^ (u + 1 + 8) = 512 * 2 ^ u := by rw [Nat.add_assoc, Nat.pow_add, Nat.mul_comm]
  have hquiet : 2 ^ (u + 1 - 2) ≤ 2 ^ u := Nat.pow_le_pow_right (by decide) (by omega)
  have hneg : ∀ n : Bool, b2n n * 2 ^ (u + 1 + 7) ≤ 256 * 2 ^ u := by
    intro n
    cases n <;> simp [b2n, hsign]
  have hpos := Nat.two_pow_pos u
  have hcode : ∀ (n : Bool) (c : Nat), c ≤ 255 * 2 ^ u → c + b2n n * 2 ^ (u + 1 + 7) < 512 * 2 ^ u := by
    intro n c hc
    have hbit := hneg n
    omega
  unfold roundIeee
  rw [hall]
  cases x with
  | nan g =>
    show 255 * 2 ^ u + 2 ^ (u + 1 - 2) < 512 * 2 ^ u
    omega
  | inf n => exact hcode n _ (Nat.le_refl _)
  | fin n m e =>
    dsimp only
    split
    · simpa using hcode n 0 (Nat.zero_le _)
    split
    · exact Nat.lt_of_le_of_lt (overflowCode_le _ _ _) (hcode n _ (Nat.le_refl _))
    · rename_i hcase
      exact hcode n _ (Nat.le_of_lt (Nat.not_le.1 hcase))

theorem ofLanes_unitCode (m k : Nat) : ofLanes .fp32 [unitCode .fp32 m k] = BitVec.ofNat 64 (unitCode .fp32 m k) := by
  have hlt : unitCode .fp32 m k < 2 ^ Fmt.fp32.bits := roundIeee_lt (p := 24) (by decide) 0 _
  rw [ofLanes_eq, List.map_singleton, Nat.mod_eq_of_lt hlt, ofDigits_cons]
  rfl

theorem draw_apply : draw s = .ok (genStep s.th.genLo s.th.genHi).1 (s.modTh (fun t => { t with
    genLo := (genStep s.th.genLo s.th.genHi).2.1, genHi := (genStep s.th.genLo s.th.genHi).2.2 })) := rfl

theorem variant_cases (v : BitVec 2) : v = 0 ∨ v = 1 ∨ v = 2 ∨ v = 3 := by
  revert v
  decide

/-- The value of FRNG from an output of the generator (R223). -/
def frngWord (v : BitVec 2) (g : Word) : Word :=
  let x := g.toNat
  if v = 1 then g
  else if v = 3 then ofLanes .bf16 ((List.range 4).map (fun k => unitCode .bf16 (bitsN x (63 - 8 * k) (56 - 8 * k)) 8))
  else ofLanes .fp32 ((List.range (if v = 2 then 2 else 1)).map (fun k =>
    unitCode .fp32 (bitsN x (63 - 24 * k) (40 - 24 * k)) 24))

theorem exec_frng {d : Reg} {v : BitVec 2} (hfit : s.fits false) (htest : s.myCore.test = false)
    (hw : writeF d (frngWord v (genStep s.th.genLo s.th.genHi).1) (s.modTh (fun t => { t with
      genLo := (genStep s.th.genLo s.th.genHi).2.1, genHi := (genStep s.th.genLo s.th.genHi).2.2 })) = .ok () s1) :
    exec (.frng d v) s = .next s1.done := by
  refine plain_ok hfit ((bind_ok (noTest_ok htest)).trans ((bind_ok draw_apply).trans ?_))
  obtain rfl | rfl | rfl | rfl := variant_cases v
  · exact ofLanes_unitCode _ _ ▸ hw
  · exact hw
  · exact hw
  · exact hw

/-- Settles O23: each test, class, conversion and draw by its value; a mode of 5 to 7 traps after the operands are read,
which changes neither the mode nor the base parcel. -/
theorem floatTest : Obligations.FloatTest := by
  unfold Obligations.FloatTest
  exact ⟨fun s s1 s2 o v c a b hfit hread hw => exec_fcmp hfit hread hw,
    fun s s1 s2 o v a hfit hread hw => exec_fclass hfit hread hw,
    fun s s1 s2 o src dst a hfit hread hok hrm hw => exec_fcvt hfit hread hok hrm hw,
    fun s s1 d v hfit htest hw => exec_frng hfit htest hw,
    fun s o u v hfit htest hrm => exec_rounding_illegal hfit htest hrm o u v,
    fun s s1 u a hfit htest hrm hread => exec_fcvtf_illegal hfit htest hrm hread,
    fun s u src dst hfit htest hrm hok hrounds => exec_fcvt_illegal hfit htest hrm u hok hrounds⟩

end Sys2Proof.Machine
end

section
/-! MAU commands as they issue, MWAIT, TALLOC and TWM (R185, R188, R195, R196, R205). -/

namespace Sys2Proof.Machine

variable {α β : Type} {s s1 s2 : State}

/-! ### Commands enter their core's queue (R185) -/

/-- A check made under a condition, which passes where it is made: the computation goes on with `n`. -/
theorem check_passes {p : Prop} [Decidable p] {m : Sem α} {n : Sem β} {a : α} (h : p → m s = .ok a s) :
    (if p then m >>= fun _ => n else n) s = n s := by
  split
  · exact bind_ok (h ‹p›)
  · rfl

/-- A MAU command of any mnemonic reads its operands by its form, then issues. -/
theorem exec_of_mauForm {i : Instr} {m : Sem (List Word)} {g : Desig} (h : mauForm i = some (m, g)) :
    exec i s = mauPlain m i g s (mauNames i) := by
  unfold mauForm at h
  split at h <;> cases h <;> rfl

/-- A command that nothing holds back enters its core's queue as it stands. -/
theorem mauIssue_ok {i : Instr} {xs : List Word} {g : Desig}
    (hmode : s.mauRounds s.th.part s.th.level s.kid i xs = true → s.th.rm < 5) (hspec : s.speculative s.th = false)
    (hroom : s.myCore.mauWaiting.length < 8) (hcapture : s.th.capture.left = 0 ∨ s.th.capture.cmds = []) :
    mauIssue i xs g s = .ok () (s.mauEnter (s.mauCmd i xs g)) := by
  have hclosed : ¬(s.th.capture.left ≠ 0 && s.th.capture.cmds ≠ []) = true := by
    simpa [Decidable.or_iff_not_imp_left] using hcapture
  rw [mauIssue, get_bind]
  exact (check_passes (fun h => roundMode_ok (hmode h))).trans ((bind_ok (irrevocable_ok hspec)).trans
    ((guard_passes hclosed).trans (guard_passes (Nat.not_le.2 hroom))))

theorem mauPlain_ok {m : Sem (List Word)} {i : Instr} {g : Desig} {mine : Bool} {xs : List Word} (hfit : s.fits false)
    (htest : mine = true → s.myCore.test = false) (hread : m s = .ok xs s1) (hissue : mauIssue i xs g s1 = .ok () s2) :
    mauPlain m i g s mine = .next s2.done :=
  plain_ok hfit ((check_passes (fun h => noTest_ok (htest h))).trans ((bind_ok hread).trans hissue))

/-! ### MWAIT (R205) -/

theorem deliverVec_ok (h : s.th.pendVec = none) : deliverVec s = .ok () s := by
  rw [deliverVec, get_bind, h]
  rfl

theorem deliverMau_ok (h : s.th.pendMau = none) : deliverMau s = .ok () s := by
  rw [deliverMau, get_bind, h]
  rfl

theorem waitMau_ok (hidle : s.mauBusy s.cur = false) (hmau : s.th.pendMau = none) : waitMau s = .ok () s := by
  rw [waitMau, get_bind]
  exact (guard_passes (ne_true_of_eq_false hidle)).trans (deliverMau_ok hmau)

theorem exec_mwait (hfit : s.fits false) (hvec : s.th.pendVec = none) (hidle : s.mauBusy s.cur = false)
    (hmau : s.th.pendMau = none) : exec .mwait s = .next s.done :=
  plain_ok hfit ((bind_ok (deliverVec_ok hvec)).trans (waitMau_ok hidle hmau))

/-! ### TALLOC and TWM (R195, R196) -/

/-- What TALLOC does and answers for the operand `v`: 2 for one that is no allocation, 1 where too few units are free. -/
def tallocOf (d : Reg) (v : Word) (s : State) : EStateM.Result Stop State Unit :=
  let nb := bitsN v.toNat 5 0
  let nt := bitsN v.toNat 13 8
  if bitsN v.toNat 63 14 ≠ 0 ∨ bitsN v.toNat 7 6 ≠ 0 ∨ 48 < nb ∨ 48 < nt then writeS d 2 s
  else if s.freeUnits s.kid Core.tiles + s.myCore.tiles < nt ∨
    s.freeUnits s.kid Core.bslots + s.myCore.bslots < nb then writeS d 1 s
  else writeS d 0 (s.allocate s.cid nt nb)

/-- TALLOC allocates once no command of its core is left. -/
theorem exec_talloc {o : Un} {v : Word} (hfit : s.fits false) (hread : o.read s = .ok v s1)
    (hspec : s1.speculative s1.th = false) (hidle : s1.myCore.mauq = []) (hwrite : tallocOf o.d v s1 = .ok () s2) :
    exec (.talloc o) s = .next s2.done := by
  refine plain_ok hfit ((bind_ok hread).trans ((bind_ok (irrevocable_ok hspec)).trans ?_))
  rw [get_bind]
  refine (guard_passes (not_not_intro hidle)).trans ?_
  simp only [ite_sem, Bool.or_eq_true, decide_eq_true_eq, or_assoc]
  exact hwrite

theorem exec_twm {d t : Reg} (hfit : s.fits false) (htest : s.myCore.test = false)
    (hwrite : writeS d (if t.toNat < s.myCore.tiles then BitVec.ofNat 64 (s.tile s.cid t.toNat).twm else -1) s =
      .ok () s1) : exec (.twm d t) s = .next s1.done :=
  plain_ok hfit ((bind_ok (noTest_ok htest)).trans hwrite)

/-- Settles O31: a command of any mnemonic by its form, which passes every check of the issue; MWAIT, TALLOC and TWM each
by the operations of their body in order. -/
theorem mauIssueResult : Obligations.MauIssue := by
  unfold Obligations.MauIssue
  refine ⟨?_, fun s hfit hvec hidle hmau => exec_mwait hfit hvec hidle hmau,
    fun s s1 s2 o v hfit hread hspec hidle hwrite => exec_talloc hfit hread hspec hidle hwrite,
    fun s s1 d t hfit htest hwrite => exec_twm hfit htest hwrite⟩
  intro s s1 i m g xs hform hfit htest hread hmode hspec hroom hcapture
  rw [exec_of_mauForm hform]
  exact mauPlain_ok hfit htest hread (mauIssue_ok hmode hspec hroom hcapture)

end Sys2Proof.Machine
end

section
/-! A TST whose row fills a granule on which a continuation is suspended: the continuation becomes ready, and its record
lies in chip memory (R66, R107, R194, R247, R282). -/

namespace Sys2Proof.Machine

/-- A continuation that an LDFE has suspended on granule 0 of the scratchpad of cluster 0 (R107, R281). -/
def suspendedOnGranule : Cont :=
  { st := 3, stamp := 0, launch := 0, inLaunch := false, cluster := 0, core := 0, kind := 4, obj := 0x1000000, queue := 0 }

/-- Its record stands at 0x1_0000_0400, which the page tables of partition 0 map to 0x20400; there WAIT names kind 4 and the
granule, and STATE has ST 3 (R278). -/
def granuleWaitState : State :=
  { State.reset with
    parts := [(0, {
      active := true, pamax := 0x8000000000, ptroot := 0x30000, conts := [(0x100000400, some suspendedOnGranule)] })]
    mem := [(0x20423, 1), (0x20427, 0x40), (0x2042F, 0x60), (0x30000, 1), (0x30002, 4), (0x40400, 1), (0x40402, 5),
      (0x50000, 0x3F), (0x50002, 2)] }

/-- A TST of tile 0 to window 0 of cluster 0, whose format is FP32. -/
def tstToGranule : MauCmd := granuleWaitState.mauCmd (.tst ⟨0, 0, 0, false, false⟩) [0x1000000] .none

/-- ST of the record. -/
def recordST (s : State) : Nat := bitsN (s.pread 0x20428 8) 63 61

/-- A computation that answers `a`, as its answer tells: options are compared by evaluation. -/
theorem eq_ok_of_toOption {ε α : Type} {r : Except ε α} {a : α} (h : r.toOption = some a) : r = .ok a := by
  cases r with
  | ok b => exact congrArg Except.ok (Option.some.inj h)
  | error e => exact nomatch h

theorem tstToGranule_operand :
    granuleWaitState.tileOperand tstToGranule (tstToGranule.arg 0) = .ok (⟨0, 0, false, 0⟩, 0) :=
  eq_ok_of_toOption (by decide +kernel)

/-- Row 0 fills granule 0, and so writes ST 1 to the record (R282). -/
theorem tstToGranule_readies :
    (granuleWaitState.tileRow tstToGranule 0).toOption.map (fun x => recordST x.1) = some 1 := by decide +kernel

/-- Refutes O32: the clause on TST says that chip memory stays as it was, but a row that fills a granule on which a
continuation is suspended makes it ready (R107, R247), which writes its record, here ST 3 to 1 in chip memory. -/
theorem not_mauEvents : ¬ Obligations.MauEvents := by
  unfold Obligations.MauEvents
  intro ⟨_, _, _, _, _, _, _, _, _, _, htst, _⟩
  obtain ⟨u, hrow, hmem, -⟩ := htst granuleWaitState tstToGranule ⟨0, 0, 0, false, false⟩ ⟨0, 0, false, 0⟩ 0 0 rfl
    tstToGranule_operand rfl rfl (by decide)
  have hready : recordST u = 1 := by
    have h := tstToGranule_readies
    rw [hrow] at h
    exact Option.some.inj h
  have hsuspended : recordST u = 3 := by
    rw [recordST, State.pread, hmem]
    decide +kernel
  exact absurd (hready.symm.trans hsuspended) (by decide)

end Sys2Proof.Machine
end

section
/-! Float, complex, conversion and packed instructions by their form: the value computed, the flags raised, the
destination written (R159, R160, R216 to R222). -/

namespace Sys2Proof.Machine

variable {s s1 s2 : State} {m : Sem (Word × Flags)} {toF : Bool} {d : Reg}

/-! ### How a form ends -/

/-- The flags of the result are raised, then its value is written. -/
def floatEnd (toF : Bool) (d : Reg) (r : Word × Flags) : Sem Unit := do
  flags r.2
  (if toF then writeF else writeS) d r.1

/-- No flag, no effect. -/
theorem flags_zero_bind (n : Sem Unit) : (flags 0 >>= fun _ => n) = n := rfl

theorem plain_floatEnd {v : Word} {fl : Flags} (hfit : s.fits false) (hm : m s = .ok (v, fl) s1)
    (hw : (if toF then writeF else writeS) d v (s1.raiseFlags s1.cur fl) = .ok () s2) :
    plain (m >>= floatEnd toF d) s = .next s2.done :=
  plain_ok hfit ((bind_ok hm).trans hw)

/-! ### The shared bodies by their form -/

theorem floatBin_of_fBin {o : Bin} {g : Nat → Word → Word → Word × Flags} (h : fBin o g = some (m, toF, d)) :
    floatBin g o s = plain (m >>= floatEnd toF d) s := by
  cases h
  simp only [floatBin, bind_assoc, pure_bind]
  rfl

theorem floatUn_of_fUn {o : Un} {g : Nat → Word → Word × Flags} (h : fUn o g = some (m, toF, d)) :
    floatUn g o s = plain (m >>= floatEnd toF d) s := by
  cases h
  simp only [floatUn, bind_assoc, pure_bind]
  rfl

theorem moveF_of_fMove {o : Un} {g : Word → Word} (h : fMove o g = some (m, toF, d)) :
    moveF g o s = plain (m >>= floatEnd toF d) s := by
  cases h
  simp only [moveF, floatEnd, bind_assoc, pure_bind, flags_zero_bind]
  rfl

theorem selectInstr_of_fSelect {isMax : Bool} {o : Bin} {v : BitVec 2} (h : fSelect isMax o v = some (m, toF, d)) :
    selectInstr isMax v o s = plain (m >>= floatEnd toF d) s := by
  cases h
  simp only [selectInstr, bind_assoc, pure_bind]
  rfl

theorem packedBin_of_fPacked {o : Bin} {v : BitVec 2} {g : Int → Int → Int} (h : fPacked o v g = some (m, toF, d)) :
    packedBin g v o s = plain (m >>= floatEnd toF d) s := by
  cases h
  simp only [packedBin, floatEnd, bind_assoc, pure_bind, flags_zero_bind]
  rfl

/-- A multiply-add is one exact sum a component, rounded once. -/
theorem fused_eq (negP negD : Bool) (v : BitVec 2) (mode : Nat) (a b d : Word) : fused negP negD v mode a b d =
    if v = 1 then
      roundedPair mode
        (sumVals mode ((productRe a b).map (negated negP) ++ [negated negD (reOf d, false)]))
        (sumVals mode ((productIm a b).map (negated negP) ++ [negated negD (imOf d, false)]))
    else lanes v (fun k => rounded v mode (sumVals mode
      [negated negP ((laneVal (varFmt v) a k).mul (laneVal (varFmt v) b k)), negated negD (laneTerm v d k)])) := by
  unfold fused
  dsimp only
  by_cases hv : v = 1
  · subst hv
    rfl
  · rw [if_neg hv, if_neg hv]
    rfl

theorem floatFma_of_fFused {negP negD : Bool} {o : Bin} {v : BitVec 2} (h : fFused negP negD o v = some (m, toF, d)) :
    floatFma negP negD o v s = plain (m >>= floatEnd toF d) s := by
  cases h
  simp only [floatFma, bind_assoc, pure_bind, fused_eq]
  rfl

/-! ### Sums, products and quotients in a format variant (R216, R217) -/

theorem arith_lanes {op : Arith} {v : BitVec 2} (h : v = 1 → op = .add ∨ op = .sub) (mode : Nat) (a b : Word) :
    arith op v mode a b =
      lanes v (fun k => realOp op (varFmt v) mode (laneVal (varFmt v) a k) (laneVal (varFmt v) b k)) := by
  refine if_neg ?_
  simp only [Bool.and_eq_true, decide_eq_true_eq, not_and]
  intro hv
  obtain rfl | rfl := h hv <;> decide

theorem arith_add (v : BitVec 2) : arith .add v = fun mode a b =>
    lanes v (fun k => rounded v mode (sumVals mode [laneTerm v a k, laneTerm v b k])) :=
  funext fun mode => funext fun a => funext fun b => arith_lanes (fun _ => .inl rfl) mode a b

theorem arith_sub (v : BitVec 2) : arith .sub v = fun mode a b =>
    lanes v (fun k => rounded v mode (sumVals mode [laneTerm v a k, negated true (laneTerm v b k)])) :=
  funext fun mode => funext fun a => funext fun b => arith_lanes (fun _ => .inr rfl) mode a b

/-- A C32 product rounds each component once; the other variants multiply lane by lane. -/
theorem arith_mul (v : BitVec 2) : arith .mul v = fun mode a b => if v = 1 then
      roundedPair mode (sumVals mode (productRe a b)) (sumVals mode (productIm a b))
    else lanes v (fun k => rounded v mode ((laneVal (varFmt v) a k).mul (laneVal (varFmt v) b k))) := by
  funext mode a b
  by_cases hv : v = 1
  · subst hv
    rfl
  · rw [if_neg hv]
    exact arith_lanes (fun h => absurd h hv) mode a b

/-- A C32 quotient rounds each component once; the other variants divide lane by lane. -/
theorem arith_div (v : BitVec 2) : arith .div v = fun mode a b => if v = 1 then
      roundedPair mode (cquot mode (reOf b, imOf b) [(reOf a).mul (reOf b), (imOf a).mul (imOf b)])
        (cquot mode (reOf b, imOf b) [(imOf a).mul (reOf b), negated true ((reOf a).mul (imOf b))])
    else lanes v (fun k =>
      let q := (laneVal (varFmt v) a k).div (laneVal (varFmt v) b k)
      let r := rounded v mode (q.1, q.2.1)
      (r.1, r.2 ||| flagIf q.2.2 fDZ)) := by
  funext mode a b
  by_cases hv : v = 1
  · subst hv
    rfl
  · rw [if_neg hv]
    exact arith_lanes (fun h => absurd h hv) mode a b

/-! ### Every instruction by its form -/

/-- An instruction that has a form computes its value and its flags, raises them and writes it. -/
theorem exec_of_floatForm {i : Instr} (h : floatForm i = some (m, toF, d)) :
    exec i s = plain (m >>= floatEnd toF d) s := by
  unfold floatForm at h
  split at h
  -- FADD, FSUB, FMUL, FDIV
  case h_1 => exact floatBin_of_fBin (arith_add _ ▸ h)
  case h_2 => exact floatBin_of_fBin (arith_sub _ ▸ h)
  case h_3 => exact floatBin_of_fBin (arith_mul _ ▸ h)
  case h_4 => exact floatBin_of_fBin (arith_div _ ▸ h)
  -- FMIN, FMAX
  case h_5 | h_6 => exact selectInstr_of_fSelect h
  -- FSQRT, FRND
  case h_7 | h_18 => exact floatUn_of_fUn h
  -- FABS, FNEG, CONJ, CSWAP
  case h_8 | h_9 | h_16 | h_17 => exact moveF_of_fMove h
  -- FMA, FMS, FNMA
  case h_10 | h_11 | h_12 => exact floatFma_of_fFused h
  -- PADD, PSUB, PMIN, PMAX
  case h_21 | h_22 | h_23 | h_24 => exact packedBin_of_fPacked h
  -- FMVFS, FMVSF, PDOT, PSHUF, PSAT: a value without flags
  case h_13 | h_14 | h_25 | h_26 | h_27 =>
    cases h
    refine congrArg (fun b => plain b s) ?_
    simp only [floatEnd, bind_assoc, pure_bind, flags_zero_bind]
    rfl
  -- CMAC, FCVTI, FCVTF
  case h_15 | h_19 | h_20 =>
    cases h
    refine congrArg (fun b => plain b s) ?_
    simp only [bind_assoc, pure_bind]
    rfl
  case h_28 => exact nomatch h

/-- Settles O22: each instruction's body is its form followed by the flags and the write. -/
theorem floatResult : Obligations.FloatResult := by
  unfold Obligations.FloatResult
  intro s s1 s2 i m toF d v fl hform hfit hm hw
  exact (exec_of_floatForm hform).trans (plain_floatEnd hfit hm hw)

end Sys2Proof.Machine
end

section
/-! Vector instructions as they issue: the checks, the scalar sources, the entry into the VU queue or an open capture; VCFG,
SSTAT and REPV (R64, R226, R230, R231, R233, R236, R238, R239). -/

namespace Sys2Proof.Machine

variable {s s1 s2 u : State}

/-! ### Checks, guards and waits that pass -/

/-- The checks of a vector instruction change nothing where they pass. -/
theorem vecChecks_ok {i : Instr} (h : s.vecFine i) : vecChecks i s = .ok () s := by
  obtain ⟨htest, hstreams, hrounds, hform, hspec⟩ := h
  have hlast : (if vecStores i || s.th.bound (vregsOf i).d || s.th.bound (vregsOf i).a || s.th.bound (vregsOf i).b then
      irrevocable else pure ()) s = .ok () s := by
    rw [ite_sem]
    by_cases hmoves : (vecStores i || s.th.bound (vregsOf i).d || s.th.bound (vregsOf i).a ||
        s.th.bound (vregsOf i).b) = true
    · rw [if_pos hmoves]
      exact irrevocable_ok (hspec (by simpa [or_assoc] using hmoves))
    · rw [if_neg hmoves]
      rfl
  rw [vecChecks, bind_ok (noTest_ok htest), get_bind]
  refine (guard_passes ?_).trans ((guard_passes ?_).trans ?_)
  · simpa using hstreams
  · simpa using hrounds
  · dsimp only
    split
    · exact (guard_passes hform).trans hlast
    · obtain ⟨hok, h2, h7⟩ := hform
      exact (guard_passes (by simpa [hok] using ⟨h2, h7⟩)).trans hlast
    · exact (guard_passes (by simpa [Decidable.or_iff_not_imp_left] using hform)).trans hlast
    · exact (guard_passes (by simpa [Decidable.or_iff_not_imp_left] using hform)).trans hlast
    · obtain ⟨hlow, hhigh⟩ := hform
      exact (guard_passes (by omega)).trans hlast
    · exact hlast

theorem noCapture_ok (h : s.th.capture.left = 0) : noCapture s = .ok () s := by
  rw [noCapture, get_bind]
  exact guard_passes (not_not_intro h)

theorem vuDone_ok (hcapture : s.th.capture.left = 0) (hvu : s.th.vuq = []) : vuDone s = .ok () s := by
  rw [vuDone, get_bind]
  exact (guard_passes (not_not_intro hcapture)).trans (guard_passes (not_not_intro hvu))

theorem syncVec_ok (hcapture : s.th.capture.left = 0) (hvu : s.th.vuq = []) (hvec : s.th.pendVec = none) :
    syncVec s = .ok () s :=
  (bind_ok (vuDone_ok hcapture hvu)).trans (deliverVec_ok hvec)

/-- A scalar source that is no port of the VU is read as by any instruction (R230). -/
theorem vecIssueScalar_eq {r : Reg} (ud : Bool) (h : r.toNat < 56) : vecIssueScalar r ud s = Src1.read ⟨r, ud⟩ s :=
  guard_passes (Nat.not_le.2 h)

/-! ### The first vector instruction of a thread (R64) -/

theorem needVx_of_vx (h : s.th.vx = true) : needVx s = .ok () s := by
  rw [needVx, get_bind]
  dsimp only
  rw [if_pos h]
  rfl

theorem needVx_at_F (hvx : s.th.vx = false) (hlevel : s.th.level = .F) :
    needVx s = .ok () (s.modTh (fun t => { t with vx := true })) := by
  rw [needVx, get_bind]
  dsimp only
  rw [if_neg (by simp [hvx]), if_pos hlevel]
  rfl

/-- Below level F the record says from now on that there is vector state. -/
theorem needVx_of_record (hvx : s.th.vx = false) (hlevel : s.th.level ≠ .F)
    (hstore : (s.modTh (fun t => { t with vx := true })).frameStore s.cur (s.th.record + 0x18) (s.th.frame + 1) = .ok u) :
    needVx s = .ok () u := by
  rw [needVx, get_bind]
  dsimp only
  rw [if_neg (by simp [hvx]), if_neg hlevel]
  simp only [State.modTh_cur, hstore]
  rfl

/-! ### Entry into the VU queue or into a capture (R226, R239) -/

theorem enterVu_ok {c : VuCmd} (h : s.vuRoom) : enterVu c s = .ok () (s.vuEnter c) := by
  obtain ⟨hleft, hcmds, hroom⟩ := h
  rw [enterVu, get_bind]
  exact (guard_passes (not_not_intro hleft)).trans (guard_passes (by simp [hcmds, hroom]))

/-- The command goes into the open capture; a full one begins to feed the queue. -/
def State.vuCapture (s : State) (c : VuCmd) : State :=
  s.modTh (fun t => { t with capture :=
    { t.capture with left := t.capture.left - 1, cmds := t.capture.cmds ++ [c] } }.feed)

theorem enterVu_capture {c : VuCmd} (h : s.th.capture.left ≠ 0) : enterVu c s = .ok () (s.vuCapture c) := by
  rw [enterVu, get_bind, if_pos h]
  rfl

/-- What the conversion of elements needs of the rounding mode at issue (R161). -/
def State.modeSettled (s : State) (c : VuCmd) : Prop :=
  5 ≤ s.th.rm → s.vecUnsettled c = false ∧ s.vecConverts c = false

/-- An instruction that issues goes on, after the thread's first one, as a command. -/
theorem issueVec_eq {i : Instr} {xs : List (Nat × Word)} {ds : List Word} (hmode : s.modeSettled (s.vuCmd i xs ds))
    (hvx : needVx s = .ok () s1) (hrun : s1.th.stopped = false) :
    issueVec i xs ds s = enterVu (s.vuCmd i xs ds) s1 := by
  have hlast : (needVx >>= fun _ => do
      let s' ← get
      if !s'.th.stopped then enterVu (s.vuCmd i xs ds)) s = enterVu (s.vuCmd i xs ds) s1 := by
    rw [bind_ok hvx, get_bind]
    rw [if_pos (by simp [hrun])]
  rw [issueVec, get_bind, ← hlast]
  by_cases hrm : 5 ≤ s.th.rm
  · obtain ⟨hsettled, hexact⟩ := hmode hrm
    rw [if_pos hrm]
    exact (guard_passes (ne_true_of_eq_false hsettled)).trans (guard_passes (ne_true_of_eq_false hexact))
  · rw [if_neg hrm]
    rfl

theorem issueVec_enter {i : Instr} {xs : List (Nat × Word)} {ds : List Word} (hmode : s.modeSettled (s.vuCmd i xs ds))
    (hvx : needVx s = .ok () s1) (hrun : s1.th.stopped = false) (hroom : s1.vuRoom) :
    issueVec i xs ds s = .ok () (s1.vuEnter (s.vuCmd i xs ds)) :=
  (issueVec_eq hmode hvx hrun).trans (enterVu_ok hroom)

theorem issueVec_capture {i : Instr} {xs : List (Nat × Word)} {ds : List Word}
    (hmode : s.modeSettled (s.vuCmd i xs ds)) (hvx : needVx s = .ok () s1) (hrun : s1.th.stopped = false)
    (hopen : s1.th.capture.left ≠ 0) : issueVec i xs ds s = .ok () (s1.vuCapture (s.vuCmd i xs ds)) :=
  (issueVec_eq hmode hvx hrun).trans (enterVu_capture hopen)

/-! ### Instructions whose operands are v registers and scalar sources (R230) -/

/-- The checks, the scalar sources, the issue. -/
def vecIssue (i : Instr) (rs : List (Reg × Bool)) : Sem Unit := do
  vecChecks i
  let xs ← vecSources rs
  issueVec i xs []

theorem vecPlain_eq (i : Instr) : vecPlain i s = plain (vecIssue i []) s := by
  simp only [vecPlain, vecIssue, vecSources, pure_bind]

theorem vecOne_eq (i : Instr) (r : Reg) (ud : Bool) : vecOne i r ud s = plain (vecIssue i [(r, ud)]) s := by
  simp only [vecOne, vecIssue, vecSources, bind_assoc, pure_bind]

theorem vecTwo_eq (i : Instr) (r q : Reg) (ud w : Bool) :
    vecTwo i r q ud w s = plain (vecIssue i [(r, ud), (q, w)]) s := by
  simp only [vecTwo, vecIssue, vecSources, bind_assoc, pure_bind]

theorem exec_of_vecScalars {i : Instr} {rs : List (Reg × Bool)} (h : vecScalars i = some rs) :
    exec i s = plain (vecIssue i rs) s := by
  unfold vecScalars at h
  split at h <;> cases h
  -- VLDS, VSTS, VINS
  case h_20 | h_21 | h_25 => exact vecTwo_eq _ _ _ _ _
  -- VBCST, VMSK, VLD, VST, VLDX, VSTX, VEXT
  case h_16 | h_17 | h_18 | h_19 | h_22 | h_23 | h_24 => exact vecOne_eq _ _ _
  all_goals exact vecPlain_eq _

theorem exec_vecIssue {i : Instr} {rs : List (Reg × Bool)} {xs : List (Nat × Word)} (hform : vecScalars i = some rs)
    (hfit : s.fits false) (hfine : s.vecFine i) (hread : vecSources rs s = .ok xs s1)
    (hissue : issueVec i xs [] s1 = .ok () s2) : exec i s = .next s2.done :=
  (exec_of_vecScalars hform).trans
    (plain_ok hfit ((bind_ok (vecChecks_ok hfine)).trans ((bind_ok hread).trans hissue)))

/-! ### VRAND (R231) -/

/-- An instruction that accesses no memory converts no element, unless through a stream that a register is bound to. -/
theorem State.modeSettled_of_no_access {c : VuCmd}
    (haccess : ∀ xs, vecAccess { c with scalars := xs } s.th (vregsOf c.ins).b = none)
    (hstreams : isScfg c.ins = true ∨ ∀ n ∈ [(vregsOf c.ins).a, (vregsOf c.ins).b, (vregsOf c.ins).d],
      s.th.bound n = false) : s.modeSettled c := by
  intro _
  have hnow : vecAccess c s.th (vregsOf c.ins).b = none := haccess c.scalars
  refine ⟨?_, ?_⟩
  · unfold State.vecUnsettled
    rcases hstreams with h | h
    · simp [h]
    · simp [hnow, h]
  · unfold State.vecConverts
    dsimp only
    generalize (_ && Option.isNone _) = settled
    rcases hstreams with h | h
    · cases settled <;> simp [hnow, haccess, h]
    · cases settled <;> simp [hnow, haccess, h]

/-- Draws change the generator only: which registers are bound stays. -/
theorem drawN_sb {n : Nat} {xs : List Word} (h : drawN n s = .ok xs s1) : s1.th.sb = s.th.sb := by
  induction n generalizing s xs with
  | zero =>
    cases h
    rfl
  | succ n ih =>
    obtain ⟨x, s2, hdraw, h⟩ := bind_inv h
    obtain ⟨ys, s3, hrest, h⟩ := bind_inv h
    cases h
    rw [draw_apply] at hdraw
    cases hdraw
    rw [ih hrest, State.th_modTh]

theorem exec_vrand {d : Reg} {m : BitVec 3} {xs : List Word} (hfit : s.fits false) (hfine : s.vecFine (.vrand d m))
    (hdraw : drawN ((bitsN s.th.vctl.toNat 6 0 + 1) / 2) s = .ok xs s1) (hvx : needVx s1 = .ok () s2)
    (hrun : s2.th.stopped = false) (hroom : s2.vuRoom) :
    exec (.vrand d m) s = .next (s2.vuEnter (s1.vuCmd (.vrand d m) [] xs)).done := by
  have hbound : s.th.bound (some d.toNat) = false := by
    obtain ⟨-, hstreams, -⟩ := hfine
    have h := hstreams rfl
    simp only [Bool.or_eq_false_iff] at h
    exact h.1.1
  have hbound1 : s1.th.bound (some d.toNat) = false := by
    simpa only [Thread.bound, drawN_sb hdraw] using hbound
  refine plain_ok hfit ((bind_ok (vecChecks_ok hfine)).trans ((bind_ok hdraw).trans
    (issueVec_enter (State.modeSettled_of_no_access (fun _ => rfl) (.inr ?_)) hvx hrun hroom)))
  simp only [List.forall_mem_cons]
  exact ⟨rfl, rfl, hbound1, nofun⟩

/-! ### SCFG (R233) -/

/-- A clear bit is set by adding it. -/
theorem or_two_pow_of_clear {n k : Nat} (h : n.testBit k = false) : n ||| 2 ^ k = n + 2 ^ k := by
  have hlow : n % 2 ^ (k + 1) < 2 ^ k := by
    refine Nat.lt_pow_two_of_testBit _ (fun i hi => ?_)
    rw [Nat.testBit_mod_two_pow]
    by_cases hik : i = k
    · rw [hik, h, Bool.and_false]
    · rw [decide_eq_false (by omega), Bool.false_and]
  have hsplit : 2 ^ (k + 1) * (n / 2 ^ (k + 1)) + n % 2 ^ (k + 1) = n := Nat.div_add_mod _ _
  have hhigh : n % 2 ^ (k + 1) + 2 ^ k < 2 ^ (k + 1) := by
    have hdouble : 2 ^ (k + 1) = 2 ^ k + 2 ^ k := Nat.two_pow_succ k
    omega
  calc n ||| 2 ^ k
      = 2 ^ (k + 1) * (n / 2 ^ (k + 1)) ||| (n % 2 ^ (k + 1) ||| 2 ^ k) := by
        rw [← Nat.or_assoc, ← Nat.two_pow_add_eq_or_of_lt (Nat.mod_lt _ (Nat.two_pow_pos _)), hsplit]
    _ = n + 2 ^ k := by
        rw [Nat.or_two_pow_eq_add_of_lt hlow, ← Nat.two_pow_add_eq_or_of_lt hhigh, ← Nat.add_assoc, hsplit]

theorem and_two_pow_eq_ite (n k : Nat) : n &&& 2 ^ k = if n.testBit k = true then 2 ^ k else 0 := by
  refine Nat.eq_of_testBit_eq (fun j => ?_)
  rw [Nat.testBit_and, Nat.testBit_two_pow]
  by_cases hj : k = j
  · subst hj
    cases n.testBit k <;> simp
  · cases n.testBit k <;> simp [hj]

/-- Bit `k` of SB after an SCFG that binds or unbinds, the others as they were. -/
theorem scfg_sb {n sb k : Nat} {unbind : Prop} [Decidable unbind] (hbit : sb.testBit k = decide ¬unbind)
    (hother : ∀ j, j ≠ k → sb.testBit j = n.testBit j) :
    (if unbind then n - (if n &&& 2 ^ k = 0 then 0 else 2 ^ k) else n ||| 2 ^ k) = sb := by
  have hset : n ||| 2 ^ k = sb ||| 2 ^ k := by
    refine Nat.eq_of_testBit_eq (fun j => ?_)
    rw [Nat.testBit_or, Nat.testBit_or, Nat.testBit_two_pow]
    by_cases hj : k = j
    · simp [hj]
    · rw [hother j (Ne.symm hj)]
  by_cases hu : unbind
  · rw [if_pos hu]
    have hclear : sb.testBit k = false := by simpa [hu] using hbit
    rw [and_two_pow_eq_ite]
    cases hn : n.testBit k with
    | false =>
      rw [or_two_pow_of_clear hn, or_two_pow_of_clear hclear] at hset
      simpa using hset
    | true =>
      have hn' : n = sb ||| 2 ^ k := by
        rw [← hset]
        refine Nat.eq_of_testBit_eq (fun j => ?_)
        rw [Nat.testBit_or, Nat.testBit_two_pow]
        by_cases hj : k = j
        · simp [← hj, hn]
        · simp [hj]
      rw [or_two_pow_of_clear hclear] at hn'
      simp [hn']
  · rw [if_neg hu, hset]
    refine Nat.eq_of_testBit_eq (fun j => ?_)
    rw [Nat.testBit_or, Nat.testBit_two_pow]
    by_cases hj : k = j
    · simp [← hj, hbit, hu]
    · simp [hj]

/-- A command captures VCTL, FCTL and the level of the thread, nothing else of it (R226). -/
theorem State.vuCmd_modTh {i : Instr} {xs : List (Nat × Word)} {ds : List Word} {f : Thread → Thread}
    (hvctl : (f s.th).vctl = s.th.vctl) (hfctl : (f s.th).fctl = s.th.fctl) (hlevel : (f s.th).level = s.th.level) :
    (s.modTh f).vuCmd i xs ds = s.vuCmd i xs ds := by
  unfold State.vuCmd Thread.rm
  rw [State.th_modTh, hvctl, hfctl, hlevel]
  rfl

/-- SCFG changes SB at issue and reads the descriptor as the VU executes it. -/
theorem exec_scfg {o : Un} {xs : List (Nat × Word)} {sb : Nat} (hfit : s.fits false) (hfine : s.vecFine (.scfg o))
    (hread : vecSources [(o.a, o.ua)] s = .ok xs s1) (hbit : sb.testBit (o.d.toNat - 28) = decide (o.a ≠ 0))
    (hother : ∀ k, k ≠ o.d.toNat - 28 → sb.testBit k = s1.th.sb.testBit k)
    (hvx : needVx (s1.modTh (fun t => { t with sb := sb })) = .ok () s2) (hrun : s2.th.stopped = false)
    (hroom : s2.vuRoom) : exec (.scfg o) s = .next (s2.vuEnter (s1.vuCmd (.scfg o) xs [])).done := by
  obtain ⟨a, u, hscalar, hkill⟩ := bind_inv hread
  obtain ⟨_, u', hkill, hxs⟩ := bind_inv hkill
  cases hxs
  refine plain_ok hfit ((bind_ok (vecChecks_ok hfine)).trans ((bind_ok hscalar).trans ((bind_ok hkill).trans ?_)))
  refine (bind_ok (modify_apply _)).trans ?_
  obtain rfl := scfg_sb hbit hother
  refine (issueVec_enter (State.modeSettled_of_no_access (fun _ => rfl) (.inl rfl)) hvx hrun hroom).trans ?_
  rw [State.vuCmd_modTh] <;> rfl

/-! ### VCFG, SSTAT and REPV (R236, R238, R239) -/

/-- What VCFG answers for the request `a`, where `u` is `s` with its vector state recorded. -/
def vcfgOf (d : Reg) (a : Word) (s u : State) : EStateM.Result Stop State Unit :=
  let vl := bitsN a.toNat 6 0
  let f := bitsN a.toNat 10 8
  if vl = 0 ∨ (f ≠ 0 ∧ f ≠ 1 ∧ f ≠ 6) then writeS d 0 s
  else writeS d (BitVec.ofNat 64 (min vl 64)) (u.modTh (fun t => { t with
    vctl := putBits (putBits t.vctl 6 0 (min vl 64)) 10 8 f }))

theorem exec_vcfg {o : Un} {a : Word} (hfit : s.fits false) (hcapture : s.th.capture.left = 0)
    (hport : o.a.toNat < 56) (hread : o.read s = .ok a s1) (hvx : needVx s1 = .ok () u)
    (hwrite : vcfgOf o.d a s1 u = .ok () s2) : exec (.vcfg o) s = .next s2.done := by
  have hscalar : vecIssueScalar o.a o.ua s = .ok a s1 := (vecIssueScalar_eq o.ua hport).trans hread
  refine plain_ok hfit ((bind_ok (noCapture_ok hcapture)).trans ((bind_ok hscalar).trans ?_))
  unfold vcfgOf at hwrite
  dsimp only at hwrite ⊢
  split at hwrite
  · rw [if_pos ‹_›]
    exact hwrite
  · rw [if_neg ‹_›]
    exact (bind_ok hvx).trans ((bind_ok (modify_apply _)).trans hwrite)

theorem exec_sstat {d v : Reg} (hfit : s.fits false) (htest : s.myCore.test = false)
    (hcapture : s.th.capture.left = 0) (hspec : s.th.bound (some v.toNat) = true → s.speculative s.th = false)
    (hvu : s.th.vuq = []) (hvec : s.th.pendVec = none) (hvx : needVx s = .ok () u)
    (hwrite : writeS d (if (u.th.stream v.toNat).bound then BitVec.ofNat 64 (u.th.stream v.toNat).remaining else -1) u =
      .ok () s1) : exec (.sstat d v) s = .next s1.done := by
  refine plain_ok hfit ((bind_ok (noTest_ok htest)).trans ((bind_ok (noCapture_ok hcapture)).trans ?_))
  rw [get_bind]
  refine (check_passes (fun h => irrevocable_ok (hspec h))).trans ?_
  exact (bind_ok (syncVec_ok hcapture hvu hvec)).trans ((bind_ok hvx).trans hwrite)

theorem exec_repv {n : BitVec 4} {o : Src1} {stagger c : Word} {m : BitVec 3} (hfit : s.fits false)
    (hcapture : s.th.capture.left = 0) (hport : o.a.toNat < 56) (hstagger : stagger.toNat < 32)
    (hread : o.read s = .ok c s1) (hdrained : s1.th.capture.cmds = []) (hvx : needVx s1 = .ok () u) :
    exec (.repv n o stagger m) s = .next (u.modTh (fun t => { t with capture :=
      { left := n.toNat + 1, count := c.toNat % 2 ^ 16, stagger := stagger.toNat, mask := m.toNat } })).done := by
  have hscalar : vecIssueScalar o.a o.ua s = .ok c s1 := (vecIssueScalar_eq o.ua hport).trans hread
  refine plain_ok hfit ((bind_ok (noCapture_ok hcapture)).trans ((bind_ok hscalar).trans ?_))
  refine (guard_passes (Nat.not_le.2 hstagger)).trans ((get_bind _).trans ?_)
  exact (guard_passes (not_not_intro hdrained)).trans (bind_ok hvx)

/-- Settles O25: each instruction by the checks, reads and waits of its body in order, which pass, and the command that
enters. -/
theorem vectorIssue : Obligations.VectorIssue := by
  unfold Obligations.VectorIssue
  refine ⟨?_, fun s s1 s2 d m xs hfit hfine hdraw hvx hrun hroom => exec_vrand hfit hfine hdraw hvx hrun hroom,
    fun s s1 s2 o xs sb hfit hfine hread hbit hother hvx hrun hroom =>
      exec_scfg hfit hfine hread hbit hother hvx hrun hroom,
    fun s s1 u s2 o a hfit hcapture hport hread hvx hwrite => exec_vcfg hfit hcapture hport hread hvx hwrite,
    fun s u s1 d v hfit htest hcapture hspec hvu hvec hvx hwrite =>
      exec_sstat hfit htest hcapture hspec hvu hvec hvx hwrite,
    fun s s1 u n o stagger m c hfit hcapture hport hstagger hread hdrained hvx =>
      exec_repv hfit hcapture hport hstagger hread hdrained hvx,
    fun s => ⟨needVx_of_vx, needVx_at_F, fun u hvx hlevel hstore => needVx_of_record hvx hlevel hstore⟩⟩
  intro s s1 s2 i rs xs hform hfit hfine hread hmode hvx hrun
  exact ⟨fun hroom => exec_vecIssue hform hfit hfine hread (issueVec_enter hmode hvx hrun hroom),
    fun hopen => exec_vecIssue hform hfit hfine hread (issueVec_capture hmode hvx hrun hopen)⟩

end Sys2Proof.Machine
end

section
/-! What of the machine's state the operations of frames, faults and resumptions leave alone: the clk, the slots, and what
a core's pre-emption and its messages concern (R285, R439). -/

namespace Sys2Proof.Machine

variable {s u : State}

/-! ### The parts that stay -/

/-- Whether a core is pre-empted, and its messages: its mailbox, its port, its spill queue. -/
def Core.mail (c : Core) : Bool × List (Word × Word) × List (Word × Word × Nat) × List (Word × Word × Nat) :=
  (c.preempted, c.mailbox, c.port, c.spillq)

theorem Core.mail_congr {x c : Core} (hpre : x.preempted = c.preempted) (hbox : x.mailbox = c.mailbox)
    (hport : x.port = c.port) (hspill : x.spillq = c.spillq) : x.mail = c.mail := by
  unfold Core.mail
  rw [hpre, hbox, hport, hspill]

/-- The clk and the messages of every core. -/
def State.mail (s : State) :
    Nat × (Nat → Bool × List (Word × Word) × List (Word × Word × Nat) × List (Word × Word × Nat)) :=
  (s.clk, fun c => (s.core c).mail)

/-- The slots and the starts of speculative segments, and with them the messages. -/
def State.calm (s : State) : SMap Thread × List (Nat × Thread) ×
    Nat × (Nat → Bool × List (Word × Word) × List (Word × Word × Nat) × List (Word × Word × Nat)) :=
  (s.threads, s.snaps, s.mail)

theorem State.mail_of_calm (h : u.calm = s.calm) : u.mail = s.mail := congrArg (fun x => x.2.2) h
theorem State.threads_of_calm (h : u.calm = s.calm) : u.threads = s.threads := congrArg (fun x => x.1) h
theorem State.snaps_of_calm (h : u.calm = s.calm) : u.snaps = s.snaps := congrArg (fun x => x.2.1) h
theorem State.thread_of_calm (h : u.calm = s.calm) (k : Nat) : u.thread k = s.thread k := by
  unfold State.thread
  rw [State.threads_of_calm h]
theorem State.clk_of_mail (h : u.mail = s.mail) : u.clk = s.clk := congrArg (fun x => x.1) h
theorem State.core_mail_of_mail (h : u.mail = s.mail) (c : Nat) : (u.core c).mail = (s.core c).mail :=
  congrArg (fun x => x.2 c) h

theorem State.setCore_mail {c : Nat} {x : Core} (h : x.mail = (s.core c).mail) : (s.setCore c x).mail = s.mail := by
  refine congrArg (Prod.mk s.clk) (funext fun k => ?_)
  by_cases hk : k = c
  · rw [hk, State.core_setCore_self, h]
  · rw [State.core_setCore_other _ _ _ _ hk]

theorem State.modCore_mail {c : Nat} {f : Core → Core} (h : ∀ x, (f x).mail = x.mail) :
    (s.modCore c f).mail = s.mail := State.setCore_mail (h _)

theorem State.setCore_calm {c : Nat} {x : Core} (h : x.mail = (s.core c).mail) : (s.setCore c x).calm = s.calm :=
  congrArg (fun m => (s.threads, s.snaps, m)) (State.setCore_mail h)

theorem State.modCore_calm {c : Nat} {f : Core → Core} (h : ∀ x, (f x).mail = x.mail) :
    (s.modCore c f).calm = s.calm := State.setCore_calm (h _)

/-! ### Bytes of memory, lines of the caches -/

@[simp] theorem State.clearChip_calm (s : State) (cs : List Host.Cell) : (s.clearChip cs).calm = s.calm := by
  unfold State.clearChip; split <;> rfl

@[simp] theorem State.clearSpad_calm (s : State) (cl off n : Nat) : (s.clearSpad cl off n).calm = s.calm := by
  unfold State.clearSpad; split <;> rfl

@[simp] theorem State.clearTcm_calm (s : State) (c off n : Nat) : (s.clearTcm c off n).calm = s.calm := by
  unfold State.clearTcm; split <;> rfl

@[simp] theorem State.sliceUse_calm (s : State) (l : Nat) (f : SliceLine → SliceLine) :
    (s.sliceUse l f).calm = s.calm := by
  unfold State.sliceUse
  split
  · rfl
  · dsimp only
    split
    · rfl
    · split
      · rfl
      · split <;> rfl

@[simp] theorem State.sliceLoad_calm (s : State) (pa n : Nat) : (s.sliceLoad pa n).calm = s.calm :=
  State.sliceUse_calm _ _ _

@[simp] theorem State.chipPut_calm (s : State) (cs : List Host.Cell) : (s.chipPut cs).calm = s.calm :=
  (foldl_same State.calm _ (fun _ _ => State.sliceUse_calm _ _ _) _ _).trans (State.clearChip_calm _ _)

@[simp] theorem State.poisonAlong_calm (s : State) (c l : Nat) (out : Bool) : (s.poisonAlong c l out).calm = s.calm := by
  unfold State.poisonAlong; split <;> rfl

@[simp] theorem State.writeBack_calm (s : State) (c l : Nat) : (s.writeBack c l).calm = s.calm :=
  (State.poisonAlong_calm _ _ _ _).trans (State.chipPut_calm _ _)

@[simp] theorem State.fillLine_calm (s : State) (c l : Nat) : (s.fillLine c l).calm = s.calm := by
  unfold State.fillLine
  dsimp only
  rw [State.poisonAlong_calm, State.modCore_calm, State.sliceLoad_calm]
  exact fun _ => Core.mail_congr rfl rfl rfl rfl

theorem Core.sample_mail (c : Core) (line : Nat) : (c.sample line).mail = c.mail := by
  unfold Core.sample; split <;> rfl

theorem Core.l1Evict_mail (c : Core) (x : L1Line) : (c.l1Evict x).1.mail = c.mail := by
  unfold Core.l1Evict
  dsimp only
  split
  · rfl
  · split <;> rfl

@[simp] theorem State.l1Install_calm (s : State) (c l : Nat) (tcm dirty : Bool) :
    (s.l1Install c l tcm dirty).calm = s.calm := by
  unfold State.l1Install
  dsimp only
  split
  · exact State.setCore_calm rfl
  · have hevict := State.setCore_calm (s := s)
      (Core.l1Evict_mail (s.core c) { line := l, tcm := tcm, dirty := dirty })
    split <;> split <;> simp [apply_ite State.calm, hevict]

@[simp] theorem State.l1Touch_calm (s : State) (c l : Nat) (tcm dirty : Bool) :
    (s.l1Touch c l tcm dirty).calm = s.calm :=
  (State.l1Install_calm _ _ _ _ _).trans (State.modCore_calm (fun _ => Core.sample_mail _ _))

@[simp] theorem State.tcmTouch_calm (s : State) (c off : Nat) (dirty : Bool) :
    (s.tcmTouch c off dirty).calm = s.calm := by
  unfold State.tcmTouch
  split
  · rfl
  · exact State.l1Touch_calm _ _ _ _ _

@[simp] theorem State.boundaryTo_calm (s : State) (c m : Nat) : (s.boundaryTo c m).calm = s.calm := by
  have hfill : ∀ (ls : List Nat) (u : State), (ls.foldl (fun (s : State) l =>
      if (s.core c).hasLine l true then s else s.fillLine c l) u).calm = u.calm :=
    foldl_same State.calm _ (fun u l => by split <;> simp)
  have hdirty : ∀ (xs : List L1Line) (u : State), (xs.foldl (fun (s : State) x =>
      if x.dirty && x.tcm then s.writeBack c x.line else s) u).calm = u.calm :=
    foldl_same State.calm _ (fun u x => by split <;> simp)
  have hback : ∀ (ls : List Nat) (u : State), (ls.foldl (fun (s : State) l => s.writeBack c l) u).calm = u.calm :=
    foldl_same State.calm _ (fun u l => State.writeBack_calm u c l)
  unfold State.boundaryTo
  dsimp only
  split
  · rw [State.modCore_calm, hdirty, hfill]
    exact fun _ => Core.mail_congr rfl rfl rfl rfl
  · rw [State.modCore_calm, hback]
    exact fun _ => Core.mail_congr rfl rfl rfl rfl

@[simp] theorem State.unitSettle_calm (s : State) (c off : Nat) : (s.unitSettle c off).calm = s.calm := by
  unfold State.unitSettle
  split
  · split
    · exact State.boundaryTo_calm _ _ _
    · rfl
  · rfl

@[simp] theorem State.tcmWrite_calm (s : State) (c off n v : Nat) : (s.tcmWrite c off n v).calm = s.calm :=
  by
  unfold State.tcmWrite
  rw [State.clearTcm_calm, State.modCore_calm]
  exact fun _ => Core.mail_congr rfl rfl rfl rfl

@[simp] theorem State.tcmStore_calm (s : State) (c off n v : Nat) : (s.tcmStore c off n v).calm = s.calm := by
  simp [State.tcmStore]

@[simp] theorem State.spadWrite_calm (s : State) (cl off n v : Nat) : (s.spadWrite cl off n v).calm = s.calm :=
  State.clearSpad_calm _ _ _ _

/-- A frame read takes its line through the L1, and nothing else. -/
@[simp] theorem State.frameTouch_calm (s : State) (p c : Nat) (a : Word) : (s.frameTouch p c a).calm = s.calm := by
  unfold State.frameTouch
  split
  · simp
  · exact State.l1Touch_calm _ _ _ _ _
  · rfl

/-! ### Performed writes abort readers (R316) -/

@[simp] theorem State.leaveBank_mail (s : State) (t : Nat) : (s.leaveBank t).mail = s.mail := by
  unfold State.leaveBank; split <;> rfl

@[simp] theorem State.clearArea_mail (s : State) (t : Nat) : (s.clearArea t).mail = s.mail := by
  unfold State.clearArea; split <;> rfl

@[simp] theorem State.abort_mail (s : State) (t : Nat) : (s.abort t).mail = s.mail := by
  unfold State.abort
  split
  · exact (State.clearArea_mail _ _).trans (State.leaveBank_mail _ _)
  · rfl

@[simp] theorem State.abortReaders_mail (s : State) (w : Writer) (pa : Nat) : (s.abortReaders w pa).mail = s.mail := by
  unfold State.abortReaders
  refine foldl_same State.mail _ (fun u x => ?_) _ _
  dsimp only
  split
  · exact State.abort_mail _ _
  · rfl

@[simp] theorem State.chipWrite_mail (s : State) (w : Writer) (cs : List Host.Cell) :
    (s.chipWrite w cs).mail = s.mail := by
  unfold State.chipWrite
  dsimp only
  rw [foldl_same State.mail]
  · exact State.mail_of_calm (State.chipPut_calm _ _)
  · exact fun u l => State.abortReaders_mail _ _ _

/-- A frame or record write, wherever it falls. -/
theorem State.frameWrite_mail {p c : Nat} {a v : Word} (h : s.frameWrite p c a v = .ok u) : u.mail = s.mail := by
  unfold State.frameWrite at h
  split at h <;> cases h
  · exact State.mail_of_calm (State.tcmStore_calm _ _ _ _ _)
  · exact State.mail_of_calm (State.spadWrite_calm _ _ _ _ _)
  · exact (State.chipWrite_mail _ _ _).trans (State.modCore_mail (fun _ => Core.sample_mail _ _))

/-! ### Faults (R114, R116) -/

@[simp] theorem State.event_mail (s : State) (p k c : Nat) (a i : Word) : (s.event p k c a i).mail = s.mail := by
  unfold State.event; dsimp only; split <;> rfl

@[simp] theorem State.minChanged_mail (s : State) (t : Nat) : (s.minChanged t).mail = s.mail := by
  unfold State.minChanged; dsimp only; split <;> rfl

@[simp] theorem State.setThread_mail (s : State) (t : Nat) (x : Thread) : (s.setThread t x).mail = s.mail := rfl
@[simp] theorem State.modThread_mail (s : State) (t : Nat) (f : Thread → Thread) : (s.modThread t f).mail = s.mail := rfl
@[simp] theorem State.modCluster_mail (s : State) (c : Nat) (f : Cluster → Cluster) :
    (s.modCluster c f).mail = s.mail := rfl
@[simp] theorem State.modPart_mail (s : State) (p : Nat) (f : Part → Part) : (s.modPart p f).mail = s.mail := rfl
@[simp] theorem State.post_mail (s : State) (d : Nat) (i : Instr) (e : Ev) : (s.post d i e).mail = s.mail := rfl

@[simp] theorem State.markFaulted_mail (s : State) (t : Nat) (f : Flt) : (s.markFaulted t f).mail = s.mail := by
  unfold State.markFaulted
  dsimp only
  rw [State.event_mail, State.minChanged_mail, State.modPart_mail, State.modThread_mail]
  split
  · exact (State.frameWrite_mail ‹_›).trans (State.leaveBank_mail _ _)
  · exact State.leaveBank_mail _ _

@[simp] theorem State.nestedFault_mail (s : State) (t : Nat) (f : Flt) : (s.nestedFault t f).mail = s.mail := by
  unfold State.nestedFault
  dsimp only
  rw [State.markFaulted_mail]
  split
  · exact (State.frameWrite_mail ‹_›).trans (State.modThread_mail _ _ _)
  · exact State.modThread_mail _ _ _

@[simp] theorem State.frameFault_mail (s : State) (t : Nat) (f : Flt) : (s.frameFault t f).mail = s.mail := by
  unfold State.frameFault
  dsimp only
  split
  · split <;> rfl
  · exact State.nestedFault_mail _ _ _

@[simp] theorem State.putWait_mail (s : State) (t st k : Nat) (o : Word) : (s.putWait t st k o).mail = s.mail := by
  unfold State.putWait
  dsimp only
  split
  · rfl
  · split
    · exact State.frameFault_mail _ _ _
    · have hst := State.frameWrite_mail ‹_›
      split
      · exact (State.frameFault_mail _ _ _).trans hst
      · exact (State.frameWrite_mail ‹_›).trans hst

@[simp] theorem State.enterHandler_mail (s : State) (t : Nat) (f : Flt) : (s.enterHandler t f).mail = s.mail := by
  unfold State.enterHandler
  dsimp only
  split <;> simp [apply_ite State.mail]

theorem State.devstat_mail (s : State) (w : Word) : ({ s with devstat := w } : State).mail = s.mail := rfl

@[simp] theorem State.withdrawCluster_mail (s : State) (cl : Nat) : (s.withdrawCluster cl).mail = s.mail := by
  unfold State.withdrawCluster
  split
  · rfl
  · dsimp only
    rw [State.devstat_mail, foldl_same State.mail]
    · exact State.modCluster_mail _ _ _
    · exact fun u j => State.modCore_mail (by exact fun _ => Core.mail_congr rfl rfl rfl rfl)

@[simp] theorem State.deliver_mail (s : State) (t : Nat) (f : Flt) : (s.deliver t f).mail = s.mail := by
  unfold State.deliver
  dsimp only
  split
  · rw [State.withdrawCluster_mail, State.modCore_mail, State.modThread_mail, State.leaveBank_mail]
    exact fun _ => Core.mail_congr rfl rfl rfl rfl
  split
  · rw [State.setThread_mail, State.leaveBank_mail]
  split
  · exact State.nestedFault_mail _ _ _
  split
  · exact State.nestedFault_mail _ _ _
  · exact (State.enterHandler_mail _ _ _).trans (State.frameWrite_mail ‹_›)

@[simp] theorem State.undoXsel_mail (s : State) (t : Nat) : (s.undoXsel t).mail = s.mail := by
  unfold State.undoXsel
  split
  · rfl
  · rw [State.modCore_mail, State.modThread_mail]
    exact fun _ => Core.mail_congr rfl rfl rfl rfl

@[simp] theorem State.raise_mail (s : State) (t : Nat) (f : Flt) : (s.raise t f).mail = s.mail := by
  unfold State.raise
  dsimp only
  split
  · simp
  · split
    · simp [apply_ite State.mail]
    split
    · simp
    split <;> simp [apply_ite State.mail]

@[simp] theorem State.deliverPending_mail (s : State) (t : Nat) (k : Pend) (f : Flt) :
    (s.deliverPending t k f).mail = s.mail := (State.raise_mail _ _ _).trans rfl

/-! ### Records and frames as they are written (R64, R277) -/

/-- A run of writes leaves the messages `m`, whether it completes or not. -/
structure Saved.HasMail
    (m : Nat × (Nat → Bool × List (Word × Word) × List (Word × Word × Nat) × List (Word × Word × Nat)))
    (r : Saved) : Prop where
  ok : ∀ u, r = .ok u → u.mail = m
  error : ∀ x, r = .error x → x.2.mail = m

theorem Saved.HasMail.of_ok {m} (hs : s.mail = m) : Saved.HasMail m (.ok s) where
  ok u h := by cases h; exact hs
  error x h := nomatch h

theorem Saved.HasMail.of_error {m} {f : Flt} (hs : s.mail = m) : Saved.HasMail m (.error (f, s)) where
  ok u h := nomatch h
  error x h := by cases h; exact hs

theorem Saved.HasMail.bind {m} {r : Saved} {f : State → Saved} (hr : Saved.HasMail m r)
    (hf : ∀ u, u.mail = m → Saved.HasMail m (f u)) : Saved.HasMail m (r >>= f) := by
  cases r with
  | ok u => exact hf u (hr.ok u rfl)
  | error x => exact .of_error (hr.error x rfl)

theorem Saved.HasMail.foldlM {α : Type} {m} {f : State → α → Saved} (hf : ∀ u x, u.mail = m → Saved.HasMail m (f u x))
    (xs : List α) (hs : s.mail = m) : Saved.HasMail m (xs.foldlM f s) := by
  induction xs generalizing s with
  | nil => exact .of_ok hs
  | cons x xs ih =>
    rw [List.foldlM_cons]
    exact (hf s x hs).bind (fun u hu => ih hu)

theorem State.put_mail {m} (p c : Nat) (a v : Word) (hs : s.mail = m) : Saved.HasMail m (s.put p c a v) := by
  unfold State.put
  split
  · exact .of_ok ((State.frameWrite_mail ‹_›).trans hs)
  · exact .of_error hs

@[simp] theorem State.poisonOut_mail (s : State) (t n : Nat) (isF : Bool) (a : Word) :
    (s.poisonOut t n isF a).mail = s.mail := by
  unfold State.poisonOut; split <;> rfl

/-- A run of writes, one for each element of a list. -/
theorem State.foldPut_mail {α : Type} {m} (p c : Nat) (a v : α → Word) (xs : List α) (hs : s.mail = m) :
    Saved.HasMail m (xs.foldlM (fun s x => s.put p c (a x) (v x)) s) :=
  Saved.HasMail.foldlM (fun _ _ hu => State.put_mail _ _ _ _ hu) xs hs

theorem State.frameStore_mail {t : Nat} {a v : Word} (h : s.frameStore t a v = .ok u) : u.mail = s.mail := by
  unfold State.frameStore at h
  dsimp only at h
  split at h
  · split at h <;> cases h
    rfl
  · exact State.frameWrite_mail h

theorem State.saveRegs_mail {m} (t : Nat) (hs : s.mail = m) : Saved.HasMail m (s.saveRegs t) := by
  unfold State.saveRegs
  dsimp only
  refine (Saved.HasMail.foldlM ?_ _ hs).bind (fun u hu => (Saved.HasMail.foldlM ?_ _ hu).bind (fun u hu => ?_))
  · intro u x hu
    split
    · exact (State.put_mail _ _ _ _ hu).bind (fun w hw =>
        .of_ok ((State.poisonOut_mail _ _ _ _ _).trans hw))
    · exact .of_ok hu
  · intro u x hu
    split
    · exact (State.put_mail _ _ _ _ hu).bind (fun w hw =>
        .of_ok ((State.poisonOut_mail _ _ _ _ _).trans hw))
    · exact .of_ok hu
  · refine Saved.HasMail.bind (State.put_mail _ _ _ _ hu) ?_
    intro u hu
    refine Saved.HasMail.bind (State.put_mail _ _ _ _ hu) ?_
    intro u hu
    refine Saved.HasMail.bind (State.put_mail _ _ _ _ hu) ?_
    intro u hu
    exact State.put_mail _ _ _ _ hu

theorem State.saveVec_mail {m} (t : Nat) (hs : s.mail = m) : Saved.HasMail m (s.saveVec t) := by
  unfold State.saveVec
  dsimp only
  split
  · exact .of_ok hs
  · refine Saved.HasMail.bind (State.foldPut_mail _ _ _ _ _ hs) ?_
    intro u hu
    refine Saved.HasMail.bind (State.foldPut_mail _ _ _ _ _ hu) ?_
    intro u hu
    refine Saved.HasMail.bind (State.foldPut_mail _ _ _ _ _ hu) ?_
    intro u hu
    refine Saved.HasMail.bind (State.foldPut_mail _ _ _ _ _ hu) ?_
    intro u hu
    refine Saved.HasMail.bind (State.foldPut_mail _ _ _ _ _ hu) ?_
    intro u hu
    exact State.foldPut_mail _ _ _ _ _ hu

theorem State.writeRecord_mail {m} (t st k o l : Nat) (pc lp : Word) (hs : s.mail = m) :
    Saved.HasMail m (s.writeRecord t st k o l pc lp) := by
  unfold State.writeRecord
  dsimp only
  refine (State.put_mail _ _ _ _ hs).bind (fun u hu => ?_)
  refine (State.put_mail _ _ _ _ hu).bind (fun u hu => ?_)
  refine (State.put_mail _ _ _ _ hu).bind (fun u hu => ?_)
  refine (State.put_mail _ _ _ _ hu).bind (fun u hu => ?_)
  refine (State.put_mail _ _ _ _ hu).bind (fun u hu => ?_)
  refine (State.put_mail _ _ _ _ hu).bind (fun u hu => ?_)
  exact State.put_mail _ _ _ _ hu

/-! ### Suspension for a pre-emption, and the return to the slot (R282 to R284) -/

@[simp] theorem State.refreshMin_mail (s : State) (p : Nat) (h : Word) : (s.refreshMin p h).mail = s.mail := by
  unfold State.refreshMin
  split
  · split <;> rfl
  · rfl

@[simp] theorem State.refreshOf_mail (s : State) (t : Nat) : (s.refreshOf t).mail = s.mail := by
  unfold State.refreshOf
  dsimp only
  split
  · exact State.refreshMin_mail _ _ _
  · rfl

@[simp] theorem State.preemptFault_mail (s : State) (t : Nat) : (s.preemptFault t).mail = s.mail := by
  unfold State.preemptFault
  dsimp only
  split
  · rfl
  · split <;> simp

@[simp] theorem State.preemptThread_mail (s : State) (t : Nat) : (s.preemptThread t).mail = s.mail := by
  unfold State.preemptThread
  dsimp only
  split
  · rfl
  have hwrites : Saved.HasMail s.mail (do
      let u ← (s.leaveBank t).saveRegs t
      let u ← u.saveVec t
      u.writeRecord t 6 8 (t / 4) (s.thread t).level.toNat (s.thread t).pc (s.thread t).loopst) :=
    (State.saveRegs_mail t (State.leaveBank_mail s t)).bind (fun u hu =>
      (State.saveVec_mail t hu).bind (fun w hw => State.writeRecord_mail _ _ _ _ _ _ _ hw))
  split
  · exact (State.frameFault_mail _ _ _).trans (hwrites.error _ ‹_›)
  · rw [State.refreshOf_mail, State.modThread_mail]
    exact hwrites.ok _ ‹_›

@[simp] theorem State.loadVec_mail (s : State) (t : Nat) : (s.loadVec t).mail = s.mail := by
  unfold State.loadVec
  dsimp only
  split
  · rfl
  · rw [State.setThread_mail, foldl_same State.mail]
    exact fun u k => State.mail_of_calm (State.frameTouch_calm _ _ _ _)

theorem State.frameTouches_calm (s : State) (p c : Nat) (as : List Word) :
    (as.foldl (fun (s : State) a => s.frameTouch p c a) s).calm = s.calm :=
  foldl_same State.calm _ (fun u a => State.frameTouch_calm u p c a) as s

@[simp] theorem State.replace_mail (s : State) (t : Nat) : (s.replace t).mail = s.mail := by
  unfold State.replace
  dsimp only
  split
  · rfl
  split
  · exact State.frameFault_mail _ _ _
  have htouch := State.mail_of_calm (State.frameTouches_calm s (s.thread t).part (t / 4)
    ((List.range 8).map (fun k => (s.thread t).record + BitVec.ofNat 64 (8 * k))))
  split
  · rw [State.refreshOf_mail, State.frameWrite_mail ‹_›, State.loadVec_mail, State.setThread_mail, htouch]
  · rw [State.frameFault_mail, State.loadVec_mail, State.setThread_mail, htouch]

/-! ### Gang members go back to their slots (R272, R282) -/

@[simp] theorem State.spillReg_mail (s : State) (t n : Nat) (isF : Bool) : (s.spillReg t n isF).mail = s.mail := by
  unfold State.spillReg
  dsimp only
  split
  · rw [State.frameFault_mail, State.modThread_mail]
  · have hslot := State.frameStore_mail ‹_›
    split
    · rw [State.frameFault_mail, State.modThread_mail, State.poisonOut_mail, hslot]
    · rw [State.modThread_mail, State.frameStore_mail ‹_›, State.poisonOut_mail, hslot]

@[simp] theorem State.spillAllOf_mail (s : State) (c : Nat) (isF : Bool) (codes : List Nat) :
    (s.spillAllOf c isF codes).mail = s.mail := by
  unfold State.spillAllOf
  refine foldl_same State.mail _ (fun u k => ?_) _ _
  split
  · exact State.spillReg_mail _ _ _ _
  · rfl

@[simp] theorem State.setCont_mail (s : State) (p : Nat) (r : Word) (c : Option Cont) :
    (s.setCont p r c).mail = s.mail := rfl

@[simp] theorem State.modLaunch_mail (s : State) (p : Nat) (h : Word) (f : Launch → Launch) :
    (s.modLaunch p h f).mail = s.mail := rfl

@[simp] theorem State.contFault_mail (s : State) (p : Nat) (r : Word) (f : Flt) : (s.contFault p r f).mail = s.mail := by
  unfold State.contFault
  split
  · rfl
  dsimp only
  rw [State.event_mail, apply_ite State.mail, State.refreshMin_mail, State.modLaunch_mail, ite_self, State.setCont_mail]
  split
  · rw [State.frameWrite_mail ‹_›]
    split
    · exact State.frameWrite_mail ‹_›
    · rfl
  · split
    · exact State.frameWrite_mail ‹_›
    · rfl

@[simp] theorem State.resume_mail (s : State) (t p : Nat) (r : Word) : (s.resume t p r).mail = s.mail := by
  unfold State.resume
  dsimp only
  split
  · exact State.contFault_mail _ _ _ _
  have htouch := fun as => State.mail_of_calm (State.frameTouches_calm s p (t / 4) as)
  have hparam : ∀ (b : Prop) [Decidable b] (x n : Nat) (codes : List Nat) (g : Core → Core) (w : State),
      (∀ c, (g c).mail = c.mail) →
      (if b then (w.spillAllOf x false codes).modCore n g else w).mail = w.mail := by
    intro b _ x n codes g w hg
    split
    · rw [State.modCore_mail hg, State.spillAllOf_mail]
    · rfl
  split
  · rw [State.frameFault_mail, hparam, State.setCont_mail, State.loadVec_mail, State.setThread_mail, htouch]
    exact fun _ => Core.mail_congr rfl rfl rfl rfl
  · rename_i u hu
    have hwrite : u.mail = s.mail := by
      rw [State.frameWrite_mail hu, hparam, State.setCont_mail, State.loadVec_mail, State.setThread_mail, htouch]
      exact fun _ => Core.mail_congr rfl rfl rfl rfl
    split
    · rw [State.raise_mail, State.modThread_mail, State.refreshOf_mail, hwrite]
    · rw [State.refreshOf_mail, hwrite]

@[simp] theorem State.reseat_mail (s : State) : s.reseat.mail = s.mail := by
  unfold State.reseat
  refine foldl_same State.mail _ (fun u x => foldl_same State.mail _ (fun w y => ?_) _ _) _ _
  split
  · split
    · split
      · exact State.resume_mail _ _ _ _
      · rfl
    · rfl
  · rfl

end Sys2Proof.Machine
end

section
/-! Pre-emption: the message, the drain, the queues and the messages that are saved, and the return to the slots (R241,
R272, R283 to R285, R305). -/

namespace Sys2Proof.Machine

variable {s u : State}

/-! ### The message (R272, R305) -/

theorem exec_preemptMessage_ignored (hn : s.ev.n ≠ 1) (hpre : (s.core s.ev.core).preempted = true) :
    exec .preemptMessage s = .next s := by
  show execPreemptMessage s = _
  unfold execPreemptMessage event
  dsimp only
  rw [if_neg hn, if_pos hpre]

theorem exec_preemptMessage_held (hn : s.ev.n ≠ 1) (hpre : (s.core s.ev.core).preempted = false)
    (hset : s.preemptSet s.ev.core = none) :
    exec .preemptMessage s = .next (s.modCore s.ev.core (fun c => { c with preemptHeld := true })) := by
  show execPreemptMessage s = _
  unfold execPreemptMessage event
  dsimp only
  rw [if_neg hn, if_neg (by simp [hpre]), hset]

theorem exec_preemptMessage_begins {all : List Nat} (hn : s.ev.n ≠ 1) (hpre : (s.core s.ev.core).preempted = false)
    (hset : s.preemptSet s.ev.core = some all) : exec .preemptMessage s =
      .next (all.foldl (fun u c => if (u.core c).preempted then u else u.preemptBegin c) s) := by
  show execPreemptMessage s = _
  unfold execPreemptMessage event
  dsimp only
  rw [if_neg hn, if_neg (by simp [hpre]), hset]

/-- The cores that go along come to those that are there. -/
theorem State.mem_gangClosure {n : Nat} {cs : List Nat} {c : Nat} (h : c ∈ cs) : c ∈ s.gangClosure n cs := by
  induction n generalizing cs with
  | zero => exact h
  | succ n ih =>
    unfold State.gangClosure
    dsimp only
    split
    · exact h
    · exact ih (List.mem_append_left _ h)

/-- The cores that a pre-emption takes: the core itself, and none that is in a phase or enters one. -/
theorem State.preemptSet_some {cid : Nat} {all : List Nat} (h : s.preemptSet cid = some all) :
    cid ∈ all ∧ ∀ c ∈ all, (s.core c).inph = false ∧ ∀ k < 4, (s.thread (4 * c + k)).entering = false := by
  unfold State.preemptSet at h
  dsimp only at h
  split at h
  · exact nomatch h
  · rename_i hfree
    cases h
    refine ⟨State.mem_gangClosure (List.mem_singleton_self _), fun c hc => ?_⟩
    have hc : s.phaseHeld c = false :=
      Bool.eq_false_iff.2 (fun hheld => hfree (List.any_eq_true.2 ⟨c, hc, hheld⟩))
    simpa [State.phaseHeld] using hc

/-! ### The drain begins (R118, R239, R283) -/

@[simp] theorem State.leaveBank_cores (s : State) (t : Nat) : (s.leaveBank t).cores = s.cores := by
  unfold State.leaveBank; split <;> rfl

@[simp] theorem State.clearArea_cores (s : State) (t : Nat) : (s.clearArea t).cores = s.cores := by
  unfold State.clearArea; split <;> rfl

@[simp] theorem State.abort_cores (s : State) (t : Nat) : (s.abort t).cores = s.cores := by
  unfold State.abort
  split
  · simp
  · rfl

@[simp] theorem State.abort_clk (s : State) (t : Nat) : (s.abort t).clk = s.clk := State.clk_of_mail (State.abort_mail s t)

@[simp] theorem State.finishWfi_cores (s : State) (t : Nat) : (s.finishWfi t).cores = s.cores := by
  unfold State.finishWfi; split <;> rfl

@[simp] theorem State.finishWfi_clk (s : State) (t : Nat) : (s.finishWfi t).clk = s.clk := by
  unfold State.finishWfi; split <;> rfl

/-- A thread stops issuing for a pre-emption: its wait of WFI ends, its capture closes, its segment aborts or commits. -/
def State.stopThread (s : State) (tid : Nat) : State :=
  let s := (s.finishWfi tid).modThread tid Thread.closeCapture
  let t := s.thread tid
  if !t.occ then s
  else if s.speculative t then s.abort tid
  else if t.entries ≠ [] then s.post 0 .segmentCommitComplete { tid := tid }
  else s

theorem State.preemptBegin_eq (s : State) (c : Nat) : s.preemptBegin c =
    ((List.range 4).foldl (fun (u : State) k => u.stopThread (4 * c + k))
      (s.modCore c (fun c => { c with preempted := true, preemptHeld := false }))).post 1 .preemptMessage
        { core := c, n := 1 } := rfl

/-- The cores and the clk stay as a thread stops. -/
theorem State.stopThread_cores (s : State) (t : Nat) :
    ((s.stopThread t).clk, (s.stopThread t).cores) = (s.clk, s.cores) := by
  unfold State.stopThread
  dsimp only
  split
  · simp
  split
  · simp
  split <;> simp

theorem State.preemptBegin_spec (s : State) (c : Nat) : ((s.preemptBegin c).core c).preempted = true ∧
    ((s.preemptBegin c).core c).preemptHeld = false ∧
    (s.clk + 1, Instr.preemptMessage, ({ core := c, n := 1 } : Ev)) ∈ (s.preemptBegin c).agenda := by
  have hkept := foldl_same (fun u : State => (u.clk, u.cores)) (fun (u : State) k => u.stopThread (4 * c + k))
    (fun u _ => u.stopThread_cores _) (List.range 4)
    (s.modCore c (fun c => { c with preempted := true, preemptHeld := false }))
  rw [State.preemptBegin_eq]
  generalize List.foldl _ _ _ = u at hkept ⊢
  obtain ⟨hclk, hcores⟩ := Prod.mk.inj hkept
  have hcore : u.core c = { s.core c with preempted := true, preemptHeld := false } := by
    unfold State.core
    rw [hcores]
    exact State.core_modCore_self s c _
  rw [State.core_post, hcore]
  exact ⟨rfl, rfl, (State.mem_post_agenda _ _ _ _ _).2 (.inl (by rw [hclk]; rfl))⟩

/-! ### A drained core is saved (R283 to R285) -/

/-- The threads of a core are suspended one by one, each with the fault that it has pending. -/
def State.suspendThreads (s : State) (c : Nat) : State :=
  (List.range 4).foldl (fun (u : State) k => (u.preemptFault (4 * c + k)).preemptThread (4 * c + k)) s

theorem State.suspendThreads_mail (s : State) (c : Nat) : (s.suspendThreads c).mail = s.mail :=
  foldl_same State.mail _ (fun _ _ => (State.preemptThread_mail _ _).trans (State.preemptFault_mail _ _)) _ s

theorem exec_preemptMessage_drained (hn : s.ev.n = 1) (hpre : (s.core s.ev.core).preempted = true)
    (hsaved : (s.core s.ev.core).saved = false) (hquiet : ∀ k < 4, s.quiet (4 * s.ev.core + k) = true) :
    exec .preemptMessage s = .next ((s.suspendThreads s.ev.core).saveCore s.ev.core) := by
  show execPreemptMessage s = _
  unfold execPreemptMessage event
  dsimp only
  rw [if_pos hn, if_neg (by simp [hpre, hsaved]), if_pos (by simpa using hquiet)]
  rfl

@[simp] theorem State.copyDelivered_mail (s : State) (c : Nat) (w : Word) : (s.copyDelivered c w).mail = s.mail := by
  unfold State.copyDelivered; split <;> rfl

/-- Slots of one core that are changed alike. -/
theorem thread_foldl_modThread (c n : Nat) (f : Thread → Thread) (s : State) (k : Nat) :
    ((List.range n).foldl (fun (u : State) j => u.modThread (4 * c + j) f) s).thread (4 * c + k) =
      if k < n then f (s.thread (4 * c + k)) else s.thread (4 * c + k) := by
  induction n with
  | zero => rfl
  | succ n ih =>
    rw [List.range_succ, List.foldl_append, List.foldl_cons, List.foldl_nil]
    by_cases hk : k = n
    · subst hk
      rw [State.thread_modThread_self, ih, if_neg (Nat.lt_irrefl k), if_pos (Nat.lt_succ_self k)]
    · rw [State.thread_modThread_other _ _ _ _ (by omega), ih]
      have hiff : k < n + 1 ↔ k < n := by omega
      simp only [hiff]

/-- The messages of a saved core stand at the head of its spill queue; its queues are empty. -/
theorem State.saveCore_spec (s : State) (c : Nat) :
    ((s.saveCore c).core c).saved = true ∧ ((s.saveCore c).core c).mailbox = [] ∧
    ((s.saveCore c).core c).port = [] ∧
    ((s.saveCore c).core c).spillq = (s.core c).mailbox.map (fun x => (x.1, x.2, 0)) ++ (s.core c).port ++
      (s.core c).spillq ∧
    ((s.saveCore c).core c).q4 = [] ∧ ∀ k < 4, ((s.saveCore c).thread (4 * c + k)).q0 = [] := by
  unfold State.saveCore
  dsimp only
  have hwords : ((s.contextWords c).foldl (fun (u : State) x =>
      u.chipWrite {} (cellsOf (Config.contextBlock c + x.1) 8 x.2.toNat)) s).mail = s.mail :=
    foldl_same State.mail _ (fun u x => State.chipWrite_mail _ _ _) _ s
  generalize List.foldl _ s (s.contextWords c) = u at hwords ⊢
  have hcopies : ((u.core c).port.foldl (fun (u : State) x => u.copyDelivered c x.1) u).mail = s.mail :=
    (foldl_same State.mail _ (fun u x => State.copyDelivered_mail _ _ _) _ u).trans hwords
  generalize List.foldl _ u (u.core c).port = u at hcopies ⊢
  have hmail := State.core_mail_of_mail hcopies c
  simp only [Core.mail, Prod.mk.injEq] at hmail
  obtain ⟨-, hbox, hport, hspill⟩ := hmail
  refine ⟨?_, ?_, ?_, ?_, ?_, fun k hk => ?_⟩
  case refine_6 => rw [thread_foldl_modThread, if_pos hk]
  all_goals rw [foldl_same (fun t : State => t.core c) _ (fun w _ => State.core_modThread w _ _ _), State.core_modCore_self]
  rw [hbox, hport, hspill]

theorem preemptMessage_drained_completes (hn : s.ev.n = 1) (hpre : (s.core s.ev.core).preempted = true)
    (hsaved : (s.core s.ev.core).saved = false) (hquiet : ∀ k < 4, s.quiet (4 * s.ev.core + k) = true) :
    Completes .preemptMessage s (fun t =>
      (t.core s.ev.core).saved = true ∧ (t.core s.ev.core).mailbox = [] ∧ (t.core s.ev.core).port = [] ∧
      (t.core s.ev.core).spillq = (s.core s.ev.core).mailbox.map (fun x => (x.1, x.2, 0)) ++ (s.core s.ev.core).port ++
        (s.core s.ev.core).spillq ∧
      (t.core s.ev.core).q4 = [] ∧ (∀ k < 4, (t.thread (4 * s.ev.core + k)).q0 = [])) := by
  refine ⟨_, exec_preemptMessage_drained hn hpre hsaved hquiet, ?_⟩
  have hmail := State.core_mail_of_mail (s.suspendThreads_mail s.ev.core) s.ev.core
  simp only [Core.mail, Prod.mk.injEq] at hmail
  obtain ⟨-, hbox, hport, hspill⟩ := hmail
  have h := (s.suspendThreads s.ev.core).saveCore_spec s.ev.core
  rwa [hbox, hport, hspill] at h

/-- A thread that takes the fault takes it as at a suspension point (R241). -/
theorem State.preemptFault_vec {tid : Nat} {f : Flt} {pc : Word} (hocc : (s.thread tid).occ = true)
    (hrun : (s.thread tid).stopped = false) (hlevel : (s.thread tid).level ≠ .F) (hhandler : hact (s.thread tid) = false)
    (hspec : s.speculative (s.thread tid) = false) (hvec : (s.thread tid).pendVec = some (f, pc)) :
    s.preemptFault tid = s.deliverPending tid .vec f := by
  unfold State.preemptFault
  dsimp only
  rw [if_neg (by simp [hocc, hrun, hlevel, hhandler, hspec]), hvec]

/-! ### The resume message (R283, R285) -/

theorem exec_resumeMessage_free (hpre : (s.core s.ev.core).preempted = false) :
    exec .resumeMessage s = .next (s.modCore s.ev.core (fun c => { c with preemptHeld := false })) := by
  show execResumeMessage s = _
  unfold execResumeMessage event
  dsimp only
  rw [if_pos (by simp [hpre])]

/-- What the resume message of a saved core leads to. -/
def State.resumed (s : State) (c : Nat) : State :=
  let w (k : Nat) : Nat := ((s.contextQueue c 0 3).getD k 0).toNat
  let q4 (j : Nat) := s.contextQueue c (0x40 + 64 * j) (bitsN (w 0) (4 * j + 3) (4 * j))
  let q0 (b : Nat) := s.contextQueue c (0x140 + 128 * b) (bitsN (w (1 + b / 8)) (8 * (b % 8) + 7) (8 * (b % 8)))
  let fault (k : Nat) : Option Flt :=
    if (w 0).testBit (16 + k) then some ⟨cMAU, (s.contextQueue c (0x18 + 8 * k) 1).headD 0⟩ else none
  let back := (List.range 4).foldl (fun u k => (u.modThread (4 * c + k) (fun t => { t with
    q0 := q0 (4 * k), q1 := q0 (4 * k + 1), q2 := q0 (4 * k + 2), q3 := q0 (4 * k + 3),
    pendMau := fault k <|> t.pendMau })).replace (4 * c + k)) s
  (back.modCore c (fun x => { x with
    q4 := q4 0, q5 := q4 1, q6 := q4 2, q7 := q4 3, preempted := false, saved := false })).reseat.postNow
    .mailboxPortDrain { core := c }

theorem exec_resumeMessage_saved (hpre : (s.core s.ev.core).preempted = true) (hsaved : (s.core s.ev.core).saved = true) :
    exec .resumeMessage s = .next (s.resumed s.ev.core) := by
  have hqueue : ∀ k i, 0x140 + 512 * k + 128 * i = 0x140 + 128 * (4 * k + i) := fun k i => by omega
  show execResumeMessage s = _
  unfold execResumeMessage event State.resumed
  dsimp only
  rw [if_neg (by simp [hpre]), if_neg (by simp [hsaved])]
  simp only [hqueue, Nat.add_zero]

theorem State.resumed_spec (s : State) (c : Nat) : ((s.resumed c).core c).preempted = false ∧
    ((s.resumed c).core c).spillq = (s.core c).spillq ∧
    (s.resumed c).agenda.head? = some (s.clk, Instr.mailboxPortDrain, ({ core := c } : Ev)) := by
  unfold State.resumed
  dsimp only
  generalize hback : List.foldl _ s (List.range 4) = back
  have hback : back.mail = s.mail := by
    rw [← hback]
    exact foldl_same State.mail _ (fun u k => (State.replace_mail _ _).trans (State.modThread_mail _ _ _)) _ _
  generalize hfree : back.modCore c _ = u
  have hpre : (u.core c).preempted = false := by
    rw [← hfree, State.core_modCore_self]
  have hspill : (u.core c).spillq = (s.core c).spillq := by
    have h := State.core_mail_of_mail hback c
    simp only [Core.mail, Prod.mk.injEq] at h
    rw [← hfree, State.core_modCore_self]
    exact h.2.2.2
  have hclk : u.clk = s.clk := by
    rw [← hfree, State.modCore_clk]
    exact State.clk_of_mail hback
  have hseat := State.core_mail_of_mail (State.reseat_mail u) c
  simp only [Core.mail, Prod.mk.injEq] at hseat
  obtain ⟨hpre', -, -, hspill'⟩ := hseat
  refine ⟨hpre'.trans hpre, hspill'.trans hspill, ?_⟩
  show some (u.reseat.clk, _, _) = _
  rw [State.clk_of_mail (State.reseat_mail u), hclk]

theorem resumeMessage_saved_completes (hpre : (s.core s.ev.core).preempted = true)
    (hsaved : (s.core s.ev.core).saved = true) : Completes .resumeMessage s (fun t =>
      (t.core s.ev.core).preempted = false ∧ (t.core s.ev.core).spillq = (s.core s.ev.core).spillq ∧
      t.agenda.head? = some (s.clk, Instr.mailboxPortDrain, ({ core := s.ev.core } : Ev))) :=
  ⟨_, exec_resumeMessage_saved hpre hsaved, s.resumed_spec s.ev.core⟩

/-! ### A thread goes back into its slot (R282, R283) -/

/-- No segment is speculative: a performed write aborts nothing. -/
theorem State.abortReaders_of_no_snaps (h : s.snaps = []) (w : Writer) (pa : Nat) : s.abortReaders w pa = s := by
  unfold State.abortReaders
  refine foldl_keeps (P := fun t : State => t = s) _ (fun t x ht => ?_) _ _ rfl
  subst ht
  dsimp only
  split
  · unfold State.abort
    rw [h]
    rfl
  · rfl

theorem State.chipWrite_calm (h : s.snaps = []) (w : Writer) (cs : List Host.Cell) :
    (s.chipWrite w cs).calm = s.calm := by
  unfold State.chipWrite
  dsimp only
  refine foldl_keeps (P := fun t : State => t.calm = s.calm) _ (fun t l ht => ?_) _ _ (State.chipPut_calm _ _)
  rw [State.abortReaders_of_no_snaps]
  · exact ht
  · exact (State.snaps_of_calm ht).trans h

/-- A frame or record write changes no slot where it aborts none. -/
theorem State.frameWrite_calm (hsnaps : s.snaps = []) {p c : Nat} {a v : Word} (h : s.frameWrite p c a v = .ok u) :
    u.calm = s.calm := by
  unfold State.frameWrite at h
  split at h <;> cases h
  · exact State.tcmStore_calm _ _ _ _ _
  · exact State.spadWrite_calm _ _ _ _ _
  · exact (State.chipWrite_calm (by exact hsnaps) _ _).trans (State.modCore_calm (fun _ => Core.sample_mail _ _))

theorem State.frameWrite_of_place {p c : Nat} {a v : Word} {q : FramePlace} (h : s.framePlace p c .store a = .ok q) :
    ∃ u, s.frameWrite p c a v = .ok u := by
  unfold State.frameWrite
  rw [h]
  cases q <;> exact ⟨_, rfl⟩

/-- Where a frame access falls says no slot. -/
theorem State.framePlace_setThread (s : State) (t : Nat) (x : Thread) (p c : Nat) (k : Acc) (a : Word) :
    (s.setThread t x).framePlace p c k a = s.framePlace p c k a := rfl

@[simp] theorem State.refreshOf_threads (s : State) (t : Nat) : (s.refreshOf t).threads = s.threads := by
  unfold State.refreshOf State.refreshMin
  dsimp only
  split
  · split
    · split <;> rfl
    · rfl
  · rfl

/-- The words of a record. -/
def recordWords (r : Word) : List Word := (List.range 8).map (fun k => r + BitVec.ofNat 64 (8 * k))

/-- The lines of a thread's record come through the L1. -/
def State.recordTouched (s : State) (tid : Nat) : State :=
  (recordWords (s.thread tid).record).foldl (fun u a => u.frameTouch (s.thread tid).part (tid / 4) a) s

/-- Word `k` of a thread's record, its lines being in the L1. -/
def State.recordWord (s : State) (tid k : Nat) : Nat :=
  ((s.recordTouched tid).frameRead (s.thread tid).part (tid / 4) ((s.thread tid).record + BitVec.ofNat 64 k)).toNat

theorem State.loadVec_of_no_vx {tid : Nat} (h : (s.thread tid).vx = false) : s.loadVec tid = s := by
  unfold State.loadVec
  dsimp only
  rw [if_pos (by simp [h])]

/-- What a thread without vector state takes from its record as it goes back into its slot. -/
theorem State.replace_thread {tid : Nat} (hsnaps : s.snaps = []) (hst : (s.thread tid).st = 6)
    (hvx : (s.thread tid).vx = false)
    (hclean : ∀ a ∈ recordWords (s.thread tid).record, s.framePoison (s.thread tid).part (tid / 4) a = none)
    (hplace : ∃ p, (s.recordTouched tid).framePlace (s.thread tid).part (tid / 4) .store
      ((s.thread tid).record + 0x28) = .ok p) :
    let rd := s.recordWord tid
    let r := (s.replace tid).thread tid
    r.st = 2 ∧ r.pc = sextW (rd 0) 48 &&& ~~~1#64 ∧ r.level = (if (rd 0x28).testBit 56 then Level.S else .U) ∧
      r.loopst = loopOf (rd 0) (rd 0x28) (rd 0x30) ∧ r.queue = bitsN (rd 0x28) 60 57 ∧
      r.vctl = BitVec.ofNat 64 (bitsN (rd 0x28) 55 49 + bitsN (rd 0x28) 48 46 * 256) ∧
      r.wait = none ∧ r.ce = [] := by
  intro rd r
  have hcalm : (s.recordTouched tid).calm = s.calm := State.frameTouches_calm s _ _ _
  have hnone : (recordWords (s.thread tid).record).findSome?
      (fun a => s.framePoison (s.thread tid).part (tid / 4) a) = none := List.findSome?_eq_none_iff.2 hclean
  have hpc : rd 0 = ((s.recordTouched tid).frameRead (s.thread tid).part (tid / 4) (s.thread tid).record).toNat := by
    show ((s.recordTouched tid).frameRead _ _ ((s.thread tid).record + 0#64)).toNat = _
    rw [BitVec.add_zero]
  have hvx' : ((s.recordTouched tid).thread tid).vx = false := by
    rw [State.thread_of_calm hcalm, hvx]
  have hsnaps' : (s.recordTouched tid).snaps = [] := (State.snaps_of_calm hcalm).trans hsnaps
  rw [hpc]
  unfold r State.replace
  dsimp only
  rw [if_neg (by simp [hst])]
  split
  · rename_i a hpoison
    exact nomatch hnone.symm.trans hpoison
  generalize hu : List.foldl _ s (List.map _ (List.range 8)) = u
  obtain rfl : s.recordTouched tid = u := hu
  rw [State.loadVec_of_no_vx (by rw [State.thread_setThread_self]; exact hvx')]
  split
  · rename_i w hwrite
    rw [State.thread, State.refreshOf_threads, ← State.thread,
      State.thread_of_calm (State.frameWrite_calm (by exact hsnaps') hwrite), State.thread_setThread_self]
    exact ⟨rfl, rfl, rfl, rfl, rfl, rfl, rfl, rfl⟩
  · rename_i c hfail
    obtain ⟨p, hplace⟩ := hplace
    obtain ⟨w, hwrite⟩ := State.frameWrite_of_place ((State.framePlace_setThread _ _ _ _ _ _ _).trans hplace)
    exact nomatch hfail.symm.trans hwrite

/-- Settles O45: the message by the set of cores that it takes; the drain, the saved core and the resumed one by the
messages, which no frame, fault or resumption touches. -/
theorem preemptResult : Obligations.PreemptResult := by
  unfold Obligations.PreemptResult
  exact ⟨fun s hn hpre => exec_preemptMessage_ignored hn hpre,
    fun s hn hpre hset => exec_preemptMessage_held hn hpre hset,
    fun s all hn hpre hset => ⟨exec_preemptMessage_begins hn hpre hset, State.preemptSet_some hset⟩,
    fun s c => s.preemptBegin_spec c,
    fun s hn hpre hsaved hquiet => preemptMessage_drained_completes hn hpre hsaved hquiet,
    fun s tid f pc hocc hrun hlevel hhandler hspec hvec =>
      State.preemptFault_vec hocc hrun hlevel hhandler hspec hvec,
    fun s hpre => exec_resumeMessage_free hpre,
    fun s hpre hsaved => resumeMessage_saved_completes hpre hsaved,
    fun s hpre hsaved => exec_resumeMessage_saved hpre hsaved,
    fun s tid hsnaps hst hvx hclean hplace => State.replace_thread hsnaps hst hvx hclean hplace⟩

end Sys2Proof.Machine
end

section
/-! A vector load of a core in test mode. A scalar access takes every TCM offset of test mode as local (R70), and so does
`State.Local`; the VU goes through the L1 above the local units whatever the mode, and what that brings from the backing
window takes the place of the bytes that stood there. `vecChecks` refuses vector instructions in test mode, so none issues
there; the obligation speaks of `vecBody` in any state. -/

namespace Sys2Proof.Machine

/-- Core 0 in test mode as reset leaves it, with a byte of 1 in the first TCM unit above its six local ones. -/
def testModeByte : State := { State.reset with cores := [(0, { test := true, tcm := [(0x60000, 1)] })] }

/-- VLD of one FP32 element at 0x60000 into v1. -/
def vldAboveUnits : VuCmd :=
  { ins := .vld ⟨1, 5, 0, 0, false⟩, pc := 0, einfo := 0, hasR := false, vl := 1, fmt := 0, rm := 0, tblA := 0, tblB := 0,
    level := .F, scalars := [(0, 0x60000)], draws := [], issued := 0 }

theorem active_vldAboveUnits : testModeByte.active vldAboveUnits 0 = true := by decide +kernel

theorem eq_zero_of_active_vldAboveUnits {i : Nat} (h : testModeByte.active vldAboveUnits i = true) : i = 0 := by
  have hlt : i < 1 := of_decide_eq_true (Bool.and_eq_true_iff.1 h).1
  omega

theorem unbound_vldAboveUnits : testModeByte.Unbound [1] := by
  unfold State.Unbound
  decide +kernel

/-- The one element lies where the obligation asks: in the window of test mode, aligned, unmoved and without poison. -/
theorem vecLocal_vldAboveUnits :
    testModeByte.VecLocal vldAboveUnits (vldAboveUnits.scalar 0 + 0) (fun i => (i : Int)) (fun _ => 0x60000) where
  outside := by decide +kernel
  fmt := .inl rfl
  at_ := fun i h => by
    cases eq_zero_of_active_vldAboveUnits h
    exact ⟨⟨by decide +kernel, by decide +kernel, by decide +kernel, .inl rfl, by decide +kernel⟩, by decide +kernel⟩

/-- The core's TCM holds 1 there. -/
theorem readB_testModeByte : readB testModeByte.myCore.tcm 0x60000 (memBytes vldAboveUnits.fmt) = 1 := by decide +kernel

/-- The load leaves 0 in v1, the bytes of the backing window. -/
theorem vecBody_vldAboveUnits :
    (match vecBody vldAboveUnits testModeByte with
      | .ok _ t => some (t.th.v 1 0)
      | .error _ _ => none) = some 0 := by decide +kernel

/-- Refutes O27: the load clause takes resident TCM of a core in test mode to be any offset below 14 units, and the VU reads
the backing window for those above the local units. -/
theorem not_vectorElements : ¬ Obligations.VectorElements := by
  unfold Obligations.VectorElements
  rintro ⟨-, -, -, -, -, -, -, -, -, -, -, -, hload, -⟩
  obtain ⟨t, hbody, -, -, -, -, hread⟩ := hload testModeByte vldAboveUnits 0 (fun i => (i : Int)) (fun _ => 0x60000) 1
    rfl (by decide) rfl rfl unbound_vldAboveUnits vecLocal_vldAboveUnits
  have hone : t.th.v 1 0 = 1 := by
    rw [hread 1 0 (by decide) (by decide), if_pos ⟨rfl, active_vldAboveUnits⟩, readB_testModeByte]
    exact Nat.mod_eq_of_lt (by decide)
  have hzero := vecBody_vldAboveUnits
  rw [hbody] at hzero
  simp [hone] at hzero

end Sys2Proof.Machine
end
